-- ==== Sys2Proof/Word.lean ====
section
/-!
DEFINITION. The machine's words (R4: little-endian, bit 0 least significant) and the shape of sparse data.
-/
namespace Sys2Proof

abbrev Byte := BitVec 8
abbrev W16 := BitVec 16
abbrev W32 := BitVec 32
abbrev W64 := BitVec 64
/-- A code word: a clause header or an instruction (R26, R31). -/
abbrev W128 := BitVec 128

/-- Sparse data: key and value pairs, keys rising, no pair holding the value an unlisted key reads as. -/
abbrev Sparse (α : Type) := List (Nat × α)

/-- Bits `lo` to `lo + n - 1` of a number. -/
def bitsOf (x lo n : Nat) : Nat := x / 2 ^ lo % 2 ^ n

end Sys2Proof
end

