-- ==== Sys2Proof/Config.lean ====
section
/-!
DEFINITION. What an implementation fixes, and the free values: constants without a body that stand for every value the
manual leaves open (R6). No proof can see what a free value is.
-/
namespace Sys2Proof

/-- The seven special functions of Table 4.7. -/
inductive SpecialFn where
  | frcp | frsq | fexp2 | flog2 | fsin | fcos | ftanh
  deriving DecidableEq, Repr

namespace Config

/-- DEVST.STEP, the device's stepping (Table 15.4). DEDUCED from the worked programs, which call 1 the device's stepping
(log entry 6). -/
def stepping : W16 := 1

/-- FREE. The choices of R43: a read before its value is readable, a write overtaken by a later one; log entry 3. -/
opaque freeBit : Nat → Bool
/-- FREE. An unpredictable 32-bit value (R6); log entry 3. -/
opaque freeWord : Nat → W32
/-- FREE. An unpredictable byte (R6, R223); log entry 3. -/
opaque freeByte : Nat → Byte
/-- FREE. A special function's delivered result for a format code and a non-negative input pattern whose exact result the
manual does not fix (R93 to R95); for FEXP2 and FLOG2, the input from which a result is reached; log entry 8. -/
opaque specialValue : SpecialFn → Nat → Nat → Nat
/-- FREE. Ed448 verification of a message under the operator key held in flash (R392); log entry 6. -/
opaque operatorSignature : List Byte → Nat → Bool
/-- FREE. The operator key that a record of R392's form carries to replace the one in flash, where it is no rollback record; log
entry 6. -/
opaque newOperatorKey : List Byte → Option Nat
/-- FREE. Whether an image of board flash, by its number, verifies under Gwestahal's firmware key (R390); log entry 6. -/
opaque bankVerifies : Nat → Bool
/-- FREE. The device serial number (R392); log entry 6. -/
opaque serial : W64
/-- FREE. The digest input of measurements 2 and 4 for an image's number: contents of the firmware and of the Jorac image
(R385); log entry 6. -/
opaque imageBytes : Nat → Nat → List Byte
/-- FREE. The boot ROM's version record, the digest input of measurement 1 (R385); log entry 6. -/
opaque romRecord : List Byte
/-- FREE. The certificate chain of slot 0, Gwestahal's for the identity key (R384); log entry 6. -/
opaque certificateChain : List Byte
/-- FREE. The alias key, derived from the device-unique secret and measurement 2 (R384); log entry 6. -/
opaque aliasKey : List Byte → List Byte
/-- FREE. The Ed448 signature of a message under a private key (R384); log entry 6. -/
opaque ed448 : List Byte → List Byte → List Byte
/-- FREE. Jorac's code for its image, a container and a stepping (R402, R403); log entry 7. -/
opaque joracCode : List Byte → List Byte → W16 → List Byte
/-- FREE. Jorac's choice of CB and of RB = RM for its image, a container and a stepping (R402); log entry 7. -/
opaque joracClaim : List Byte → List Byte → W16 → Nat × Nat
/-- FREE. Whether a Jorac image schedules for a stepping (Table 21.5, status 13); log entry 7. -/
opaque joracSchedules : List Byte → W16 → Bool
/-- FREE. The values of a container that a Jorac image proves uniform, and so may keep in scalars (R402); log entry 7. -/
opaque joracUniform : List Byte → List Byte → List Nat
/-- FREE. The choices of a Jorac image for a container and a stepping, by their numbers: registers, priorities, the flag and the parts of
literals that no operation needs (R402); log entry 7. -/
opaque joracPick : List Byte → List Byte → W16 → Nat → Nat
/-- FREE. Whether the link of display `d` can carry the stream that a DCTL value asks for (Table 16.1, ERR); log entry 3. -/
opaque linkCarries : Nat → W64 → Bool

/-- FREE. Whether a peer refuses a request that carries an IID for a key of its memory, at a clk count (R378); log entry 3. -/
opaque peerRefuses : Nat → Nat → Nat → Bool

end Config
end Sys2Proof
end

