-- ==== Sys2Proof/Syntax.lean ====
section
/-!
DEFINITION. The syntax of the N9: operand codes, type codes, the fields of an instruction word, the names the events of
the opcode table carry, and `Instr`, one constructor for each row of spec/opcode_table.json.
-/
namespace Sys2Proof

/-- The operand codes of Table 2.6 (R37). -/
inductive Operand where
  | v (n : Fin 640)
  | q (n : Fin 16)
  | s (n : Fin 128)
  | e (n : Fin 8)
  | p (n : Fin 16)
  | m (n : Fin 12)
  | lane
  | wave
  | zero
  | litLo
  | litHi
  | ones
  /-- Codes 826 to 831, reserved. -/
  | special (n : Fin 6)
  /-- Integer constants 0 to 63. -/
  | int (n : Fin 64)
  /-- Float constants of Table 2.7. -/
  | flt (n : Fin 64)
  /-- Codes 960 to 1022, reserved. -/
  | reserved (n : Fin 63)
  /-- Code 1023. -/
  | none
  deriving DecidableEq, Repr

/-- The type codes of Table 2.8 (R40), in order of code. -/
inductive Ty where
  | b32 | i32 | n32 | f32 | b64 | i64 | n64 | f64
  | i16 | n16 | f16 | bf16 | i16x2 | n16x2 | f16x2 | bf16x2
  | i8 | n8 | i8x4 | n8x4 | f8e4 | f8e5 | tf8a | tf8b
  | tf6a | tf6b | i4p | n4p | i2p | n2p | i1p | none
  deriving DecidableEq, Repr

/-- The fields of an instruction word but OPC (Table 2.3, R31). In groups 8 and 9, SM1 is MORD (R158). -/
structure Fields where
  ro    : BitVec 4
  fsel  : Bool
  yld   : Bool
  stall : BitVec 4
  hint  : BitVec 3
  gc    : Bool
  gbn   : Bool
  gb    : BitVec 4
  gan   : Bool
  ga    : BitVec 4
  sm3   : BitVec 12
  sm2   : BitVec 12
  sm1   : BitVec 12
  op4   : Operand
  op3   : Operand
  op2   : Operand
  op1   : Operand
  op0   : Operand
  ty    : Ty
  deriving DecidableEq, Repr

/-- Names a wave: the block's number in the model and WAVE. -/
structure WRef where
  blk  : Nat
  wave : Nat
  deriving DecidableEq, Repr

/-- Names a frontier entry by one of its lanes: every live lane belongs to exactly one entry (R9). -/
structure ERef where
  blk  : Nat
  wave : Nat
  lane : Nat
  deriving DecidableEq, Repr

/-- Where a register is written, and by whom (R313, R375): at an offset of the control block by a core's store or by a service pair, at
an offset of its BAR0 by a host function, or in a function's configuration space. -/
inductive RegPort where
  | core (off : Nat)
  | host (fn off : Nat)
  | config (fn off : Nat)
  | pair (die off : Nat)
  deriving DecidableEq, Repr

/-- What can hold a line under the directory (R229). -/
inductive Holder where
  | l1 (die core : Nat)
  | l2 (slice : Nat)
  | window (blk win : Nat)
  | grove (die grove : Nat)
  | engine (cmd : Nat)
  | host
  /-- The CXL port, for the atomics that it performs on host memory (R318). -/
  | port
  | dist (qid : Nat)
  /-- The device's copy of the line of an outstanding service request's header (R284). -/
  | ring (oid slot : Nat)
  deriving DecidableEq, Repr

/-- How the executive answers a page fault (R291): it maps the page by writing a leaf, or ends the block. -/
inductive PfAnswer where
  | map (leaf : W64)
  | deny
  deriving DecidableEq, Repr

/-- What a peer asks of this device's memory (R379): a read, a write, an atomic of Table 7.5 with its value, or a CAS with the value
compared and the value stored. -/
inductive PeerOp where
  | read (n : Nat)
  | write (bytes : List Byte)
  | atomic (op : Nat) (t : Ty) (v : Nat)
  | cas (t : Ty) (old v : Nat)
  deriving DecidableEq, Repr

/-- An IDE stream of the PCI Express port: link IDE, or a function's selective stream (R381). -/
inductive IdeStream where
  | link
  | selective (fn : Nat)
  deriving DecidableEq, Repr

/-- A key slot of a stream (R381). -/
structure IdeSlot where
  stream : IdeStream
  slot   : Nat
  deriving DecidableEq, Repr

/-- What the executives of two devices agree on for a Shener link port (R379, R382): this device's number in the peer group, and a key for
each direction. -/
structure ShenerKeys where
  port   : Nat
  number : BitVec 3
  tx     : BitVec 256
  rx     : BitVec 256
  deriving DecidableEq, Repr

/-- What a function's DOE mailbox asks over SPDM (R384): the algorithms, a slot's certificate chain, a secured session to open or to
close, or a measurement. -/
inductive SpdmRequest where
  | algorithms
  | certificate (slot : Nat)
  | openSession
  | closeSession
  | measurement (idx : Nat)
  deriving DecidableEq, Repr

/-- What a kill ends (R267, R303). -/
inductive KillTarget where
  | block (uid : Nat)
  | owner (oid : Nat)
  deriving DecidableEq, Repr

/-- The causes of a fatal error (R393). -/
inductive FatalCause where
  | doubleFaultOfSystem
  | softErrorInSystemRegion
  | everyServicePairFailed
  deriving DecidableEq, Repr

/-- The ends of a firmware image update (R394). -/
inductive ImageUpdate where
  | start (bank : Bool)
  | finish
  deriving DecidableEq, Repr

/-- What a host writes to its own memory with a snoop: from a byte of the line on, or nothing (R318). -/
abbrev HostWrite := Option (Nat × List Byte)

/-- One constructor for each row of spec/opcode_table.json: the instructions, then the steps that no instruction word
names, each with what it acts on. -/
inductive Instr where
  /-- IADD (R77): Integer add with wrap-around, per lane or once in scalar form. -/
  | iadd (f : Fields)
  /-- ISUB (R77): Integer subtract with wrap-around. -/
  | isub (f : Fields)
  /-- IADDC (R78): Add with carry-in and carry-out predicates. -/
  | iaddc (f : Fields)
  /-- ISUBB (R78): Subtract with borrow-in and borrow-out predicates. -/
  | isubb (f : Fields)
  /-- IADDS (R77): Saturating integer add. -/
  | iadds (f : Fields)
  /-- ISUBS (R77): Saturating integer subtract. -/
  | isubs (f : Fields)
  /-- IMUL (R77): Low w bits of an integer product. -/
  | imul (f : Fields)
  /-- IMULH (R77): High w bits of the 2w-bit integer product. -/
  | imulh (f : Fields)
  /-- IMAD (R77): Integer multiply-add with wrap-around. -/
  | imad (f : Fields)
  /-- IMADW (R77): Widening 32x32 multiply plus a 64-bit addend. -/
  | imadw (f : Fields)
  /-- IDIV (R79): Long-latency integer division truncated toward zero. -/
  | idiv (f : Fields)
  /-- IREM (R79): Long-latency integer remainder with the dividend's sign. -/
  | irem (f : Fields)
  /-- INEG (R77): Integer negation with wrap-around. -/
  | ineg (f : Fields)
  /-- IABS (R77): Integer absolute value with wrap-around. -/
  | iabs (f : Fields)
  /-- IMIN (R77): Lesser of two integers. -/
  | imin (f : Fields)
  /-- IMAX (R77): Greater of two integers. -/
  | imax (f : Fields)
  /-- ICLAMP (R77): Clamps an integer between two bounds. -/
  | iclamp (f : Fields)
  /-- IDIFF (R77): Exact absolute difference, written as unsigned. -/
  | idiff (f : Fields)
  /-- IDP4 (R80): Four-way 8-bit dot product plus a 32-bit addend. -/
  | idp4 (f : Fields)
  /-- IDP2 (R80): Two-way 16-bit dot product plus a 32-bit addend. -/
  | idp2 (f : Fields)
  /-- LEA (R81): Address computation A + (Ext(B) << k). -/
  | lea (f : Fields)
  /-- MOV (R82): Copies a source to a register or pushes one element onto a writable queue. -/
  | mov (f : Fields)
  /-- MOVW (R82): Builds a 64-bit pair from two 32-bit sources. -/
  | movw (f : Fields)
  /-- AND (R83): Bitwise AND. -/
  | and (f : Fields)
  /-- OR (R83): Bitwise OR. -/
  | or (f : Fields)
  /-- XOR (R83): Bitwise XOR. -/
  | xor (f : Fields)
  /-- ANDN (R83): A AND NOT B. -/
  | andn (f : Fields)
  /-- NOT (R83): Bitwise complement. -/
  | not (f : Fields)
  /-- SHL (R84): Shift left by B mod w. -/
  | shl (f : Fields)
  /-- SHR (R84): Logical shift right by B mod w. -/
  | shr (f : Fields)
  /-- SAR (R84): Arithmetic shift right by B mod w. -/
  | sar (f : Fields)
  /-- ROTL (R84): Rotate left. -/
  | rotl (f : Fields)
  /-- ROTR (R84): Rotate right. -/
  | rotr (f : Fields)
  /-- FUNNEL (R84): Funnel shift of a 64-bit concatenation, low 32 bits kept. -/
  | funnel (f : Fields)
  /-- BFX (R85): Bit-field extract with sign or zero extension. -/
  | bfx (f : Fields)
  /-- BFI (R85): Bit-field insert. -/
  | bfi (f : Fields)
  /-- BREV (R83): Bit reversal. -/
  | brev (f : Fields)
  /-- POPC (R83): Population count. -/
  | popc (f : Fields)
  /-- CLZ (R83): Count leading zeros. -/
  | clz (f : Fields)
  /-- CTZ (R83): Count trailing zeros. -/
  | ctz (f : Fields)
  /-- FADD (R88): Float add rounded once. -/
  | fadd (f : Fields)
  /-- FSUB (R88): Float subtract rounded once. -/
  | fsub (f : Fields)
  /-- FMUL (R88): Float multiply rounded once. -/
  | fmul (f : Fields)
  /-- FFMA (R88): Fused multiply-add with one rounding. -/
  | ffma (f : Fields)
  /-- FMIN (R89): Float minimum, NaN-propagating. -/
  | fmin (f : Fields)
  /-- FMAX (R89): Float maximum, NaN-propagating. -/
  | fmax (f : Fields)
  /-- FMINN (R89): Float minimum preferring the number. -/
  | fminn (f : Fields)
  /-- FMAXN (R89): Float maximum preferring the number. -/
  | fmaxn (f : Fields)
  /-- FABS (R87): Float absolute value. -/
  | fabs (f : Fields)
  /-- FCLAMP (R89): Float clamp through FMaxN and FMinN. -/
  | fclamp (f : Fields)
  /-- FRND (R90): Rounds to an integral float value, raising no flag. -/
  | frnd (f : Fields)
  /-- FFRAC (R90): Fractional part A - Floor(A). -/
  | ffrac (f : Fields)
  /-- FSCL (R91): Scales by a power of two. -/
  | fscl (f : Fields)
  /-- FEXPN (R91): Writes the unbiased exponent as i32. -/
  | fexpn (f : Fields)
  /-- FMANT (R91): Mantissa in [1, 2) with the sign of A. -/
  | fmant (f : Fields)
  /-- FDIV (R92): Long-latency correctly rounded float division. -/
  | fdiv (f : Fields)
  /-- FSQRT (R92): Long-latency correctly rounded square root. -/
  | fsqrt (f : Fields)
  /-- FRCP (R93): Long-latency reciprocal within 1 ulp. -/
  | frcp (f : Fields)
  /-- FRSQ (R93): Long-latency reciprocal square root. -/
  | frsq (f : Fields)
  /-- FEXP2 (R93): Long-latency base-2 exponential. -/
  | fexp2 (f : Fields)
  /-- FLOG2 (R93): Long-latency base-2 logarithm. -/
  | flog2 (f : Fields)
  /-- FSIN (R95): Long-latency sine of 2πA. -/
  | fsin (f : Fields)
  /-- FCOS (R95): Long-latency cosine of 2πA. -/
  | fcos (f : Fields)
  /-- FTANH (R93): Long-latency hyperbolic tangent. -/
  | ftanh (f : Fields)
  /-- CVT (R66): Converts a value between two types. -/
  | cvt (f : Fields)
  /-- PACK (R67): Builds a packed value from element sources. -/
  | pack (f : Fields)
  /-- UNPK (R68): Extracts one element of a packed value. -/
  | unpk (f : Fields)
  /-- BPACK (R69): Packs 64 integers into one bit-plane group. -/
  | bpack (f : Fields)
  /-- BUNPK (R70): Unpacks bit-plane elements from their top planes. -/
  | bunpk (f : Fields)
  /-- ISETP (R100): Integer compare into a predicate. -/
  | isetp (f : Fields)
  /-- FSETP (R100): Float compare into a predicate. -/
  | fsetp (f : Fields)
  /-- FCLASS (R101): Tests a float's class against a mask. -/
  | fclass (f : Fields)
  /-- SEL (R102): Selects between two values by predicate. -/
  | sel (f : Fields)
  /-- PLOP (R102): Logic operation on predicates. -/
  | plop (f : Fields)
  /-- PTOV (R102): Predicate to vector value. -/
  | ptov (f : Fields)
  /-- VTOP (R102): Vector value to predicate. -/
  | vtop (f : Fields)
  /-- SHFL (R104): Reads a value from an indexed lane. -/
  | shfl (f : Fields)
  /-- TLU (R105): Per-lane byte table lookup with fill. -/
  | tlu (f : Fields)
  /-- ZIP2 (R106): Interleaves two sources across two registers. -/
  | zip2 (f : Fields)
  /-- ZIP3 (R106): Interleaves three sources across three registers. -/
  | zip3 (f : Fields)
  /-- ZIP4 (R106): Interleaves four sources across four registers. -/
  | zip4 (f : Fields)
  /-- UNZ2 (R106): Inverse of ZIP2. -/
  | unz2 (f : Fields)
  /-- UNZ3 (R106): Inverse of ZIP3. -/
  | unz3 (f : Fields)
  /-- UNZ4 (R106): Inverse of ZIP4. -/
  | unz4 (f : Fields)
  /-- VOTE (R107): All, any, uniform or ballot vote over participating lanes. -/
  | vote (f : Fields)
  /-- REDUCE (R109): Tree reduction over lanes whose result is pushed to e6 after 12 clk. -/
  | reduce (f : Fields)
  /-- WSCAN (R110): Inclusive or exclusive prefix over participating lanes. -/
  | wscan (f : Fields)
  /-- RDLANE (R111): Pushes one lane's value onto e6. -/
  | rdlane (f : Fields)
  /-- BRA (R114): Relative branch that splits the entry by guard. -/
  | bra (f : Fields)
  /-- BRX (R114): Per-lane absolute branch splitting by target. -/
  | brx (f : Fields)
  /-- CALL (R114): Relative call writing the return address. -/
  | call (f : Fields)
  /-- CALL_B64 (R114): Per-lane absolute call writing the return address. -/
  | callB64 (f : Fields)
  /-- RET (R114): Per-lane absolute return. -/
  | ret (f : Fields)
  /-- JOINM (R116): Enrols participating lanes in a mask. -/
  | joinm (f : Fields)
  /-- LEAVEM (R116): Withdraws lanes from a mask and re-evaluates release. -/
  | leavem (f : Fields)
  /-- WAITM (R117): Lanes arrive at a mask, parking or releasing all parked lanes. -/
  | waitm (f : Fields)
  /-- MSKMOV (R118): Moves between mask registers and other kinds. -/
  | mskmov (f : Fields)
  /-- EXIT (R115): Ends participating lanes, clearing masks and counting barrier arrivals. -/
  | exit (f : Fields)
  /-- NOP (R120): No effect beyond timing fields. -/
  | nop (f : Fields)
  /-- YIELD (R120): Delays the entry k clk, offering slots to other waves. -/
  | yield (f : Fields)
  /-- LD (R162): Global load into registers. -/
  | ld (f : Fields)
  /-- ST (R162): Global store from registers. -/
  | st (f : Fields)
  /-- LDS (R162): Stash load. -/
  | lds (f : Fields)
  /-- STS (R162): Stash store. -/
  | sts (f : Fields)
  /-- STMAP (R154): Maps a stash window onto a global range. -/
  | stmap (f : Fields)
  /-- STUNMAP (R157): Waits for touching commands, writes back and unmaps a window. -/
  | stunmap (f : Fields)
  /-- STFLUSH (R157): Writes back dirty lines of one or all windows. -/
  | stflush (f : Fields)
  /-- PREF (R163): Prefetches lines toward the core without faulting. -/
  | pref (f : Fields)
  /-- ATOM (R166): Atomic read-modify-write returning nothing. -/
  | atom (f : Fields)
  /-- ATOMR (R166): Atomic read-modify-write returning the old value. -/
  | atomr (f : Fields)
  /-- CAS (R168): Compare-and-swap returning the old element. -/
  | cas (f : Fields)
  /-- LR (R169): Load-reserved for the lowest participating lane. -/
  | lr (f : Fields)
  /-- SC (R169): Store-conditional against the wave's reservation. -/
  | sc (f : Fields)
  /-- FENCE (R170): Orders the thread's accesses at a scope, optionally as a remote acquire. -/
  | fence (f : Fields)
  /-- WAITA (R171): Parks lanes until watched elements meet a condition or a timeout. -/
  | waita (f : Fields)
  /-- WAITA_REEVALUATE (R171): A write landing on a watched word makes a parked WAITA group re-read and possibly release. -/
  | waitaReevaluate (e : ERef)
  /-- WAITA_TIMEOUT (R171): Expiry of T clk releases a parked WAITA group with per-lane outcomes. -/
  | waitaTimeout (e : ERef)
  /-- ACQ_REG (R135): Requests register bundles for the wave, blocking until granted. -/
  | acqReg (f : Fields)
  /-- ACQ_MSLOT (R135): Requests matrix slots for the block, blocking until granted. -/
  | acqMslot (f : Fields)
  /-- ACQT (R136): Non-blocking resource request reporting status and outcome. -/
  | acqt (f : Fields)
  /-- REL (R137): Returns the wave's top bundles or the block's slots to the Forester. -/
  | rel (f : Fields)
  /-- GIVE (R138): Moves the wave's top bundles to the block's spare pool. -/
  | give (f : Fields)
  /-- CLAIM (R138): Takes bundles from the spare pool onto the wave's claim. -/
  | claim (f : Fields)
  /-- CARVE_GET (R139): Requests stash ways taken from L1, blocking until granted. -/
  | carveGet (f : Fields)
  /-- CARVE_TRY (R139): Non-blocking stash way request with status. -/
  | carveTry (f : Fields)
  /-- CARVE_PUT (R139): Returns the block's top stash ways after draining and write-back. -/
  | carvePut (f : Fields)
  /-- PHASE (R144): Arrival at the block's phase-end barrier. -/
  | phase (f : Fields)
  /-- BAR (R143): Arrival at the block barrier, an acquire-release at .blk. -/
  | bar (f : Fields)
  /-- REGROUP (R147): Arrival at the block barrier that re-sorts lane contexts by key. -/
  | regroup (f : Fields)
  /-- MTEN_QUIESCE (R205): Stops a matrix tenant at the next row boundary. -/
  | mtenQuiesce (f : Fields)
  /-- MTEN_RESUME (R205): Lets a quiesced tenant continue. -/
  | mtenResume (f : Fields)
  /-- MTEN_RESET (R205): Discards a tenant's queue and clears its planes, accumulator and faults. -/
  | mtenReset (f : Fields)
  /-- MTEN_CTR (R205): Reads a tenant performance counter. -/
  | mtenCtr (f : Fields)
  /-- MWLD (R187): Captures a weight header and queues a shadow-plane load. -/
  | mwld (f : Fields)
  /-- MSWAP (R188): Queues an exchange of the active and shadow planes. -/
  | mswap (f : Fields)
  /-- MRUN (R195): Captures a parameter block and queues a matrix run. -/
  | mrun (f : Fields)
  /-- MINIT (R201): Queues a preset of accumulator rows to zero or a bias. -/
  | minit (f : Fields)
  /-- MRDA (R202): Queues a read of accumulator rows into registers. -/
  | mrda (f : Fields)
  /-- MRDA_OVF (R202): Queues a read-and-clear of the tenant's overflow bits. -/
  | mrdaOvf (f : Fields)
  /-- MSYNC (R204): Holds the entry until the wave's matrix commands complete, then acquires. -/
  | msync (f : Fields)
  /-- ENQ_E0 (R199): Pushes a parameter block from scalars as an MRUN command. -/
  | enqE0 (f : Fields)
  /-- ENQ_E1 (R203): Pushes registers as activation elements onto e1. -/
  | enqE1 (f : Fields)
  /-- DEQ (R203): Pops result elements from e2 into registers. -/
  | deq (f : Fields)
  /-- MWLD_EXECUTE (R187): A queued MWLD checks its header and loads the shadow plane. -/
  | mwldExecute (blk : Nat)
  /-- MSWAP_EXECUTE (R188): Once earlier commands complete, the planes are exchanged. -/
  | mswapExecute (blk : Nat)
  /-- MRUN_EXECUTE (R198): A queued MRUN streams its rows, accumulates, outputs and writes its completion word. -/
  | mrunExecute (blk : Nat)
  /-- MINIT_EXECUTE (R201): A queued MINIT presets its accumulator rows. -/
  | minitExecute (blk : Nat)
  /-- MRDA_EXECUTE (R202): A queued MRDA delivers accumulator rows or overflow bits. -/
  | mrdaExecute (blk : Nat)
  /-- SLOT_CHANGE_EFFECT (R181): A tenant's slot count change takes effect once its queue is empty. -/
  | slotChangeEffect (blk : Nat)
  /-- GBAR (R218): Arrival at the gang barrier. -/
  | gbar (f : Fields)
  /-- GBAR_COMPLETE (R218): 1 clk after the last member arrives, the gang barrier completes and releases members. -/
  | gbarComplete (gang : Nat)
  /-- CPY (R220): Pushes a copy record captured from the stash to e3. -/
  | cpy (f : Fields)
  /-- CPY_S (R220): Pushes a copy record from 16 scalars to e3. -/
  | cpyS (f : Fields)
  /-- COPY_EXECUTE (R223): The copy engine checks and executes a command, then writes its completion word. -/
  | copyExecute (cid : Nat)
  /-- COPY_STATUS_PUSH (R223): A held status element is pushed to e4 when a place frees. -/
  | copyStatusPush (cid : Nat)
  /-- LAUNCH (R259): Releases at .dev and submits a launch record to the die's pool. -/
  | launch (f : Fields)
  /-- GRUN (R259): Releases at .dev and submits a graph run. -/
  | grun (f : Fields)
  /-- BLAZE (R260): Releases and publishes a blaze key with the block's generation. -/
  | blaze (f : Fields)
  /-- BLZQ (R261): Queries the owner's blaze entry for a key. -/
  | blzq (f : Fields)
  /-- BLZDROP (R261): Frees the owner's blaze entry for a key. -/
  | blzdrop (f : Fields)
  /-- PXST (R337): Writes pixels of the caller's back surface where it holds the map. -/
  | pxst (f : Fields)
  /-- PXLD (R339): Reads pixels of the caller's back surface. -/
  | pxld (f : Fields)
  /-- TEX (R351): Bilinear sample at an explicit level. -/
  | tex (f : Fields)
  /-- TEXF (R351): Bilinear sample with level from derivatives. -/
  | texf (f : Fields)
  /-- RAST (R354): Rasterises each lane's triangle into a stash visibility tile. -/
  | rast (f : Fields)
  /-- TRAP (R277): Allocates a trap frame and enters the owner's handler. -/
  | trap (f : Fields)
  /-- SVC (R282): Writes a service request to the ring and parks the lanes. -/
  | svc (f : Fields)
  /-- RTT (R279): Returns lanes from trap mode, restoring state when the last leaves. -/
  | rtt (f : Fields)
  /-- BRKP (R280): Breakpoint entering the handler when DBG is set. -/
  | brkp (f : Fields)
  /-- MFSR (R121): Reads a special register. -/
  | mfsr (f : Fields)
  /-- MTSR (R122): Writes MODE. -/
  | mtsr (f : Fields)
  /-- ROUND_OPEN (R12): A wave with no open entry opens a primary and possibly a secondary clause. -/
  | roundOpen (w : WRef)
  /-- LONG_LATENCY_COMPLETE (R30): A long-latency instruction completes, fills its results and may clear its flag. -/
  | longLatencyComplete (w : WRef) (op : Nat)
  /-- E6_PUSH (R25): 12 clk after a REDUCE or RDLANE issues, its tagged result is pushed onto e6. -/
  | e6Push (w : WRef)
  /-- WAVE_END (R115): When all lanes have exited and issued work completed, the wave ends and its claim returns. -/
  | waveEnd (w : WRef)
  /-- PENDING_GRANT (R132): A pending resource request is retested after a release and granted. -/
  | pendingGrant (die core : Nat)
  /-- PHASE_END (R144): After the phase barrier and a full drain, the block saves, releases and re-enters the ready pool. -/
  | phaseEnd (blk : Nat)
  /-- REGROUP_PERMUTE (R147): After register writes land, lane contexts are sorted and placed. -/
  | regroupPermute (blk : Nat)
  /-- DIR_READ_SHARED (R229): Home agent serves a read-shared request. -/
  | dirReadShared (line : Nat) (h : Holder)
  /-- DIR_READ_OWN (R229): Home agent invalidates other copies and grants ownership. -/
  | dirReadOwn (line : Nat) (h : Holder)
  /-- DIR_WRITE_BACK (R229): A holder's dirty sectors are written to the home. -/
  | dirWriteBack (line : Nat) (h : Holder)
  /-- DIR_RECALL (R229): A holder writes back and downgrades on recall. -/
  | dirRecall (line : Nat) (h : Holder) (toShared : Bool)
  /-- PROMOTE (R232): A releasing block drains its store path and windows at .dev. -/
  | promote (blk : Nat)
  /-- RACQ_PROCEED (R232): A remote acquire proceeds once the promotion is done or no record exists. -/
  | racqProceed (e : ERef)
  /-- PAGE_FAULT_RESOLVE (R291): The executive maps the page and replays, or ends the block fatally. -/
  | pageFaultResolve (pf : Nat) (r : PfAnswer)
  /-- QUEUE_ARRIVAL (R244): Invalidation of the TAIL line makes the distributor accept queue entries. -/
  | queueArrival (qid : Nat)
  /-- QUEUE_ENTRY_ACCEPT (R244): An entry is read, checked and copied into the ready pool when there is room. -/
  | queueEntryAccept (qid : Nat)
  /-- BLOCK_CREATE (R246): Blocks are created and phase record headers written while the launch has room. -/
  | blockCreate (launch : Nat)
  /-- PHASE_READY (R255): A gated phase becomes ready when its last key is satisfied. -/
  | phaseReady (phase : Nat)
  /-- PHASE_DISPATCH (R247): The distributor chooses a dispatchable phase for a core able to admit. -/
  | phaseDispatch (die core : Nat)
  /-- AGEING_PERIOD (R247): Each ageing period of 2^16 clk advances dispatchable phases' counts. -/
  | ageingPeriod (die : Nat)
  /-- LAUNCH_COMPLETE (R245): When all blocks are done, the launch's completion word is written. -/
  | launchComplete (launch : Nat)
  /-- QUOTA_PERIOD_START (R251): Every QPER clk USED is reduced by BUDGET. -/
  | quotaPeriodStart (die : Nat)
  /-- QUOTA_OVERRUN (R252): USED reaching BUDGET plus overrun pre-empts the owner's blocks with a record. -/
  | quotaOverrun (die oid : Nat)
  /-- BLAZE_PUBLISH (R256): A publication reaches the key's home blaze table. -/
  | blazePublish (pub : Nat)
  /-- GRAPH_RUN_START (R264): The trail engine takes a run request, checks the table and launches root nodes. -/
  | graphRunStart (die : Nat)
  /-- NODE_COMPLETE (R264): A completed node's successors are walked and counters updated. -/
  | nodeComplete (run node : Nat)
  /-- PRIORITY_PREEMPT (R295): A higher-class phase blocked 2^16 clk pre-empts a lower-class block. -/
  | priorityPreempt (die : Nat)
  /-- BLOCK_PARK (R283): A block whose lanes are all parked and drained parks off-core. -/
  | blockPark (blk : Nat)
  /-- SVC_REPLY_LAND (R284): The host's RDONE write lands the reply. -/
  | svcReplyLand (oid slot : Nat) (bytes : List Byte)
  /-- SVC_REPLY_DELIVER (R284): Reply elements are pushed to e7 when there is room. -/
  | svcReplyDeliver (w : WRef)
  /-- PRECMD (R296): PRECMD GO selects and pre-empts resident blocks. -/
  | precmd (v : W64)
  /-- PREEMPT_HALT (R297): Affected waves stop issuing at an instruction boundary. -/
  | preemptHalt (blk : Nat)
  /-- PREEMPT_SAVE (R299): After in-flight work drains and a slot is free, the block is saved and released. -/
  | preemptSave (blk : Nat)
  /-- TLBI (R292): TLBIC GO invalidates an owner's translations. -/
  | tlbi (v : W32)
  /-- L2_MODE_SWITCH (R228): L2CTL GO flushes and switches L2 between shared and private modes. -/
  | l2ModeSwitch (v : W32)
  /-- FT_ASSIGN (R323): Assigns and zero-fills a frame for an owner. -/
  | ftAssign (v : W64)
  /-- FT_RELEASE (R323): Releases a frame. -/
  | ftRelease (v : W64)
  /-- FT_BIAS_TO_HOST (R325): Starts a flip of a frame to host bias. -/
  | ftBiasToHost (v : W64)
  /-- FT_BIAS_TO_DEVICE (R325): Starts a flip of a frame to device bias. -/
  | ftBiasToDevice (v : W64)
  /-- HOST_CXL_MEM_READ (R369): A host CXL.mem read of device memory. -/
  | hostCxlMemRead (addr n : Nat)
  /-- HOST_CXL_MEM_WRITE (R369): A host CXL.mem write of device memory. -/
  | hostCxlMemWrite (addr : Nat) (bytes : List Byte)
  /-- HOST_SNOOP (R318): A host snoop recalls a host line held by the device. -/
  | hostSnoop (line : Nat) (write : HostWrite)
  /-- HOST_REGISTER_READ (R319): A host register read completes after prior CXL.mem writes are performed. -/
  | hostRegisterRead (fn off : Nat)
  /-- MSIX_SEND (R316): A pending MSI-X message is sent after CXL drains. -/
  | msixSend (fn vec : Nat)
  /-- MAILBOX_DOORBELL (R316): MBDB write hands the request area to the executive. -/
  | mailboxDoorbell (fn : Nat)
  /-- MAILBOX_REPLY (R316): The executive replies, clears MBDB and sends vector 2. -/
  | mailboxReply (fn : Nat) (bytes : List Byte)
  /-- JORAC_FINALISE (R402): Finalises a Biline container into Trikan code and replies. -/
  | joracFinalise (fn : Nat)
  /-- LOCKSTEP_MISMATCH (R312): A service pair stops and clears its HEALTHY bit. -/
  | lockstepMismatch (die : Nat)
  /-- HEARTBEAT_TIMEOUT (R314): A follower sees no HBW change for 40 ms. -/
  | heartbeatTimeout (die : Nat)
  /-- TAKEOVER_ATTEMPT (R314): After its rank delay a follower CASes LEADW and takes over. -/
  | takeoverAttempt (die : Nat)
  /-- THROTTLE_DOWN (R311): Power or temperature limit lowers a die's clock. -/
  | throttleDown (die : Nat)
  /-- THROTTLE_UP (R311): Each millisecond under limits raises the clock one step. -/
  | throttleUp (die : Nat)
  /-- GLADE_ENABLE (R373): EN=1 to a glade descriptor activates it or is refused. -/
  | gladeEnable (g : Nat)
  /-- GLADE_DISABLE (R373): EN=0 turns a glade off unless owners remain valid. -/
  | gladeDisable (g : Nat)
  /-- MEMLAY_WRITE (R372): One-time write of stack channel layout. -/
  | memlayWrite (v : BitVec 4)
  /-- ACCESS_TABLE_WRITE (R377): Writes an access window, ignored with ATERR if forbidden. -/
  | accessTableWrite (t iid win : Nat) (v : W128)
  /-- PEER_REQUEST (R379): A request from a peer device is checked and served. -/
  | peerRequest (p h addr : Nat) (r : PeerOp)
  /-- SHENER_MAC_FAILURE (R382): A MAC failure drops the group and stops the port. -/
  | shenerMacFailure (port : Nat)
  /-- FUNCTION_LEVEL_RESET (R386): Resets, sweeps and scrubs a glade in seven steps. -/
  | functionLevelReset (n : Nat)
  /-- TAG_WALK_SWEEP (R387): TWCMD GO invalidates lines and TLB entries matching a tag. -/
  | tagWalkSweep (die : Nat) (v : W32)
  /-- SPDM_GET_MEASUREMENTS (R385): Computes and returns measurement digests. -/
  | spdmGetMeasurements (fn : Nat) (r : SpdmRequest)
  /-- ROLLBACK_RECORD (R392): A signed rollback record selects the boot bank. -/
  | rollbackRecord (r : BitVec 1536)
  /-- FATAL_ERROR (R393): Sets FATAL, writes the dump and sends vector 3. -/
  | fatalError (cause : FatalCause)
  /-- FRAME_START (R331): At vertical blanking FRAME advances, map commands apply and layers latch. -/
  | frameStart (d : Nat)
  /-- MAP_COMMAND (R334): MAPOP GO writes one slot over a rectangle at the next boundary. -/
  | mapCommand (d : Nat) (v : W32)
  /-- CAPTURE_START (R348): CAPCTL GO starts a capture of the next frame. -/
  | captureStart (d : Nat) (v : W64)
  /-- DISPLAY_ENABLE (R330): DCTL EN=1 enables a display or is refused. -/
  | displayEnable (d : Nat) (v : W64)
  /-- DISPLAY_DISABLE (R332): DCTL EN=0 stops frames after the current scanout. -/
  | displayDisable (d : Nat) (v : W64)
  /-- REGISTER_WRITE (R313): A write to a control-block register with no behaviour of its own. -/
  | registerWrite (port : RegPort) (v : W64)
  /-- BACKGROUND_COMPLETE (R162): A store, atomic or prefetch that is not long-latency is performed at its target some time after issue, including a peer's acknowledgement or refusal of it. -/
  | backgroundComplete (die core idx : Nat) (refused : Bool)
  /-- KILL (R267): The executive kills a block or an owner's context, moving its phases to done and removing its blazes and runs. -/
  | kill (t : KillTarget)
  /-- SHENER_KEY_EXCHANGE (R382): The executives of two devices establish or renew a Shener link port's keys over its management flits, restarting a port stopped by a MAC failure. -/
  | shenerKeyExchange (k : ShenerKeys)
  /-- FIRMWARE_IMAGE_UPDATE (R394): A PLDM firmware image update writes a bank and then ends, and rollback records are refused until it has ended. -/
  | firmwareImageUpdate (u : ImageUpdate)
  /-- LEADER_ELECTION (R312): 100 ms after reset the lowest healthy die becomes leader. -/
  | leaderElection
  /-- HEARTBEAT (R314): The leader increments HBW. -/
  | heartbeat
  /-- DEVICE_RESET (R391): Reset boots a verified firmware bank. -/
  | deviceReset
  /-- BIAS_FLIP_COMPLETE (R325): Once drains and host answers finish, the bias changes and held accesses go on. -/
  | biasFlipComplete
  /-- IDE_KM_KEY_PROG (R381): IDE_KM, carried over an SPDM secured session, installs keys into an IDE stream's key slots. -/
  | ideKmKeyProg (slot : IdeSlot) (key : BitVec 256)
  deriving DecidableEq, Repr

end Sys2Proof
end

