-- ==== Sys2Proof/WellFormed.lean ====
section
/-!
DEFINITION. What a legal instruction is: the use that each opcode makes of its word's fields (`OpSpec`), the encoding checks
of R32, R36, R39, R40 and of the instructions' own entries, and `Instr.wf`. Class and position (R28, R29) depend on the
clause, and operand kinds (R37) on the claim; they are checked at issue.
-/
namespace Sys2Proof

/-- The number of an operand code (Table 2.6). -/
def Operand.code : Operand → Nat
  | .v n => n
  | .q n => 640 + n
  | .s n => 656 + n
  | .e n => 784 + n
  | .p n => 792 + n
  | .m n => 808 + n
  | .lane => 820
  | .wave => 821
  | .zero => 822
  | .litLo => 823
  | .litHi => 824
  | .ones => 825
  | .special n => 826 + n
  | .int n => 832 + n
  | .flt n => 896 + n
  | .reserved n => 960 + n
  | .none => 1023

/-- The operand of a code below 1024 (Table 2.6). -/
def Operand.ofCode (c : Nat) : Operand :=
  if h : c < 640 then .v ⟨c, h⟩
  else if h : c - 640 < 16 then .q ⟨c - 640, h⟩
  else if h : c - 656 < 128 then .s ⟨c - 656, h⟩
  else if h : c - 784 < 8 then .e ⟨c - 784, h⟩
  else if h : c - 792 < 16 then .p ⟨c - 792, h⟩
  else if h : c - 808 < 12 then .m ⟨c - 808, h⟩
  else if c = 820 then .lane
  else if c = 821 then .wave
  else if c = 822 then .zero
  else if c = 823 then .litLo
  else if c = 824 then .litHi
  else if c = 825 then .ones
  else if h : c - 826 < 6 then .special ⟨c - 826, h⟩
  else if h : c - 832 < 64 then .int ⟨c - 832, h⟩
  else if h : c - 896 < 64 then .flt ⟨c - 896, h⟩
  else if h : c - 960 < 63 then .reserved ⟨c - 960, h⟩
  else .none

/-- Kinds that leave an instruction in scalar form (R34). -/
def Operand.isScalarKind : Operand → Bool
  | .s _ | .e _ | .int _ | .flt _ | .zero | .ones | .wave | .litLo | .litHi => true
  | _ => false

/-- A v or q register, to which a permuting modifier may be applied (R39). -/
def Operand.isVQ : Operand → Bool
  | .v _ | .q _ => true
  | _ => false

/-- Operand `k` of an instruction word. -/
def Fields.op (f : Fields) : Nat → Operand
  | 0 => f.op0
  | 1 => f.op1
  | 2 => f.op2
  | 3 => f.op3
  | _ => f.op4

/-- Source modifier of operand `k`. -/
def Fields.sm (f : Fields) : Nat → BitVec 12
  | 1 => f.sm1
  | 2 => f.sm2
  | _ => f.sm3

/-- How an opcode's form is decided: by R34; never scalar, with guards of its own; or once for the entry, with default
guards required. -/
inductive Form where
  | byOperands
  | wide
  | once
  deriving DecidableEq, Repr

/-- What an opcode uses of its word. `use` has bit k set where operand k is used, and `sms` bit k where source modifier k
may be nonzero; `opt` marks the used operands that hold 1023 in some words; `long` marks the long-latency instructions of
R30, `rounds` those that list rounding. -/
structure OpSpec where
  use    : Nat
  sms    : Nat
  tys    : List Ty
  long   : Bool := false
  rounds : Bool := false
  form   : Form := .byOperands
  opt    : Nat := 0
  deriving DecidableEq, Repr

/-- The checks of R42 step 1 that a word can fail on its own, in order. -/
inductive DecodeError where
  | reservedBits
  | opcode
  | typeCode
  | unusedOperand
  | modifier
  | guard
  | flagSelect
  | hint
  | rounding
  | ordering
  | form
  deriving DecidableEq, Repr

/-- Whether bit `k` is set. -/
def hasBit (x k : Nat) : Bool := x / 2 ^ k % 2 == 1

/-- R34 on the operands that the opcode uses. -/
def scalarForm (sp : OpSpec) (f : Fields) : Bool :=
  match sp.form with
  | .byOperands =>
    (match f.op0 with
      | .s _ | .e _ | .none => true
      | _ => false) &&
    [1, 2, 3, 4].all fun k => !hasBit sp.use k || (hasBit sp.opt k && f.op k == .none) || (f.op k).isScalarKind
  | .wide => false
  | .once => true

/-- GA = GB = 15 and GAN = GBN = GC = 0. -/
def defaultGuards (f : Fields) : Bool :=
  f.ga == 15#4 && f.gb == 15#4 && !f.gan && !f.gbn && !f.gc

/-- Whether a type code is numeric for R39: the i, n and IEEE-style float types. -/
def Ty.isNumber : Ty → Bool
  | .b32 | .b64 | .tf8a | .tf8b | .tf6a | .tf6b | .i4p | .n4p | .i2p | .n2p | .i1p | .none => false
  | _ => true

/-- R39's encoding checks of one source modifier on an operand of read type `t`. -/
def modifierOk (m : BitVec 12) (o : Operand) (t : Ty) : Bool :=
  let x := m.toNat
  let neg := bitsOf x 11 1
  let cls := bitsOf x 8 3
  let seg := bitsOf x 5 3
  let dist := bitsOf x 0 5
  (if cls = 7 then false
   else if cls = 0 ∨ cls = 6 then seg == 0 && dist == 0
   else o.isVQ && decide (1 ≤ seg) && decide (seg ≤ 5) && decide (dist < 2 ^ seg) && (cls != 4 || dist == 0)) &&
  ((neg == 0 && cls != 6) || t.isNumber)

/-- Whether an operand pops an engine queue, which makes an instruction long-latency (R30). -/
def popsQueue (f : Fields) (use : Nat) : Bool :=
  [1, 2, 3, 4].any fun k => hasBit use k &&
    match f.op k with
    | .e _ => true
    | _ => false

/-! MORD (Table 7.1) -/

def Fields.mord (f : Fields) : Nat := f.sm1.toNat
def Fields.scope (f : Fields) : Nat := bitsOf f.mord 0 3
def Fields.ord (f : Fields) : Nat := bitsOf f.mord 3 2
def Fields.rmt (f : Fields) : Bool := hasBit f.mord 5
def Fields.condEq (f : Fields) : Bool := hasBit f.mord 6
def Fields.inStash (f : Fields) : Bool := hasBit f.mord 7

end Sys2Proof
end

