-- ==== Sys2Proof/Decode.lean ====
section
/-!
DEFINITION. Decoding and encoding of instruction words (R31 to R42 and the encoding tables of every group). `decode` is total
on 128-bit words and rejects by name; a word it rejects takes the illegal-instruction fault at issue.
-/
namespace Sys2Proof

/-! ## Types -/

/-- The code of a type (Table 2.8). -/
def Ty.code : Ty → Nat
  | .b32 => 0 | .i32 => 1 | .n32 => 2 | .f32 => 3 | .b64 => 4 | .i64 => 5 | .n64 => 6 | .f64 => 7
  | .i16 => 8 | .n16 => 9 | .f16 => 10 | .bf16 => 11 | .i16x2 => 12 | .n16x2 => 13 | .f16x2 => 14 | .bf16x2 => 15
  | .i8 => 16 | .n8 => 17 | .i8x4 => 18 | .n8x4 => 19 | .f8e4 => 20 | .f8e5 => 21 | .tf8a => 22 | .tf8b => 23
  | .tf6a => 24 | .tf6b => 25 | .i4p => 26 | .n4p => 27 | .i2p => 28 | .n2p => 29 | .i1p => 30 | .none => 31

/-- The type of a code below 32. -/
def Ty.ofCode (n : Nat) : Ty :=
  match n with
  | 0 => .b32 | 1 => .i32 | 2 => .n32 | 3 => .f32 | 4 => .b64 | 5 => .i64 | 6 => .n64 | 7 => .f64
  | 8 => .i16 | 9 => .n16 | 10 => .f16 | 11 => .bf16 | 12 => .i16x2 | 13 => .n16x2 | 14 => .f16x2 | 15 => .bf16x2
  | 16 => .i8 | 17 => .n8 | 18 => .i8x4 | 19 => .n8x4 | 20 => .f8e4 | 21 => .f8e5 | 22 => .tf8a | 23 => .tf8b
  | 24 => .tf6a | 25 => .tf6b | 26 => .i4p | 27 => .n4p | 28 => .i2p | 29 => .n2p | 30 => .i1p | _ => .none

/-- The set W of R77. -/
def tysW : List Ty := [.i32, .n32, .i64, .n64]
/-- The set P of R77. -/
def tysP : List Ty := [.i16x2, .n16x2, .i8x4, .n8x4]
/-- The set S of R86. -/
def tysS : List Ty := [.f32, .f16, .bf16, .f64]
/-- The set F of R86. -/
def tysF : List Ty := [.f32, .f16, .bf16, .f64, .f16x2, .bf16x2]
/-- The types of group 3 (R93). -/
def tysSpecial : List Ty := [.f32, .f16, .bf16, .f16x2, .bf16x2]
def tysB : List Ty := [.b32, .b64]
/-- The types that CVT converts between (R66). -/
def tysCvt : List Ty :=
  [.i8, .n8, .i16, .n16, .i32, .n32, .i64, .n64, .f16, .bf16, .f32, .f64, .f8e4, .f8e5, .tf8a, .tf8b, .tf6a, .tf6b]
def tysPack : List Ty := [.i16x2, .n16x2, .f16x2, .bf16x2, .i8x4, .n8x4]
def tysPlane : List Ty := [.i4p, .n4p, .i2p, .n2p, .i1p]
/-- Types of loads and stores (Table 7.2). -/
def tysMem : List Ty := [.i8, .n8, .i16, .n16, .b32, .b64]

/-- Types that an atomic operation accepts (Table 7.5); an op code above 8 is an operand fault, left to issue. -/
def atomTys : Nat → List Ty
  | 0 => [.i32, .n32, .i64, .n64, .f32]
  | 1 | 2 => tysW
  | 3 | 4 | 5 | 6 => tysB
  | 7 | 8 => [.n32]
  | _ => [.i32, .n32, .i64, .n64, .f32, .b32, .b64]

/-! ## The opcode map (Table 2.9) and what each opcode uses -/

/-- Groups 0 to 3. -/
def specArith (opc : Nat) : Option OpSpec :=
  let d1 (t : List Ty) : OpSpec := { use := 0b00011, sms := 0b0010, tys := t }
  let d2 (t : List Ty) : OpSpec := { use := 0b00111, sms := 0b0110, tys := t }
  let d3 (t : List Ty) : OpSpec := { use := 0b01111, sms := 0b1110, tys := t }
  match opc with
  | 0x000 | 0x001 | 0x004 | 0x005 | 0x00E | 0x00F => some (d2 (tysW ++ tysP))
  | 0x002 | 0x003 => some { use := 0b11111, sms := 0b0110, tys := [.n32, .n64] }
  | 0x006 => some (d2 (tysW ++ [.i16x2, .n16x2]))
  | 0x007 => some (d2 tysW)
  | 0x008 => some (d3 (tysW ++ [.i16x2, .n16x2]))
  | 0x009 => some (d3 [.i64, .n64])
  | 0x00A | 0x00B => some { d2 tysW with long := true }
  | 0x00C | 0x00D => some (d1 [.i32, .i64, .i16x2, .i8x4])
  | 0x010 => some (d3 (tysW ++ tysP))
  | 0x011 => some (d2 ([.i32, .n32] ++ tysP))
  | 0x012 => some (d3 [.i8x4, .n8x4])
  | 0x013 => some (d3 [.i16x2, .n16x2])
  | 0x014 => some { use := 0b01111, sms := 0b0110, tys := [.n32, .n64] }
  | 0x015 => some (d1 [.b32, .i32, .n32, .f32, .b64, .i64, .n64, .f64, .i16, .n16, .f16, .bf16, .i16x2, .n16x2,
      .f16x2, .bf16x2])
  | 0x016 => some (d2 [.b64])
  | 0x040 | 0x041 | 0x042 | 0x043 | 0x048 | 0x049 => some (d2 tysB)
  | 0x044 | 0x04D | 0x04E | 0x04F | 0x050 => some (d1 tysB)
  | 0x045 | 0x046 => some (d2 (tysB ++ [.n16x2, .n8x4]))
  | 0x047 => some (d2 [.i32, .i64, .i16x2, .i8x4])
  | 0x04A => some (d3 [.b32])
  | 0x04B => some (d3 tysW)
  | 0x04C => some { use := 0b11111, sms := 0b1110, tys := tysB }
  | 0x080 | 0x081 | 0x082 | 0x08C => some { d2 tysF with rounds := true }
  | 0x083 => some { d3 tysF with rounds := true }
  | 0x084 | 0x085 | 0x086 | 0x087 => some (d2 tysF)
  | 0x088 | 0x08B => some (d1 tysF)
  | 0x089 => some (d3 tysF)
  | 0x08A => some { d1 tysF with rounds := true }
  | 0x08D | 0x08E => some (d1 tysS)
  | 0x08F => some { d2 tysS with long := true, rounds := true }
  | 0x090 => some { d1 tysS with long := true, rounds := true }
  | 0x0C0 | 0x0C1 | 0x0C2 | 0x0C3 | 0x0C4 | 0x0C5 | 0x0C6 => some { d1 tysSpecial with long := true }
  | _ => none

/-- Groups 4 to 7. -/
def specLanes (opc : Nat) : Option OpSpec :=
  match opc with
  | 0x100 => some { use := 0b00111, sms := 0b0010, tys := tysCvt, rounds := true }
  | 0x101 => some { use := 0b11111, sms := 0b1110, tys := tysPack, rounds := true }
  | 0x102 => some { use := 0b00111, sms := 0b0010, tys := tysPack }
  | 0x103 => some { use := 0b00111, sms := 0b0110, tys := tysPlane, form := .wide }
  | 0x104 => some { use := 0b01111, sms := 0b0010, tys := tysPlane, form := .wide }
  | 0x140 => some { use := 0b01111, sms := 0b0110, tys := tysW }
  | 0x141 => some { use := 0b01111, sms := 0b0110, tys := tysS }
  | 0x142 => some { use := 0b00111, sms := 0b0110, tys := tysS }
  | 0x143 => some { use := 0b01111, sms := 0b1100, tys := tysB }
  | 0x144 => some { use := 0b01111, sms := 0, tys := [.none] }
  | 0x145 => some { use := 0b00011, sms := 0, tys := [.b32, .n32] }
  | 0x146 => some { use := 0b00011, sms := 0b0010, tys := [.b32] }
  | 0x180 => some { use := 0b00111, sms := 0b0110, tys := tysB, form := .wide }
  | 0x181 => some { use := 0b11111, sms := 0b0010, tys := [.b32], form := .wide }
  | 0x182 | 0x185 => some { use := 0b00111, sms := 0b0110, tys := [.b32], form := .wide }
  | 0x183 | 0x186 => some { use := 0b01111, sms := 0b1110, tys := [.b32], form := .wide }
  | 0x184 | 0x187 => some { use := 0b11111, sms := 0b1110, tys := [.b32], form := .wide }
  | 0x188 => some { use := 0b00111, sms := 0, tys := [.none, .b32], form := .wide }
  | 0x189 => some { use := 0b00110, sms := 0b0010, tys := [.i32, .n32, .f32, .b32], long := true, rounds := true,
                    form := .wide }
  | 0x18A => some { use := 0b00111, sms := 0b0010, tys := [.i32, .n32, .f32, .b32], rounds := true, form := .wide }
  | 0x18B => some { use := 0b00110, sms := 0b0010, tys := [.b32], long := true, form := .wide }
  | 0x1C0 => some { use := 0b00010, sms := 0b0010, tys := [.none], form := .wide }
  | 0x1C1 | 0x1C3 => some { use := 0b00010, sms := 0b0010, tys := [.b64], form := .wide }
  | 0x1C2 => some { use := 0b00011, sms := 0b0010, tys := [.none, .b64], form := .wide }
  | 0x1C4 | 0x1C5 | 0x1C6 => some { use := 0b00001, sms := 0, tys := [.none], form := .wide }
  | 0x1C7 => some { use := 0b00011, sms := 0, tys := [.b32], form := .wide }
  | 0x1C8 | 0x1C9 => some { use := 0, sms := 0, tys := [.none], form := .wide }
  | 0x1CA => some { use := 0b00010, sms := 0, tys := [.none], form := .wide }
  | _ => none

/-- Groups 8 and 9; operand 1's modifier field is MORD (R158). -/
def specMemory (opc : Nat) : Option OpSpec :=
  match opc with
  | 0x200 | 0x202 => some { use := 0b00111, sms := 0b0010, tys := tysMem, long := true }
  | 0x201 | 0x203 => some { use := 0b01110, sms := 0b1010, tys := tysMem }
  | 0x204 => some { use := 0b11110, sms := 0b0010, tys := [.none], long := true, form := .once }
  | 0x205 | 0x206 => some { use := 0b00010, sms := 0b0010, tys := [.none], long := true, form := .once }
  | 0x207 => some { use := 0b00110, sms := 0b0010, tys := [.b32] }
  | 0x240 => some { use := 0b11110, sms := 0b1010, tys := atomTys 9 }
  | 0x241 => some { use := 0b11111, sms := 0b1010, tys := atomTys 9, long := true }
  | 0x242 => some { use := 0b11111, sms := 0b1010, tys := tysB, long := true }
  | 0x243 => some { use := 0b00111, sms := 0b0010, tys := tysB, long := true }
  | 0x244 => some { use := 0b01111, sms := 0b1010, tys := tysB, long := true }
  | 0x245 => some { use := 0, sms := 0b0010, tys := [.none], form := .once }
  | 0x246 => some { use := 0b11111, sms := 0b1010, tys := tysB }
  | _ => none

/-- Groups 10 to 14. -/
def specSystem (opc : Nat) : Option OpSpec :=
  let once (u : Nat) : OpSpec := { use := u, sms := 0, tys := [.none], form := .once }
  let ll (u : Nat) : OpSpec := { once u with long := true }
  match opc with
  | 0x280 | 0x282 => some (once 0b00110)
  | 0x281 | 0x285 => some (once 0b01111)
  | 0x283 | 0x284 | 0x286 => some (once 0b00010)
  | 0x287 => some (once 0)
  | 0x288 => some (once 0b00010)
  | 0x2C0 => some (once 0b00111)
  | 0x2C1 | 0x2C3 => some (ll 0b00010)
  | 0x2C2 | 0x2C6 => some (once 0)
  | 0x2C4 => some { once 0b01110 with tys := [.b32] }
  | 0x2C5 => some { use := 0b01111, sms := 0, tys := [.b32], long := true, form := .wide }
  | 0x2C7 => some { use := 0b00111, sms := 0, tys := [.b32], form := .wide }
  | 0x2C8 => some { use := 0b00111, sms := 0, tys := [.b32], long := true, form := .wide }
  | 0x300 => some (once 0)
  | 0x301 => some (once 0b00110)
  | 0x302 | 0x303 | 0x304 => some (ll 0b01110)
  | 0x305 => some (ll 0b00011)
  | 0x306 => some (ll 0b00010)
  | 0x340 => some { use := 0b11110, sms := 0, tys := [.f32, .b32, .b64], form := .wide }
  | 0x341 => some { use := 0b00111, sms := 0, tys := [.f32, .b32, .b64], long := true, form := .wide }
  | 0x342 | 0x343 => some { use := 0b01111, sms := 0, tys := [.f32], long := true, form := .wide }
  | 0x344 => some { use := 0b01110, sms := 0, tys := [.f32], long := true, form := .wide }
  | 0x380 | 0x383 => some { use := 0b00010, sms := 0, tys := [.none], form := .wide }
  | 0x381 => some { use := 0b11110, sms := 0, tys := [.none], form := .wide }
  | 0x382 => some { use := 0, sms := 0, tys := [.none], form := .wide }
  | 0x384 => some { use := 0b00011, sms := 0, tys := [.b32] }
  | 0x385 => some { use := 0b00110, sms := 0, tys := [.b32], form := .once }
  | _ => none

/-- What an opcode uses; `none` for an unassigned opcode (R41). -/
def specOf (opc : Nat) : Option OpSpec :=
  if opc < 0x100 then specArith opc
  else if opc < 0x200 then specLanes opc
  else if opc < 0x280 then specMemory opc
  else specSystem opc

/-! ## Checks -/

/-- The type that operand `k` is read as (R39). -/
def readTy (opc : Nat) (f : Fields) (k : Nat) : Ty :=
  match opc with
  | 0x009 => if k = 3 then f.ty else if f.ty = .i64 then .i32 else .n32
  | 0x012 => if k = 3 then (if f.ty = .i8x4 then .i32 else .n32) else f.ty
  | 0x013 => if k = 3 then (if f.ty = .i16x2 then .i32 else .n32) else f.ty
  | 0x014 => if k = 2 then (if f.op4 = .int 1 then .i32 else .n32) else f.ty
  | 0x016 => .b32
  | 0x045 | 0x046 | 0x047 | 0x048 | 0x049 => if k = 2 then .n32 else f.ty
  | 0x04A => if k = 3 then .n32 else f.ty
  | 0x04B => if k = 1 then f.ty else .n32
  | 0x04C => if 3 ≤ k then .n32 else f.ty
  | 0x08C => if k = 2 then .i32 else f.ty
  | 0x100 => match f.op2 with
    | .int n => Ty.ofCode n
    | _ => .none
  | 0x101 => match f.ty with
    | .f16x2 | .bf16x2 => .f32
    | .i16x2 | .i8x4 => .i32
    | _ => .n32
  | 0x103 => match f.ty with
    | .n4p | .n2p => .n32
    | _ => .i32
  | 0x142 => if k = 2 then .n32 else f.ty
  | 0x180 => if k = 2 then .n32 else f.ty
  | 0x246 => if k = 4 then .n32 else f.ty
  | _ => f.ty

/-- An opcode uses operand 3 or 4 only in some of its forms: the positions it uses in this word. -/
def usedIn (sp : OpSpec) (opc : Nat) (f : Fields) : Nat :=
  match opc with
  | 0x012 | 0x013 | 0x014 => sp.use + 16              -- the .sat or .sx mark, checked by form
  | 0x100 => sp.use + 8                               -- CVT's .sat mark
  | 0x101 => if f.ty = .i8x4 ∨ f.ty = .n8x4 then sp.use else 0b00111
  | 0x18A => sp.use + 8                               -- WSCAN's .excl mark
  | 0x200 | 0x202 => sp.use + 8                       -- count, checked by form
  | 0x201 | 0x203 => sp.use + 16
  | 0x245 => if f.rmt then 0b00110 else 0
  | 0x285 => if f.op2 = .int 0 ∨ f.op2 = .int 2 then 0b00110 else sp.use
  | 0x2C0 => if f.op2 = .int 3 then sp.use else 0b00110
  | 0x2C5 => if f.op3 = .int 1 then 0b01001 else 0b00111
  | _ => sp.use

/-- MRDA.ovf and ENQ to e0 execute once for the entry (R194). -/
def formIn (sp : OpSpec) (opc : Nat) (f : Fields) : Form :=
  match opc with
  | 0x2C5 => if f.op3 = .int 1 then .once else sp.form
  | 0x2C7 => if f.op0 = .e 0 then .once else sp.form
  | _ => sp.form

/-- What an opcode uses in this word. An operand that this word does not use has no source modifier either (R32); operand 1's
modifier field is MORD in groups 8 and 9. -/
def specIn (sp : OpSpec) (opc : Nat) (f : Fields) : OpSpec :=
  let u := usedIn sp opc f
  { sp with use := u, sms := if opc / 64 = 8 ∨ opc / 64 = 9 then sp.sms else sp.sms &&& u, form := formIn sp opc f,
            opt := u - (u &&& sp.use) }

/-- The count mark of loads and stores: 1023, .x2 or .x4, and no .x4 on b64 (R161). -/
def countOk (o : Operand) (t : Ty) : Bool :=
  o == .none || o == .int 2 || (o == .int 4 && t != .b64)

/-- Encoding checks of the instructions' own entries. A VOTE with an s destination fails R107 here, an illegal instruction, although
R98 calls an s destination an illegal operand; so does R32's check of an unused operand 0 for REDUCE and RDLANE: log entry 52. -/
def formOk (opc : Nat) (f : Fields) : Bool :=
  let mark (o : Operand) : Bool := o == .none || o == .int 1
  match opc with
  | 0x012 | 0x013 => mark f.op4                                                                  -- R80
  | 0x014 => f.op4 == .none || (f.op4 == .int 1 && f.ty == .n64)                                 -- R81
  | 0x100 =>                                                                                     -- R66
    match f.op2 with
    | .int n =>
      let src := Ty.ofCode n
      let isInt (t : Ty) : Bool := [Ty.i8, .n8, .i16, .n16, .i32, .n32, .i64, .n64].contains t
      let tapered (t : Ty) : Bool := [Ty.tf8a, .tf8b, .tf6a, .tf6b].contains t
      decide (n.val < 32) && tysCvt.contains src && src != f.ty && mark f.op3 &&
        (f.op3 == .none || (isInt src && isInt f.ty)) &&
        (f.ro == 0#4 || (!(isInt src && isInt f.ty) && !tapered f.ty))
    | _ => false
  | 0x101 => f.ro == 0#4 || f.ty == .f16x2 || f.ty == .bf16x2                                    -- R67
  | 0x188 =>                                                                                     -- R107
    match f.op2, f.op0 with
    | .int 3, .v _ => f.ty == .b32
    | .int 3, _ => false
    | .int 0, .p _ | .int 1, .p _ | .int 2, .p _ => f.ty == .none
    | .int 0, _ | .int 1, _ | .int 2, _ => false
    | _, _ => true
  | 0x189 | 0x18A =>                                                                             -- R108
    (match f.op2 with
      | .int n => if n.val ≤ 2 then f.ty != .b32 else if n.val ≤ 5 then f.ty == .b32 else true
      | _ => true) &&
    (f.ro == 0#4 || (f.op2 == .int 0 && f.ty == .f32)) &&
    (opc == 0x189 || mark f.op3)
  | 0x200 | 0x202 => countOk f.op3 f.ty
  | 0x201 | 0x203 => countOk f.op4 f.ty && (f.op4 == .none || f.sm3 == 0#12)
  | 0x240 | 0x241 =>                                                                             -- R166
    match f.op4 with
    | .int n => (atomTys n).contains f.ty
    | _ => true
  | 0x340 => (f.op4 == .int 0 || f.op4 == .int 1) && (f.op4 == .int 0 || f.ty == .f32)           -- R336
  | _ => true

/-- MORD (R158, R165): what groups 8 and 9 accept. -/
def mordOk (opc : Nat) (f : Fields) : Bool :=
  if opc / 64 = 8 then f.mord == 0
  else if opc / 64 = 9 then
    decide (f.mord < 256) && decide (2 ≤ f.scope) &&
    (!f.inStash || (f.scope == 2 && !f.rmt && [0x240, 0x241, 0x242, 0x246].contains opc)) &&
    (!f.rmt || (f.ord == 1 && (f.scope == 4 || f.scope == 5) && [0x241, 0x245].contains opc)) &&
    (!f.condEq || opc == 0x246) &&
    (match opc with
      | 0x240 | 0x244 => f.ord == 0 || f.ord == 2
      | 0x241 | 0x242 => true
      | 0x243 | 0x246 => f.ord == 0 || f.ord == 1
      | _ => f.ord != 0) &&
    (!(opc == 0x243 || opc == 0x244) || f.scope == 5)
  else true

/-- HINT (R32, R36, R164). -/
def hintOk (opc : Nat) (f : Fields) : Bool :=
  f.hint == 0#3 ||
    (decide (f.hint.toNat < 6) && [0x200, 0x201, 0x207, 0x240, 0x241, 0x242, 0x243, 0x244, 0x246].contains opc &&
      !f.inStash)

/-- The encoding checks that a word can fail on its own. -/
def check (opc : Nat) (f : Fields) : Except DecodeError Unit :=
  match specOf opc with
  | none => .error .opcode
  | some sp =>
    let fx := specIn sp opc f
    let u := fx.use
    if !sp.tys.contains f.ty then .error .typeCode
    else if !([0, 1, 2, 3, 4].all (fun k => hasBit u k || f.op k == .none)) then .error .unusedOperand
    else if !([1, 2, 3].all (fun k => if hasBit fx.sms k then (opc / 64 == 8 || opc / 64 == 9) && k == 1 ||
        modifierOk (f.sm k) (f.op k) (readTy opc f k) else f.sm k == 0#12)) then .error .modifier
    else if scalarForm fx f && !defaultGuards f then .error .guard
    else if f.fsel && !(sp.long || popsQueue f u) then .error .flagSelect
    else if !hintOk opc f then .error .hint
    else if !(f.ro == 0#4 || (sp.rounds && decide (f.ro.toNat < 6))) then .error .rounding
    else if !mordOk opc f then .error .ordering
    else if !formOk opc f then .error .form
    else .ok ()

/-! ## Opcodes and constructors -/

/-- The instruction of an opcode, groups 0 to 3. -/
def instrArith (opc : Nat) (f : Fields) : Option Instr :=
  match opc with
  | 0x000 => some (.iadd f)
  | 0x001 => some (.isub f)
  | 0x002 => some (.iaddc f)
  | 0x003 => some (.isubb f)
  | 0x004 => some (.iadds f)
  | 0x005 => some (.isubs f)
  | 0x006 => some (.imul f)
  | 0x007 => some (.imulh f)
  | 0x008 => some (.imad f)
  | 0x009 => some (.imadw f)
  | 0x00A => some (.idiv f)
  | 0x00B => some (.irem f)
  | 0x00C => some (.ineg f)
  | 0x00D => some (.iabs f)
  | 0x00E => some (.imin f)
  | 0x00F => some (.imax f)
  | 0x010 => some (.iclamp f)
  | 0x011 => some (.idiff f)
  | 0x012 => some (.idp4 f)
  | 0x013 => some (.idp2 f)
  | 0x014 => some (.lea f)
  | 0x015 => some (.mov f)
  | 0x016 => some (.movw f)
  | 0x040 => some (.and f)
  | 0x041 => some (.or f)
  | 0x042 => some (.xor f)
  | 0x043 => some (.andn f)
  | 0x044 => some (.not f)
  | 0x045 => some (.shl f)
  | 0x046 => some (.shr f)
  | 0x047 => some (.sar f)
  | 0x048 => some (.rotl f)
  | 0x049 => some (.rotr f)
  | 0x04A => some (.funnel f)
  | 0x04B => some (.bfx f)
  | 0x04C => some (.bfi f)
  | 0x04D => some (.brev f)
  | 0x04E => some (.popc f)
  | 0x04F => some (.clz f)
  | 0x050 => some (.ctz f)
  | 0x080 => some (.fadd f)
  | 0x081 => some (.fsub f)
  | 0x082 => some (.fmul f)
  | 0x083 => some (.ffma f)
  | 0x084 => some (.fmin f)
  | 0x085 => some (.fmax f)
  | 0x086 => some (.fminn f)
  | 0x087 => some (.fmaxn f)
  | 0x088 => some (.fabs f)
  | 0x089 => some (.fclamp f)
  | 0x08A => some (.frnd f)
  | 0x08B => some (.ffrac f)
  | 0x08C => some (.fscl f)
  | 0x08D => some (.fexpn f)
  | 0x08E => some (.fmant f)
  | 0x08F => some (.fdiv f)
  | 0x090 => some (.fsqrt f)
  | 0x0C0 => some (.frcp f)
  | 0x0C1 => some (.frsq f)
  | 0x0C2 => some (.fexp2 f)
  | 0x0C3 => some (.flog2 f)
  | 0x0C4 => some (.fsin f)
  | 0x0C5 => some (.fcos f)
  | 0x0C6 => some (.ftanh f)
  | _ => none

/-- The instruction of an opcode, groups 4 to 7. -/
def instrLanes (opc : Nat) (f : Fields) : Option Instr :=
  match opc with
  | 0x100 => some (.cvt f)
  | 0x101 => some (.pack f)
  | 0x102 => some (.unpk f)
  | 0x103 => some (.bpack f)
  | 0x104 => some (.bunpk f)
  | 0x140 => some (.isetp f)
  | 0x141 => some (.fsetp f)
  | 0x142 => some (.fclass f)
  | 0x143 => some (.sel f)
  | 0x144 => some (.plop f)
  | 0x145 => some (.ptov f)
  | 0x146 => some (.vtop f)
  | 0x180 => some (.shfl f)
  | 0x181 => some (.tlu f)
  | 0x182 => some (.zip2 f)
  | 0x183 => some (.zip3 f)
  | 0x184 => some (.zip4 f)
  | 0x185 => some (.unz2 f)
  | 0x186 => some (.unz3 f)
  | 0x187 => some (.unz4 f)
  | 0x188 => some (.vote f)
  | 0x189 => some (.reduce f)
  | 0x18A => some (.wscan f)
  | 0x18B => some (.rdlane f)
  | 0x1C0 => some (.bra f)
  | 0x1C1 => some (.brx f)
  | 0x1C2 => some (if f.ty = .b64 then .callB64 f else .call f)
  | 0x1C3 => some (.ret f)
  | 0x1C4 => some (.joinm f)
  | 0x1C5 => some (.leavem f)
  | 0x1C6 => some (.waitm f)
  | 0x1C7 => some (.mskmov f)
  | 0x1C8 => some (.exit f)
  | 0x1C9 => some (.nop f)
  | 0x1CA => some (.yield f)
  | _ => none

/-- The instruction of an opcode, groups 8 and 9. -/
def instrMemory (opc : Nat) (f : Fields) : Option Instr :=
  match opc with
  | 0x200 => some (.ld f)
  | 0x201 => some (.st f)
  | 0x202 => some (.lds f)
  | 0x203 => some (.sts f)
  | 0x204 => some (.stmap f)
  | 0x205 => some (.stunmap f)
  | 0x206 => some (.stflush f)
  | 0x207 => some (.pref f)
  | 0x240 => some (.atom f)
  | 0x241 => some (.atomr f)
  | 0x242 => some (.cas f)
  | 0x243 => some (.lr f)
  | 0x244 => some (.sc f)
  | 0x245 => some (.fence f)
  | 0x246 => some (.waita f)
  | _ => none

/-- The instruction of an opcode, groups 10 to 14; an operand or the type selects the row where one opcode has several. -/
def instrSystem (opc : Nat) (f : Fields) : Option Instr :=
  match opc with
  | 0x280 => some (if f.op2 = .int 2 then .acqMslot f else .acqReg f)
  | 0x281 => some (.acqt f)
  | 0x282 => some (.rel f)
  | 0x283 => some (.give f)
  | 0x284 => some (.claim f)
  | 0x285 => some (if f.op2 = .int 1 then .carveTry f else if f.op2 = .int 2 then .carvePut f else .carveGet f)
  | 0x286 => some (.phase f)
  | 0x287 => some (.bar f)
  | 0x288 => some (.regroup f)
  | 0x2C0 => some (if f.op2 = .int 1 then .mtenResume f else if f.op2 = .int 2 then .mtenReset f else if f.op2 = .int 3 then .mtenCtr f else .mtenQuiesce f)
  | 0x2C1 => some (.mwld f)
  | 0x2C2 => some (.mswap f)
  | 0x2C3 => some (.mrun f)
  | 0x2C4 => some (.minit f)
  | 0x2C5 => some (if f.op3 = .int 1 then .mrdaOvf f else .mrda f)
  | 0x2C6 => some (.msync f)
  | 0x2C7 => some (if f.op0 = .e 0 then .enqE0 f else .enqE1 f)
  | 0x2C8 => some (.deq f)
  | 0x300 => some (.gbar f)
  | 0x301 => some (if f.op2 = .none then .cpy f else .cpyS f)
  | 0x302 => some (.launch f)
  | 0x303 => some (.grun f)
  | 0x304 => some (.blaze f)
  | 0x305 => some (.blzq f)
  | 0x306 => some (.blzdrop f)
  | 0x340 => some (.pxst f)
  | 0x341 => some (.pxld f)
  | 0x342 => some (.tex f)
  | 0x343 => some (.texf f)
  | 0x344 => some (.rast f)
  | 0x380 => some (.trap f)
  | 0x381 => some (.svc f)
  | 0x382 => some (.rtt f)
  | 0x383 => some (.brkp f)
  | 0x384 => some (.mfsr f)
  | 0x385 => some (.mtsr f)
  | _ => none

/-- The instruction of an opcode. -/
def instrOf (opc : Nat) (f : Fields) : Option Instr :=
  if opc < 0x100 then instrArith opc f
  else if opc < 0x200 then instrLanes opc f
  else if opc < 0x280 then instrMemory opc f
  else instrSystem opc f

/-- The opcode and the fields of an instruction; `none` for a step that no instruction word names. -/
def Instr.parts : Instr → Option (Nat × Fields)
  | .iadd f => some (0x000, f)
  | .isub f => some (0x001, f)
  | .iaddc f => some (0x002, f)
  | .isubb f => some (0x003, f)
  | .iadds f => some (0x004, f)
  | .isubs f => some (0x005, f)
  | .imul f => some (0x006, f)
  | .imulh f => some (0x007, f)
  | .imad f => some (0x008, f)
  | .imadw f => some (0x009, f)
  | .idiv f => some (0x00A, f)
  | .irem f => some (0x00B, f)
  | .ineg f => some (0x00C, f)
  | .iabs f => some (0x00D, f)
  | .imin f => some (0x00E, f)
  | .imax f => some (0x00F, f)
  | .iclamp f => some (0x010, f)
  | .idiff f => some (0x011, f)
  | .idp4 f => some (0x012, f)
  | .idp2 f => some (0x013, f)
  | .lea f => some (0x014, f)
  | .mov f => some (0x015, f)
  | .movw f => some (0x016, f)
  | .and f => some (0x040, f)
  | .or f => some (0x041, f)
  | .xor f => some (0x042, f)
  | .andn f => some (0x043, f)
  | .not f => some (0x044, f)
  | .shl f => some (0x045, f)
  | .shr f => some (0x046, f)
  | .sar f => some (0x047, f)
  | .rotl f => some (0x048, f)
  | .rotr f => some (0x049, f)
  | .funnel f => some (0x04A, f)
  | .bfx f => some (0x04B, f)
  | .bfi f => some (0x04C, f)
  | .brev f => some (0x04D, f)
  | .popc f => some (0x04E, f)
  | .clz f => some (0x04F, f)
  | .ctz f => some (0x050, f)
  | .fadd f => some (0x080, f)
  | .fsub f => some (0x081, f)
  | .fmul f => some (0x082, f)
  | .ffma f => some (0x083, f)
  | .fmin f => some (0x084, f)
  | .fmax f => some (0x085, f)
  | .fminn f => some (0x086, f)
  | .fmaxn f => some (0x087, f)
  | .fabs f => some (0x088, f)
  | .fclamp f => some (0x089, f)
  | .frnd f => some (0x08A, f)
  | .ffrac f => some (0x08B, f)
  | .fscl f => some (0x08C, f)
  | .fexpn f => some (0x08D, f)
  | .fmant f => some (0x08E, f)
  | .fdiv f => some (0x08F, f)
  | .fsqrt f => some (0x090, f)
  | .frcp f => some (0x0C0, f)
  | .frsq f => some (0x0C1, f)
  | .fexp2 f => some (0x0C2, f)
  | .flog2 f => some (0x0C3, f)
  | .fsin f => some (0x0C4, f)
  | .fcos f => some (0x0C5, f)
  | .ftanh f => some (0x0C6, f)
  | .cvt f => some (0x100, f)
  | .pack f => some (0x101, f)
  | .unpk f => some (0x102, f)
  | .bpack f => some (0x103, f)
  | .bunpk f => some (0x104, f)
  | .isetp f => some (0x140, f)
  | .fsetp f => some (0x141, f)
  | .fclass f => some (0x142, f)
  | .sel f => some (0x143, f)
  | .plop f => some (0x144, f)
  | .ptov f => some (0x145, f)
  | .vtop f => some (0x146, f)
  | .shfl f => some (0x180, f)
  | .tlu f => some (0x181, f)
  | .zip2 f => some (0x182, f)
  | .zip3 f => some (0x183, f)
  | .zip4 f => some (0x184, f)
  | .unz2 f => some (0x185, f)
  | .unz3 f => some (0x186, f)
  | .unz4 f => some (0x187, f)
  | .vote f => some (0x188, f)
  | .reduce f => some (0x189, f)
  | .wscan f => some (0x18A, f)
  | .rdlane f => some (0x18B, f)
  | .bra f => some (0x1C0, f)
  | .brx f => some (0x1C1, f)
  | .call f => some (0x1C2, f)
  | .callB64 f => some (0x1C2, f)
  | .ret f => some (0x1C3, f)
  | .joinm f => some (0x1C4, f)
  | .leavem f => some (0x1C5, f)
  | .waitm f => some (0x1C6, f)
  | .mskmov f => some (0x1C7, f)
  | .exit f => some (0x1C8, f)
  | .nop f => some (0x1C9, f)
  | .yield f => some (0x1CA, f)
  | .ld f => some (0x200, f)
  | .st f => some (0x201, f)
  | .lds f => some (0x202, f)
  | .sts f => some (0x203, f)
  | .stmap f => some (0x204, f)
  | .stunmap f => some (0x205, f)
  | .stflush f => some (0x206, f)
  | .pref f => some (0x207, f)
  | .atom f => some (0x240, f)
  | .atomr f => some (0x241, f)
  | .cas f => some (0x242, f)
  | .lr f => some (0x243, f)
  | .sc f => some (0x244, f)
  | .fence f => some (0x245, f)
  | .waita f => some (0x246, f)
  | .waitaReevaluate _ => none
  | .waitaTimeout _ => none
  | .acqReg f => some (0x280, f)
  | .acqMslot f => some (0x280, f)
  | .acqt f => some (0x281, f)
  | .rel f => some (0x282, f)
  | .give f => some (0x283, f)
  | .claim f => some (0x284, f)
  | .carveGet f => some (0x285, f)
  | .carveTry f => some (0x285, f)
  | .carvePut f => some (0x285, f)
  | .phase f => some (0x286, f)
  | .bar f => some (0x287, f)
  | .regroup f => some (0x288, f)
  | .mtenQuiesce f => some (0x2C0, f)
  | .mtenResume f => some (0x2C0, f)
  | .mtenReset f => some (0x2C0, f)
  | .mtenCtr f => some (0x2C0, f)
  | .mwld f => some (0x2C1, f)
  | .mswap f => some (0x2C2, f)
  | .mrun f => some (0x2C3, f)
  | .minit f => some (0x2C4, f)
  | .mrda f => some (0x2C5, f)
  | .mrdaOvf f => some (0x2C5, f)
  | .msync f => some (0x2C6, f)
  | .enqE0 f => some (0x2C7, f)
  | .enqE1 f => some (0x2C7, f)
  | .deq f => some (0x2C8, f)
  | .mwldExecute _ => none
  | .mswapExecute _ => none
  | .mrunExecute _ => none
  | .minitExecute _ => none
  | .mrdaExecute _ => none
  | .slotChangeEffect _ => none
  | .gbar f => some (0x300, f)
  | .gbarComplete _ => none
  | .cpy f => some (0x301, f)
  | .cpyS f => some (0x301, f)
  | .copyExecute _ => none
  | .copyStatusPush _ => none
  | .launch f => some (0x302, f)
  | .grun f => some (0x303, f)
  | .blaze f => some (0x304, f)
  | .blzq f => some (0x305, f)
  | .blzdrop f => some (0x306, f)
  | .pxst f => some (0x340, f)
  | .pxld f => some (0x341, f)
  | .tex f => some (0x342, f)
  | .texf f => some (0x343, f)
  | .rast f => some (0x344, f)
  | .trap f => some (0x380, f)
  | .svc f => some (0x381, f)
  | .rtt f => some (0x382, f)
  | .brkp f => some (0x383, f)
  | .mfsr f => some (0x384, f)
  | .mtsr f => some (0x385, f)
  | .roundOpen _ => none
  | .longLatencyComplete _ _ => none
  | .e6Push _ => none
  | .waveEnd _ => none
  | .pendingGrant _ _ => none
  | .phaseEnd _ => none
  | .regroupPermute _ => none
  | .dirReadShared _ _ => none
  | .dirReadOwn _ _ => none
  | .dirWriteBack _ _ => none
  | .dirRecall _ _ _ => none
  | .promote _ => none
  | .racqProceed _ => none
  | .pageFaultResolve _ _ => none
  | .queueArrival _ => none
  | .queueEntryAccept _ => none
  | .blockCreate _ => none
  | .phaseReady _ => none
  | .phaseDispatch _ _ => none
  | .ageingPeriod _ => none
  | .launchComplete _ => none
  | .quotaPeriodStart _ => none
  | .quotaOverrun _ _ => none
  | .blazePublish _ => none
  | .graphRunStart _ => none
  | .nodeComplete _ _ => none
  | .priorityPreempt _ => none
  | .blockPark _ => none
  | .svcReplyLand _ _ _ => none
  | .svcReplyDeliver _ => none
  | .precmd _ => none
  | .preemptHalt _ => none
  | .preemptSave _ => none
  | .tlbi _ => none
  | .l2ModeSwitch _ => none
  | .ftAssign _ => none
  | .ftRelease _ => none
  | .ftBiasToHost _ => none
  | .ftBiasToDevice _ => none
  | .biasFlipComplete => none
  | .hostCxlMemRead _ _ => none
  | .hostCxlMemWrite _ _ => none
  | .hostSnoop _ _ => none
  | .hostRegisterRead _ _ => none
  | .msixSend _ _ => none
  | .mailboxDoorbell _ => none
  | .mailboxReply _ _ => none
  | .joracFinalise _ => none
  | .deviceReset => none
  | .leaderElection => none
  | .lockstepMismatch _ => none
  | .heartbeat => none
  | .heartbeatTimeout _ => none
  | .takeoverAttempt _ => none
  | .throttleDown _ => none
  | .throttleUp _ => none
  | .gladeEnable _ => none
  | .gladeDisable _ => none
  | .memlayWrite _ => none
  | .accessTableWrite _ _ _ _ => none
  | .peerRequest _ _ _ _ => none
  | .shenerMacFailure _ => none
  | .functionLevelReset _ => none
  | .tagWalkSweep _ _ => none
  | .spdmGetMeasurements _ _ => none
  | .rollbackRecord _ => none
  | .fatalError _ => none
  | .frameStart _ => none
  | .mapCommand _ _ => none
  | .captureStart _ _ => none
  | .displayEnable _ _ => none
  | .displayDisable _ _ => none
  | .registerWrite _ _ => none
  | .backgroundComplete _ _ _ _ => none
  | .kill _ => none
  | .shenerKeyExchange _ => none
  | .ideKmKeyProg _ _ => none
  | .firmwareImageUpdate _ => none

/-- A legal instruction: its word passes every check that a word can fail on its own, and its operands select its row. A
step that no instruction word names is legal by itself. -/
def Instr.wf (i : Instr) : Bool :=
  match i.parts with
  | none => true
  | some (opc, f) =>
    (match check opc f with
      | .ok _ => true
      | .error _ => false) && instrOf opc f == some i

/-! ## Words (Table 2.3) -/

/-- The fields of a word, lowest first: opcode, fields, bits 123:121. -/
def fieldsOf (w : Nat) : Nat × Fields × Nat :=
  let x1 := w / 2 ^ 10
  let x2 := x1 / 2 ^ 5
  let x3 := x2 / 2 ^ 10
  let x4 := x3 / 2 ^ 10
  let x5 := x4 / 2 ^ 10
  let x6 := x5 / 2 ^ 10
  let x7 := x6 / 2 ^ 10
  let x8 := x7 / 2 ^ 12
  let x9 := x8 / 2 ^ 12
  let x10 := x9 / 2 ^ 12
  let x11 := x10 / 2 ^ 4
  let x12 := x11 / 2
  let x13 := x12 / 2 ^ 4
  let x14 := x13 / 2
  let x15 := x14 / 2
  let x16 := x15 / 2 ^ 3
  let x17 := x16 / 2 ^ 4
  let x18 := x17 / 2
  let x19 := x18 / 2
  let x20 := x19 / 2 ^ 3
  (w % 2 ^ 10,
   { ty := Ty.ofCode (x1 % 2 ^ 5),
     op0 := Operand.ofCode (x2 % 2 ^ 10), op1 := Operand.ofCode (x3 % 2 ^ 10), op2 := Operand.ofCode (x4 % 2 ^ 10),
     op3 := Operand.ofCode (x5 % 2 ^ 10), op4 := Operand.ofCode (x6 % 2 ^ 10),
     sm1 := BitVec.ofNat 12 (x7 % 2 ^ 12), sm2 := BitVec.ofNat 12 (x8 % 2 ^ 12), sm3 := BitVec.ofNat 12 (x9 % 2 ^ 12),
     ga := BitVec.ofNat 4 (x10 % 2 ^ 4), gan := x11 % 2 == 1, gb := BitVec.ofNat 4 (x12 % 2 ^ 4), gbn := x13 % 2 == 1,
     gc := x14 % 2 == 1, hint := BitVec.ofNat 3 (x15 % 2 ^ 3), stall := BitVec.ofNat 4 (x16 % 2 ^ 4),
     yld := x17 % 2 == 1, fsel := x18 % 2 == 1, ro := BitVec.ofNat 4 (x20 % 2 ^ 4) },
   x19 % 2 ^ 3)

/-- The number of a word. -/
def wordNat (opc : Nat) (f : Fields) : Nat :=
  opc + 2 ^ 10 * (f.ty.code + 2 ^ 5 * (f.op0.code + 2 ^ 10 * (f.op1.code + 2 ^ 10 * (f.op2.code + 2 ^ 10 * (f.op3.code +
    2 ^ 10 * (f.op4.code + 2 ^ 10 * (f.sm1.toNat + 2 ^ 12 * (f.sm2.toNat + 2 ^ 12 * (f.sm3.toNat + 2 ^ 12 * (f.ga.toNat +
    2 ^ 4 * (f.gan.toNat + 2 * (f.gb.toNat + 2 ^ 4 * (f.gbn.toNat + 2 * (f.gc.toNat + 2 * (f.hint.toNat +
    2 ^ 3 * (f.stall.toNat + 2 ^ 4 * (f.yld.toNat + 2 * (f.fsel.toNat + 2 * (2 ^ 3 * f.ro.toNat)))))))))))))))))))

/-- Decodes an instruction word. -/
def decode (w : W128) : Except DecodeError Instr :=
  let (opc, f, res) := fieldsOf w.toNat
  if res ≠ 0 then .error .reservedBits
  else match check opc f with
    | .error e => .error e
    | .ok _ => match instrOf opc f with
      | none => .error .opcode
      | some i => .ok i

/-- The word of an instruction, from the encoding tables; `none` for a step that no instruction word names. -/
def encode (i : Instr) : Option W128 :=
  match i.parts with
  | none => none
  | some (opc, f) => some (BitVec.ofNat 128 (wordNat opc f))

/-- What the decoder reads from the word whose bits are `w`; the table's rows hold no bits, so `nbits` is 0 and the word is
its 128 bits. -/
def decodeTableWord (_nbits w : Nat) : Option Instr :=
  match decode (BitVec.ofNat 128 w) with
  | .ok i => some i
  | .error _ => none

/-! ## Clause headers (Table 2.1) -/

/-- R27 on a header word. -/
def headerOk (h : W128) : Bool :=
  let x := h.toNat
  let fav := bitsOf x 28 1 == 1
  let fbv := bitsOf x 33 1 == 1
  bitsOf x 0 4 == 0b1010 && bitsOf x 34 14 == 0 && decide (bitsOf x 4 4 < 6) &&
    !(fav && decide (12 ≤ bitsOf x 24 4)) && !(fbv && decide (12 ≤ bitsOf x 29 4)) &&
    !(fav && fbv && bitsOf x 24 4 == bitsOf x 29 4)

def hdrClass (h : W128) : Nat := bitsOf h.toNat 4 4
def hdrCnt (h : W128) : Nat := bitsOf h.toNat 8 4
def hdrWait (h : W128) : Nat := bitsOf h.toNat 12 12
def hdrPrio (h : W128) : W16 := BitVec.ofNat 16 (bitsOf h.toNat 48 16)
def hdrLit (h : W128) : Nat := bitsOf h.toNat 64 64
/-- Flag A, if valid. -/
def hdrFlagA (h : W128) : Option Nat := if bitsOf h.toNat 28 1 = 1 then some (bitsOf h.toNat 24 4) else none
/-- Flag B, if valid. -/
def hdrFlagB (h : W128) : Option Nat := if bitsOf h.toNat 33 1 = 1 then some (bitsOf h.toNat 29 4) else none

/-- The engine class that an instruction needs; `none` where any clause will do (R28). -/
def classOf (opc : Nat) : Option Nat :=
  let g := opc / 64
  if g < 8 ∨ opc = 0x384 ∨ opc = 0x385 then none
  else if g < 10 then some 1
  else if g = 11 then some 2
  else if g = 10 ∨ g = 12 then some 3
  else if g = 13 then some 4
  else some 5

/-- Instructions that may stand only last in their clause: the control transfers (R29) and PHASE (R144). -/
def mustEnd (opc : Nat) : Bool := [0x1C0, 0x1C1, 0x1C2, 0x1C3, 0x1C8, 0x380, 0x382, 0x286].contains opc

end Sys2Proof
end

