-- ==== Sys2Proof/Machine/Sparse.lean ====
section
/-!
DEFINITION. Operations on sparse data, byte order (R4), two's complement, and lists of lanes.
-/
namespace Sys2Proof.Machine

variable {α : Type}

/-- The value listed at key `k`, or `d`. -/
def spGet (d : α) : Sparse α → Nat → α
  | [], _ => d
  | (j, x) :: t, k => if k = j then x else spGet d t k

/-- Puts a listed pair in its place, keys rising. -/
def spIns (k : Nat) (x : α) : Sparse α → Sparse α
  | [] => [(k, x)]
  | (j, y) :: t =>
    if k < j then (k, x) :: (j, y) :: t
    else if k = j then (k, x) :: t
    else (j, y) :: spIns k x t

/-- Removes key `k`. -/
def spDel (k : Nat) : Sparse α → Sparse α
  | [] => []
  | (j, y) :: t => if k = j then t else (j, y) :: spDel k t

/-- Writes `x` at `k`; writing the default `d` removes the pair, so equal contents are equal data. -/
def spSet [DecidableEq α] (d : α) (k : Nat) (x : α) (l : Sparse α) : Sparse α :=
  if x = d then spDel k l else spIns k x l

/-- Keys strictly rise. -/
def spSorted : Sparse α → Bool
  | [] => true
  | [_] => true
  | (j, _) :: (k, y) :: t => decide (j < k) && spSorted ((k, y) :: t)

/-- The canonical form of sparse data over the default `d`. -/
def spWf [DecidableEq α] (d : α) (l : Sparse α) : Bool :=
  spSorted l && l.all fun e => decide (e.2 ≠ d)

/-- The canonical form of sparse data whose default `d` depends on the key. -/
def spKeyed [DecidableEq α] (d : Nat → α) (l : Sparse α) : Bool :=
  spSorted l && l.all fun e => decide (e.2 ≠ d e.1)

/-- The value listed at key `k`, if any. -/
def spFind : List (Nat × α) → Nat → Option α
  | [], _ => none
  | (j, x) :: t, k => if k = j then some x else spFind t k

/-! ## Bytes and words -/

/-- The `n` low bytes of `x`, lowest first (R4). -/
def bytesLE : Nat → Nat → List Byte
  | 0, _ => []
  | n + 1, x => BitVec.ofNat 8 x :: bytesLE n (x / 256)

/-- The number whose bytes these are, lowest first (R4). -/
def natLE : List Byte → Nat
  | [] => 0
  | b :: t => b.toNat + 256 * natLE t

/-- 32-bit words as bytes. -/
def wordsBytes : List W32 → List Byte
  | [] => []
  | w :: t => bytesLE 4 w.toNat ++ wordsBytes t

/-- Bytes as 32-bit words. -/
def bytesWords : List Byte → List W32
  | b0 :: b1 :: b2 :: b3 :: t => BitVec.ofNat 32 (natLE [b0, b1, b2, b3]) :: bytesWords t
  | _ => []

/-- The two's complement value of the low `w` bits. -/
def toSigned (w x : Nat) : Int :=
  let y := x % 2 ^ w
  if y < 2 ^ (w - 1) then (y : Int) else (y : Int) - (2 ^ w : Nat)

/-- An integer reduced modulo 2^w (R51). -/
def wrapTo (w : Nat) (x : Int) : Nat := (x % ((2 ^ w : Nat) : Int)).toNat

/-- An integer clamped to the range of a `w`-bit type (R51). -/
def satTo (signed : Bool) (w : Nat) (x : Int) : Nat :=
  let lo : Int := if signed then -((2 ^ (w - 1) : Nat) : Int) else 0
  let hi : Int := if signed then ((2 ^ (w - 1) : Nat) : Int) - 1 else ((2 ^ w : Nat) : Int) - 1
  wrapTo w (if x < lo then lo else if hi < x then hi else x)

/-- The number of bits of `x` below its leading 1, plus 1; 0 for 0. -/
def bitLen (x : Nat) : Nat := if x = 0 then 0 else Nat.log2 x + 1

/-- Bit `k` of `x`. -/
def bitAt (x k : Nat) : Nat := x / 2 ^ k % 2

/-- Element `i` of width `w`. -/
def elemAt (w i x : Nat) : Nat := x / 2 ^ (w * i) % 2 ^ w

/-- Elements joined, element 0 lowest (R50). -/
def joinElems (w : Nat) : List Nat → Nat
  | [] => 0
  | x :: t => x % 2 ^ w + 2 ^ w * joinElems w t

/-! ## Lanes -/

/-- The 32 lanes of a wave, ascending. -/
def lanes32 : List Nat :=
  [0, 1, 2, 3, 4, 5, 6, 7, 8, 9, 10, 11, 12, 13, 14, 15,
   16, 17, 18, 19, 20, 21, 22, 23, 24, 25, 26, 27, 28, 29, 30, 31]

/-- The lanes of a mask, ascending. -/
def lanesOf (m : W32) : List Nat := lanes32.filter fun l => m.getLsbD l

/-- The mask of the lanes that satisfy `p`. -/
def maskOf (p : Nat → Bool) : W32 :=
  lanes32.foldl (fun a l => if p l then a ||| (1#32 <<< l) else a) 0

/-- Replaces the elements of a list that satisfy `p`. -/
def updWhere (p : α → Bool) (f : α → α) : List α → List α
  | [] => []
  | a :: t => (if p a then f a else a) :: updWhere p f t

/-- The list with element `i` replaced. -/
def setAt : List α → Nat → α → List α
  | [], _, _ => []
  | _ :: t, 0, x => x :: t
  | a :: t, i + 1, x => a :: setAt t i x

/-- A list cut after `n` elements and, if shorter, filled with `d`. -/
def padTo (d : α) : Nat → List α → List α
  | 0, _ => []
  | n + 1, [] => d :: padTo d n []
  | n + 1, a :: t => a :: padTo d n t

end Sys2Proof.Machine
end

