-- ==== Sys2Proof/Machine/Numbers.lean ====
section
/-!
DEFINITION. Numbers: type codes, IEEE-style and tapered formats, rounding, exact float operations and the special
functions (R50 to R64, R87 to R96). A float value is decoded to an exact dyadic number, operated on exactly, and rounded
once.
-/
namespace Sys2Proof.Machine

/-! ## Type codes (Table 2.8) -/

/-- Element width in bits (R50); a p type's bit count. -/
def elemWidth : Ty → Nat
  | .b64 | .i64 | .n64 | .f64 => 64
  | .i16 | .n16 | .f16 | .bf16 | .i16x2 | .n16x2 | .f16x2 | .bf16x2 => 16
  | .i8 | .n8 | .i8x4 | .n8x4 | .f8e4 | .f8e5 | .tf8a | .tf8b => 8
  | .tf6a | .tf6b => 6
  | .i4p | .n4p => 4
  | .i2p | .n2p => 2
  | .i1p => 1
  | _ => 32

/-- Elements in one operand: 2 or 4 for packed types. -/
def elemCount : Ty → Nat
  | .i16x2 | .n16x2 | .f16x2 | .bf16x2 => 2
  | .i8x4 | .n8x4 => 4
  | _ => 1

/-- A 64-bit operand is a register pair (R18). -/
def is64 (t : Ty) : Bool := elemWidth t == 64

/-- The i types. -/
def isSigned : Ty → Bool
  | .i32 | .i64 | .i16 | .i8 | .i16x2 | .i8x4 | .i4p | .i2p | .i1p => true
  | _ => false

/-- The i and n types that hold integers in registers. -/
def isInteger : Ty → Bool
  | .i32 | .n32 | .i64 | .n64 | .i16 | .n16 | .i8 | .n8 | .i16x2 | .n16x2 | .i8x4 | .n8x4 => true
  | _ => false

/-- The IEEE-style float types. -/
def isFloat : Ty → Bool
  | .f64 | .f32 | .f16 | .bf16 | .f16x2 | .bf16x2 | .f8e4 | .f8e5 => true
  | _ => false

def isTapered : Ty → Bool
  | .tf8a | .tf8b | .tf6a | .tf6b => true
  | _ => false

def isPlane : Ty → Bool
  | .i4p | .n4p | .i2p | .n2p | .i1p => true
  | _ => false

/-- The numeric types of R39. -/
def isNumeric (t : Ty) : Bool := isInteger t || isFloat t

/-! ## Formats (Table 3.2) -/

/-- A float format: exponent bits, fraction bits, bias; `e4` marks f8e4, whose top exponent is finite. -/
structure Fmt where
  eb   : Nat
  fb   : Nat
  bias : Nat
  e4   : Bool
  deriving DecidableEq, Repr

def fmtOf : Ty → Fmt
  | .f64 => ⟨11, 52, 1023, false⟩
  | .f16 | .f16x2 => ⟨5, 10, 15, false⟩
  | .bf16 | .bf16x2 => ⟨8, 7, 127, false⟩
  | .f8e5 => ⟨5, 2, 15, false⟩
  | .f8e4 => ⟨4, 3, 7, true⟩
  | _ => ⟨8, 23, 127, false⟩

/-- A decoded float: NaN, an infinity, or ± m × 2^e. -/
inductive FVal where
  | nan
  | inf (s : Bool)
  | fin (s : Bool) (m : Nat) (e : Int)
  deriving DecidableEq, Repr

/-- Bits of the format. -/
def fmtBits (f : Fmt) : Nat := 1 + f.eb + f.fb

/-- The exponent of the smallest normal. -/
def fmtMin (f : Fmt) : Int := 1 - (f.bias : Int)

/-- The canonical NaN (R53). -/
def nanBits (f : Fmt) : Nat :=
  if f.e4 then 0x7F else (2 ^ f.eb - 1) * 2 ^ f.fb + 2 ^ (f.fb - 1)

def signBit (f : Fmt) (s : Bool) : Nat := if s then 2 ^ (f.eb + f.fb) else 0

/-- The largest finite magnitude's pattern. -/
def maxBits (f : Fmt) : Nat := if f.e4 then 0x7E else (2 ^ f.eb - 1) * 2 ^ f.fb - 1

/-- The pattern of an infinity; f8e4 has none and takes ±448 (R62). -/
def infBits (f : Fmt) (s : Bool) : Nat :=
  signBit f s + (if f.e4 then 0x7E else (2 ^ f.eb - 1) * 2 ^ f.fb)

/-- Decodes a pattern (R52). -/
def decodeF (f : Fmt) (x : Nat) : FVal :=
  let s := bitAt x (f.eb + f.fb) = 1
  let e := bitsOf x f.fb f.eb
  let m := bitsOf x 0 f.fb
  if e = 0 then .fin s m (fmtMin f - f.fb)
  else if e = 2 ^ f.eb - 1 ∧ f.e4 = false then (if m = 0 then .inf s else .nan)
  else if e = 2 ^ f.eb - 1 ∧ m = 7 then .nan
  else .fin s (2 ^ f.fb + m) ((e : Int) - f.bias - f.fb)

/-- Whether a pattern is subnormal. -/
def isSub (f : Fmt) (x : Nat) : Bool := bitsOf x f.fb f.eb == 0 && bitsOf x 0 f.fb != 0

/-- Reads an input, a subnormal one as zero of its sign when `flush` (R63). -/
def readF (f : Fmt) (flush : Bool) (x : Nat) : FVal :=
  match decodeF f x with
  | .fin s m e => if flush && isSub f x then .fin s 0 e else .fin s m e
  | v => v

/-! ## Sticky flags: NV 1, DZ 2, OF 4, UF 8, NX 16, the order of MODE bits 8 to 12 -/

/-- Flags raised together: the OR of two flag sets. -/
def orFlags (a b : Nat) : Nat := a ||| b

/-- One integer rounding: `t` with remainder `r` of `d`, and a nonzero tail below when `stk`. Modes are those of MODE.RND
(Table 1.6). -/
def roundInt (rnd : Nat) (s : Bool) (t r d : Nat) (stk : Bool) : Nat :=
  let up : Bool :=
    if r = 0 && !stk then false
    else match rnd with
      | 1 => false
      | 2 => !s
      | 3 => s
      | 4 => decide (d ≤ 2 * r)
      | _ => decide (d < 2 * r) || (decide (2 * r = d) && (stk || t % 2 == 1))
  if up then t + 1 else t

/-- m × 2^e cut to a multiple of 2^q: the integer part and the remainder over its divisor. -/
def cutAt (m : Nat) (e q : Int) : Nat × Nat × Nat :=
  if q ≤ e then (m * 2 ^ (e - q).toNat, 0, 1)
  else let d := 2 ^ (q - e).toNat
    (m / d, m % d, d)

/-- A rounded result and its flags. -/
structure FRes where
  bits  : Nat
  flags : Nat
  deriving DecidableEq, Repr

/-- Overflow under R62. -/
def overflowF (f : Fmt) (rnd : Nat) (s : Bool) : FRes :=
  let toMax := match rnd with
    | 1 => true
    | 2 => s
    | 3 => !s
    | _ => false
  ⟨if toMax then signBit f s + maxBits f else infBits f s, 4 ||| 16⟩

/-- The exact value ± m × 2^e (plus a tail below m when `stk`), rounded to the format (R62), flushed (R63) and flagged
(R64). -/
def roundF (f : Fmt) (rnd : Nat) (flush : Bool) (s : Bool) (m : Nat) (e : Int) (stk : Bool) : FRes :=
  if m = 0 then ⟨signBit f s, 0⟩
  else
    let p : Int := f.fb + 1
    let qu := (bitLen m : Int) + e - p
    let (tu, ru, du) := cutAt m e qu
    let u := roundInt rnd s tu ru du stk
    let tiny := decide ((bitLen u : Int) + qu - 1 < fmtMin f)
    if tiny && flush then ⟨signBit f s, 8 ||| 16⟩
    else if tiny then
      let q := fmtMin f - f.fb
      let (t, r, d) := cutAt m e q
      let x := roundInt rnd s t r d stk
      ⟨signBit f s + x, if r != 0 || stk then 8 ||| 16 else 0⟩
    else
      let x := if bitLen u > f.fb + 1 then u / 2 else u
      let ex := if bitLen u > f.fb + 1 then qu + 1 else qu
      let be := (ex + p - 1 + f.bias).toNat
      let pat := be * 2 ^ f.fb + (x - 2 ^ f.fb)
      if maxBits f < pat then overflowF f rnd s
      else ⟨signBit f s + pat, if ru != 0 || stk then 16 else 0⟩

/-- An exact result before rounding. -/
inductive Exact where
  | nan (flags : Nat)
  | inf (s : Bool) (flags : Nat)
  | val (s : Bool) (m : Nat) (e : Int) (stk : Bool)
  deriving DecidableEq, Repr

/-- Delivers an exact result in a format (R53, R62 to R64); an infinity that f8e4 cannot hold raises OF and NX. -/
def deliver (f : Fmt) (rnd : Nat) (flush : Bool) : Exact → FRes
  | .nan fl => ⟨nanBits f, fl⟩
  | .inf s fl => ⟨infBits f s, if f.e4 then fl ||| 4 ||| 16 else fl⟩
  | .val s m e k => roundF f rnd flush s m e k

/-! ## Exact operations -/

/-- ± m × 2^e as an integer multiple of 2^q, for q ≤ e. -/
def scaled (s : Bool) (m : Nat) (e q : Int) : Int :=
  let x : Int := m * 2 ^ (e - q).toNat
  if s then -x else x

/-- The sum of two finite values; an exact zero of opposite signs is +0, or -0 toward -∞ (R88). -/
def addFin (rnd : Nat) (s1 : Bool) (m1 : Nat) (e1 : Int) (s2 : Bool) (m2 : Nat) (e2 : Int) : Exact :=
  let q := if e1 ≤ e2 then e1 else e2
  let x := scaled s1 m1 e1 q + scaled s2 m2 e2 q
  if x = 0 then .val (if m1 = 0 ∧ m2 = 0 ∧ s1 = s2 then s1 else rnd == 3) 0 q false
  else .val (decide (x < 0)) x.natAbs q false

/-- A + B (R88). -/
def addE (rnd : Nat) : FVal → FVal → Exact
  | .nan, _ => .nan 0
  | _, .nan => .nan 0
  | .inf a, .inf b => if a = b then .inf a 0 else .nan 1
  | .inf a, .fin _ _ _ => .inf a 0
  | .fin _ _ _, .inf b => .inf b 0
  | .fin s1 m1 e1, .fin s2 m2 e2 => addFin rnd s1 m1 e1 s2 m2 e2

/-- A with its sign inverted. -/
def negV : FVal → FVal
  | .nan => .nan
  | .inf s => .inf (!s)
  | .fin s m e => .fin (!s) m e

/-- A with its sign cleared. -/
def absV : FVal → FVal
  | .nan => .nan
  | .inf _ => .inf false
  | .fin _ m e => .fin false m e

def isZeroV : FVal → Bool
  | .fin _ 0 _ => true
  | _ => false

/-- A × B (R88). -/
def mulE : FVal → FVal → Exact
  | .nan, _ => .nan 0
  | _, .nan => .nan 0
  | .inf a, .inf b => .inf (a != b) 0
  | .inf a, .fin s m _ => if m = 0 then .nan 1 else .inf (a != s) 0
  | .fin s m _, .inf b => if m = 0 then .nan 1 else .inf (s != b) 0
  | .fin s1 m1 e1, .fin s2 m2 e2 => .val (s1 != s2) (m1 * m2) (e1 + e2) false

/-- A × B + C with one rounding; 0 × ∞ is invalid even when C is a NaN (R88). -/
def fmaE (rnd : Nat) (a b c : FVal) : Exact :=
  match mulE a b with
  | .nan fl => .nan fl
  | .inf s _ =>
    match c with
    | .nan => .nan 0
    | .inf t => if s = t then .inf s 0 else .nan 1
    | .fin _ _ _ => .inf s 0
  | .val s m e _ =>
    match c with
    | .nan => .nan 0
    | .inf t => .inf t 0
    | .fin t n d => addFin rnd s m e t n d

/-- A / B (R92). -/
def divE : FVal → FVal → Exact
  | .nan, _ => .nan 0
  | _, .nan => .nan 0
  | .inf _, .inf _ => .nan 1
  | .inf a, .fin s _ _ => .inf (a != s) 0
  | .fin s _ e, .inf b => .val (s != b) 0 e false
  | .fin s1 m1 e1, .fin s2 m2 e2 =>
    if m2 = 0 then (if m1 = 0 then .nan 1 else .inf (s1 != s2) 2)
    else
      let n := m1 * 2 ^ 128
      .val (s1 != s2) (n / m2) (e1 - e2 - 128) (n % m2 != 0)

/-- The integer square root of `x`, bit by bit from 2^(n-1). -/
def isqrt (x : Nat) : Nat → Nat → Nat
  | 0, r => r
  | n + 1, r =>
    let r' := r + 2 ^ n
    isqrt x n (if r' * r' ≤ x then r' else r)

/-- √A (R92). -/
def sqrtE : FVal → Exact
  | .nan => .nan 0
  | .inf s => if s then .nan 1 else .inf false 0
  | .fin s m e =>
    if m = 0 then .val s 0 e false
    else if s then .nan 1
    else
      let odd := e % 2 = 1
      let m' := (if odd then 2 * m else m) * 2 ^ 128
      let e' := (if odd then e - 1 else e) - 128
      let r := isqrt m' 100 0
      .val false r (e' / 2) (r * r != m')

/-- The order of two values that are no NaN: true when A < B, with -0 below +0 when `zeros` (R89). -/
def ltV (zeros : Bool) : FVal → FVal → Bool
  | .nan, _ => false
  | _, .nan => false
  | .inf a, .inf b => a && !b
  | .inf a, .fin _ _ _ => a
  | .fin _ _ _, .inf b => !b
  | .fin s1 m1 e1, .fin s2 m2 e2 =>
    let q := if e1 ≤ e2 then e1 else e2
    let x := scaled s1 m1 e1 q
    let y := scaled s2 m2 e2 q
    decide (x < y) || (zeros && decide (x = 0) && decide (y = 0) && s1 && !s2)

/-- Equal as real numbers. -/
def eqV (a b : FVal) : Bool :=
  match a, b with
  | .nan, _ => false
  | _, .nan => false
  | _, _ => !ltV false a b && !ltV false b a

def isNanV : FVal → Bool
  | .nan => true
  | _ => false

/-- The pattern of a value that the format holds exactly. -/
def encodeV (f : Fmt) : FVal → Nat
  | .nan => nanBits f
  | .inf s => infBits f s
  | .fin s m e => (roundF f 0 false s m e false).bits

/-- FMIN and FMAX; `num` gives the number when exactly one input is a NaN (R89). -/
def minMaxF (f : Fmt) (isMax num : Bool) (a b : FVal) : Nat :=
  match a, b with
  | .nan, .nan => nanBits f
  | .nan, b => if num then encodeV f b else nanBits f
  | a, .nan => if num then encodeV f a else nanBits f
  | a, b => encodeV f (if ltV true a b != isMax then a else b)

/-- ± m × 2^e rounded to an integer (R62), and whether that was inexact. -/
def roundToInt (rnd : Nat) (s : Bool) (m : Nat) (e : Int) : Int × Bool :=
  let (t, r, d) := cutAt m e 0
  let x : Int := roundInt rnd s t r d false
  (if s then -x else x, r != 0)

/-- The floor of ± m × 2^e. -/
def floorV (s : Bool) (m : Nat) (e : Int) : Int := (roundToInt 3 s m e).1

/-- FRND (R90). -/
def frndF (f : Fmt) (rnd : Nat) : FVal → Nat
  | .nan => nanBits f
  | .inf s => infBits f s
  | .fin s m e =>
    let (t, r, d) := cutAt m e 0
    if r = 0 then encodeV f (.fin s m e) else encodeV f (.fin s (roundInt rnd s t r d false) 0)

/-- FFRAC: A - Floor(A), rounded toward zero (R90). -/
def ffracE : FVal → Exact
  | .nan => .nan 0
  | .inf _ => .nan 1
  | .fin s m e =>
    let q := if e ≤ 0 then e else 0
    let x := scaled s m e q - scaled (decide (floorV s m e < 0)) (floorV s m e).natAbs 0 q
    .val false x.natAbs q false

/-- FSCL: A × 2^B (R91). -/
def fsclE (b : Int) : FVal → Exact
  | .nan => .nan 0
  | .inf s => .inf s 0
  | .fin s m e => .val s m (e + b) false

/-- FEXPN's result and flags (R91). -/
def fexpnF : FVal → Nat × Nat
  | .nan => (0x7FFFFFFF, 1)
  | .inf _ => (0x7FFFFFFF, 0)
  | .fin _ m e => if m = 0 then (0x80000000, 0) else (wrapTo 32 ((bitLen m : Int) - 1 + e), 0)

/-- FMANT (R91). -/
def fmantF (f : Fmt) : FVal → Nat
  | .nan => nanBits f
  | .inf s => infBits f s
  | .fin s m e => if m = 0 then encodeV f (.fin s 0 e) else encodeV f (.fin s m (1 - (bitLen m : Int)))

/-- The class bit of a pattern (R101). -/
def classBit (f : Fmt) (x : Nat) : Nat :=
  match decodeF f x with
  | .nan => 8
  | .inf s => if s then 0 else 7
  | .fin s m _ =>
    if m = 0 then (if s then 3 else 4)
    else if isSub f x then (if s then 2 else 5)
    else if s then 1 else 6

/-! ## Tapered formats (R54 to R57) -/

/-- Width and exponent size of a tapered format. -/
def taperOf : Ty → Nat × Nat
  | .tf8a => (8, 1)
  | .tf8b => (8, 2)
  | .tf6a => (6, 0)
  | _ => (6, 1)

/-- The length of the run of bits equal to `b` from bit `n - 1` of `m` downward. -/
def runLen (m b : Nat) : Nat → Nat
  | 0 => 0
  | n + 1 => if bitAt m n = b then runLen m b n + 1 else 0

/-- The value of a magnitude field of `w` bits, not all zero, as m × 2^e. -/
def taperMag (w es x : Nat) : Nat × Int :=
  let b := bitAt x (w - 1)
  let k := runLen x b w
  let rho : Int := if b = 1 then (k : Int) - 1 else -(k : Int)
  let rest := w - k - 1
  let ne := if rest < es then rest else es
  let ex := bitsOf x (rest - ne) ne * 2 ^ (es - ne)
  let nf := rest - ne
  (2 ^ nf + bitsOf x 0 nf, rho * (2 ^ es : Nat) + ex - nf)

/-- Decodes a tapered pattern; NaR is decoded as NaN (R54, R58). -/
def decodeT (t : Ty) (x : Nat) : FVal :=
  let (w, es) := taperOf t
  let s := bitAt x (w - 1) = 1
  let m := bitsOf x 0 (w - 1)
  if m = 0 then (if s then .nan else .fin false 0 0)
  else let (a, e) := taperMag (w - 1) es m
    .fin s a e

/-- a × 2^d compared with b × 2^e: true when the first is at most the second. -/
def leMag (a : Nat) (d : Int) (b : Nat) (e : Int) : Bool :=
  let q := if d ≤ e then d else e
  decide (a * 2 ^ (d - q).toNat ≤ b * 2 ^ (e - q).toNat)

/-- The largest code from 1 to `n` whose magnitude is at most m × 2^e, or 0. -/
def taperBelow (w es m : Nat) (e : Int) : Nat → Nat
  | 0 => 0
  | n + 1 => let (a, d) := taperMag w es (n + 1)
    if leMag a d m e then n + 1 else taperBelow w es m e n

/-- Encodes a value in a tapered format: nearest, ties to the even pattern, saturating (R57), with the flags that CVT
raises (R64). -/
def encodeT (t : Ty) (v : FVal) : FRes :=
  let (w, es) := taperOf t
  let top := 2 ^ (w - 1) - 1
  let sb (s : Bool) := if s then 2 ^ (w - 1) else 0
  match v with
  | .nan => ⟨2 ^ (w - 1), 0⟩
  | .inf s => ⟨sb s + top, 4 ||| 16⟩
  | .fin s m e =>
    if m = 0 then ⟨0, 0⟩
    else
      let k := taperBelow (w - 1) es m e top
      if k = 0 then ⟨sb s + 1, 8 ||| 16⟩
      else
        let (a, d) := taperMag (w - 1) es k
        let hit := leMag m e a d
        if k = top then ⟨sb s + top, if hit then 0 else 4 ||| 16⟩
        else if hit then ⟨sb s + k, 0⟩
        else
          let (b, g) := taperMag (w - 1) es (k + 1)
          let q0 := if d ≤ g then d else g
          let q := if q0 ≤ e then q0 else e
          let x := m * 2 ^ (e - q).toNat
          let lo := a * 2 ^ (d - q).toNat
          let hi := b * 2 ^ (g - q).toNat
          let c := if x - lo < hi - x then k else if hi - x < x - lo then k + 1 else if k % 2 = 0 then k else k + 1
          ⟨sb s + c, 16⟩

/-! ## Special functions (R93 to R96) -/

/-- The gap of the format's numbers around m × 2^e, as an exponent (R94). -/
def ulpExp (f : Fmt) (m : Nat) (e : Int) : Int :=
  let x := (bitLen m : Int) - 1 + e
  (if x < fmtMin f then fmtMin f else x) - f.fb

/-- A free value kept where `ok` says that it lies within the bound, else `dflt`, which does. -/
def keepIf (ok : Bool) (v dflt : Nat) : Nat := if ok then v else dflt

/-- Whether the non-negative pattern `v` lies within 1 ulp of m1 × 2^e1 / (m2 × 2^e2). -/
def nearQuot (f : Fmt) (v m1 : Nat) (e1 : Int) (m2 : Nat) (e2 : Int) : Bool :=
  match decodeF f v with
  | .fin false a d =>
    let n := m1 * 2 ^ 128
    let u := ulpExp f (n / m2) (e1 - e2 - 128)
    -- |a 2^d m2 2^e2 - m1 2^e1| ≤ 2^u m2 2^e2
    let q := [d + e2, e1, u + e2].foldl (fun x y => if x ≤ y then x else y) 0
    let l := a * m2 * 2 ^ (d + e2 - q).toNat
    let r := m1 * 2 ^ (e1 - q).toNat
    decide (((l : Int) - r).natAbs ≤ m2 * 2 ^ (u + e2 - q).toNat)
  | _ => false

/-- Whether the non-negative pattern `v` lies within 1 ulp of 1/√(m × 2^e). -/
def nearRsqrt (f : Fmt) (v m : Nat) (e : Int) (u : Int) : Bool :=
  match decodeF f v with
  | .fin false a d =>
    let q := if d ≤ u then d else u
    let x := a * 2 ^ (d - q).toNat
    let g := 2 ^ (u - q).toNat
    let one := 2 * q + e
    let cmp (y : Nat) : Nat × Nat :=
      -- y² m 2^(2q+e) against 1
      if 0 ≤ one then (y * y * m * 2 ^ one.toNat, 1) else (y * y * m, 2 ^ (-one).toNat)
    decide ((cmp (x - g)).1 ≤ (cmp (x - g)).2) && decide ((cmp (x + g)).2 ≤ (cmp (x + g)).1)
  | _ => false

/-! ### True values of the other functions, in fixed point with 128 fraction bits -/

/-- ln 2, log₂ e and π/2, from 40 decimals. -/
def ln2Fix : Nat := 6931471805599453094172321214581765680755 * 2 ^ 128 / 10 ^ 40
def log2eFix : Nat := 14426950408889634073599246810018921374266 * 2 ^ 128 / 10 ^ 40
def halfPiFix : Nat := 15707963267948966192313216916397514420986 * 2 ^ 128 / 10 ^ 40

/-- A product in fixed point. -/
def mulFix (a b : Nat) : Nat := a * b / 2 ^ 128

/-- Σ x^i / (d 1 × … × d i) from i on, with alternating signs where `alt`: `n` more terms, `t` the present one. -/
def seriesFix (alt : Bool) (x : Nat) (d : Nat → Nat) : Nat → Nat → Nat → Int
  | 0, _, _ => 0
  | n + 1, i, t =>
    let rest := seriesFix alt x d n (i + 1) (mulFix t x / d (i + 1))
    (t : Int) + (if alt then -rest else rest)

/-- 2^r for r in [0, 1). -/
def exp2Fix (r : Nat) : Nat := (seriesFix false (mulFix r ln2Fix) (fun i => i) 40 0 (2 ^ 128)).toNat

/-- sin θ / θ and its hyperbolic counterpart, from θ² below 2.5. -/
def sincFix (alt : Bool) (q : Nat) : Nat := (seriesFix alt q (fun i => 2 * i * (2 * i + 1)) 24 0 (2 ^ 128)).toNat
/-- cosh x from x² up to 1. -/
def coshFix (q : Nat) : Nat := (seriesFix false q (fun i => (2 * i - 1) * (2 * i)) 24 0 (2 ^ 128)).toNat

/-- Σ w^(2i+1) / (2i+1) from i on: artanh w for w up to 1/3. -/
def artanhFix (q : Nat) : Nat → Nat → Nat → Nat
  | 0, _, _ => 0
  | n + 1, i, t => t / (2 * i + 1) + artanhFix q n (i + 1) (mulFix t q)

/-- log₂ (m / 2^b) for m in [2^b, 2^(b+1)). -/
def log2Fix (m b : Nat) : Nat :=
  let w := (m - 2 ^ b) * 2 ^ 128 / (m + 2 ^ b)
  2 * mulFix (artanhFix (mulFix w w) 44 0 w) log2eFix

/-- ± m × 2^e rounded down to 128 fraction bits. -/
def fixOf (s : Bool) (m : Nat) (e : Int) : Int :=
  let x : Int := if 0 ≤ e + 128 then m * 2 ^ (e + 128).toNat else (m / 2 ^ (-(e + 128)).toNat : Nat)
  if s then (if m % 2 ^ (-(e + 128)).toNat = 0 then -x else -x - 1) else x

/-- sin (r π/2) for r = m × 2^e in (0, 1], as (Y, E) with value Y × 2^E to one part in 2^100. -/
def sinQuarter (m : Nat) (e : Int) : Nat × Int :=
  let r := mulFix (fixOf false m e).toNat halfPiFix
  (sincFix true (mulFix r r) * halfPiFix * m / 2 ^ 128, e - 128)

/-- tanh (m × 2^e), m ≠ 0, in the same form. -/
def tanhMag (m : Nat) (e : Int) : Nat × Int :=
  if (bitLen m : Int) + e ≤ 0 then
    let x := (fixOf false m e).toNat
    let q := mulFix x x
    (sincFix false q * 2 ^ 128 / coshFix q * m, e - 128)
  else if 7 < (bitLen m : Int) + e then (2 ^ 128, -128)
  else
    let y := 2 * mulFix (fixOf false m e).toNat log2eFix
    let k := y / 2 ^ 128
    let q := exp2Fix (2 ^ 128 - 1 - y % 2 ^ 128) / 2 ^ (k + 1)
    ((2 ^ 128 - q) * 2 ^ 128 / (2 ^ 128 + q), -128)

/-! ### What the bounds of Table 4.7 allow -/

/-- The place of a pattern in the order of the values. -/
def keyOf (f : Fmt) (v : Nat) : Int :=
  let a : Int := (v % 2 ^ (f.eb + f.fb) : Nat)
  if bitAt v (f.eb + f.fb) = 1 then -a else a
def patOf (f : Fmt) (k : Int) : Nat := signBit f (decide (k < 0)) + k.natAbs

/-- A signed value Y × 2^E, rounded to the format in a direction, as a key. -/
def roundKey (f : Fmt) (rnd : Nat) (y : Int) (e : Int) : Int :=
  keyOf f (roundF f rnd false (decide (y < 0)) y.natAbs e false).bits

/-- The gap around the true value (R94) that Y × 2^E gives to one part in 2^100. Where Y is a power of two to that part, the true value
lies below it: sines stay below 1, and hyperbolic tangents below 1 and below their arguments. -/
def trueUlp (f : Fmt) (y : Nat) (e : Int) : Int := ulpExp f (y - (y / 2 ^ 100 + 1)) e

/-- The least and greatest results within two gaps 2^u of Y × 2^E. -/
def within2 (f : Fmt) (u y : Int) (e : Int) : Int × Int :=
  let g : Int := 2 * 2 ^ (u - e).toNat + y.natAbs / 2 ^ 100 + 1
  (roundKey f 2 (y - g) e, roundKey f 3 (y + g) e)

/-- A free result between two keys that never falls as the input rises: result k is reached from a free input on. Every
monotonic choice is of this form. -/
def rising (fn : SpecialFn) (f : Fmt) (code x : Nat) (lo hi : Int) : Int :=
  (List.range (hi - lo).toNat).foldl (fun (best : Int) (i : Nat) =>
    let k := lo + 1 + (i : Int)
    if keyOf f (Config.specialValue fn code (patOf f k)) ≤ keyOf f x then k else best) lo

/-- A free pattern kept where it lies within 2 ulp of Y × 2^E, else the nearest result. -/
def near2 (f : Fmt) (v y : Nat) (e : Int) : Nat :=
  let b := within2 f (trueUlp f y e) y e
  keepIf (decide (b.1 ≤ keyOf f v) && decide (keyOf f v ≤ b.2) && decide (0 ≤ keyOf f v)) v
    (roundF f 0 false false y e false).bits

/-- Whether 2π m 2^e stays tiny in the format after rounding (R64). -/
def tinyTurn (f : Fmt) (m : Nat) (e : Int) : Bool :=
  -- 2π m 2^e < 2^min (1 - 2^-(fb+2))
  let q := if e ≤ fmtMin f - f.fb - 2 then e else fmtMin f - f.fb - 2
  decide (m * 2 ^ (e - q).toNat * 6283185307179587 <
    10 ^ 15 * ((2 ^ (f.fb + 2) - 1) * 2 ^ (fmtMin f - f.fb - 2 - q).toNat))

/-- The end of a special function whose result is inexact: flushed or flagged when tiny. -/
def inexactF (f : Fmt) (flush tiny s : Bool) (mag : Nat) : FRes :=
  if tiny && flush then ⟨signBit f s, 8 ||| 16⟩
  else ⟨signBit f s + mag, if tiny then 8 ||| 16 else 16⟩

/-- FRCP of ± m × 2^e, m ≠ 0. Its free value is that of the positive input, with the sign put to it, so that FRCP is odd: log entry 8. -/
def frcpF (f : Fmt) (flush s : Bool) (code x m : Nat) (e : Int) : FRes :=
  if 2 ^ (bitLen m - 1) = m then
    let r := roundF f 0 flush s 1 (1 - (bitLen m : Int) - e) false
    r
  else
    let n := 2 ^ 256
    let r := roundF f 0 flush s (n / m) (-e - 256) true
    let ovr := maxBits f ≤ r.bits % 2 ^ (f.eb + f.fb) && r.flags ||| 4 == r.flags
    if ovr then ⟨infBits f s, 4 ||| 16⟩
    else if r.flags ||| 8 == r.flags && flush then r
    else
      let v := Config.specialValue .frcp code x
      ⟨signBit f s + keepIf (nearQuot f v 1 0 m e) v (r.bits % 2 ^ (f.eb + f.fb)), r.flags⟩

/-- FRSQ of m × 2^e, m ≠ 0. -/
def frsqF (f : Fmt) (flush : Bool) (code x m : Nat) (e : Int) : FRes :=
  let k := (bitLen m : Int) - 1 + e
  if 2 ^ (bitLen m - 1) = m ∧ k % 2 = 0 then roundF f 0 flush false 1 (-(k / 2)) false
  else
    -- 1/√(m 2^e) = √(2^(2 c) / m) 2^-(c + e/2), with e made even
    let odd := e % 2 = 1
    let m' := if odd then 2 * m else m
    let e' := if odd then e - 1 else e
    let r0 := isqrt (2 ^ 200 / m') 101 0
    let r := roundF f 0 flush false r0 (-100 - e' / 2) true
    let v := Config.specialValue .frsq code x
    ⟨keepIf (nearRsqrt f v m e (ulpExp f r0 (-100 - e' / 2))) v r.bits, r.flags⟩

/-- FEXP2 of ± m × 2^e, m ≠ 0: exact at integers in range, elsewhere monotonic and within 2 ulp (R93, R94). -/
def fexp2F (f : Fmt) (flush s : Bool) (code x m : Nat) (e : Int) : FRes :=
  let low := fmtMin f - f.fb
  if 12 < (bitLen m : Int) + e ∧ s = false then ⟨infBits f false, 4 ||| 16⟩
  else
    let y := fixOf s m e
    let k : Int := y / 2 ^ 128
    if 12 < (bitLen m : Int) + e ∨ k < low then
      if flush then ⟨0, 8 ||| 16⟩ else ⟨patOf f (rising .fexp2 f code x 0 1), 8 ||| 16⟩
    else if (roundToInt 3 s m e).2 = false then roundF f 0 flush false 1 k false
    else if (f.bias : Int) < k then ⟨infBits f false, 4 ||| 16⟩
    else
      let b := within2 f (ulpExp f 1 k) (exp2Fix (y % 2 ^ 128).toNat) (k - 128)         -- the true value lies in [2^k, 2^(k+1))
      let lo := roundKey f 0 1 k
      let hi := if k = f.bias then (maxBits f : Int) else roundKey f 0 1 (k + 1)
      let v := rising .fexp2 f code x (if b.1 ≤ lo then lo else b.1) (if hi ≤ b.2 then hi else b.2)
      inexactF f flush (decide (k < fmtMin f)) false (patOf f v)

/-- The results of FLOG2 that the bound allows for a positive pattern: one at a power of two. -/
def log2Bounds (f : Fmt) (m : Nat) (e : Int) : Int × Int :=
  let k := (bitLen m : Int) - 1 + e
  let lo := roundKey f 0 k 0
  if 2 ^ (bitLen m - 1) = m then (lo, lo)
  else
    let y := k * 2 ^ 128 + log2Fix m (bitLen m - 1)
    let b := within2 f (trueUlp f y.natAbs (-128)) y (-128)
    let hi := roundKey f 0 (k + 1) 0
    (if b.1 ≤ lo then lo else b.1, if hi ≤ b.2 then hi else b.2)

/-- The bounds of the input's neighbour, if it is finite and positive. -/
def log2Next (f : Fmt) (x : Nat) (dflt : Int × Int) : Int × Int :=
  match decodeF f x with
  | .fin false m e => if m = 0 then dflt else log2Bounds f m e
  | _ => dflt

/-- FLOG2 of m × 2^e, m ≠ 0: exact at powers of two, elsewhere monotonic and within 2 ulp. A result is also bounded by those
of the two neighbouring inputs, where the ulp of the result changes between them. -/
def flog2F (f : Fmt) (code x m : Nat) (e : Int) : FRes :=
  let b := log2Bounds f m e
  if 2 ^ (bitLen m - 1) = m then ⟨patOf f b.1, 0⟩
  else
    let p := log2Next f (x - 1) b
    let n := log2Next f (x + 1) b
    ⟨patOf f (rising .flog2 f code x (if b.1 ≤ p.1 then p.1 else b.1) (if n.2 ≤ b.2 then n.2 else b.2)), 16⟩

/-- FSIN and FCOS of m × 2^e turns, m ≠ 0, for an argument of sign `s` (R95). -/
def fturnF (f : Fmt) (flush cosine s : Bool) (code x m : Nat) (e : Int) : FRes :=
  let one := f.bias * 2 ^ f.fb
  let (t, r, d) := cutAt m (e + 2) 0        -- quarter turns
  let n := t % 4
  if r = 0 then
    if cosine then
      if n = 0 then ⟨one, 0⟩ else if n = 2 then ⟨signBit f true + one, 0⟩ else ⟨0, 0⟩
    else if n % 2 = 0 then ⟨signBit f s, 0⟩
    else ⟨signBit f (s != (n == 3)) + one, 0⟩
  else
    -- r / d of a quarter turn past quarter n
    let (y, q) := sinQuarter (if cosine == (n % 2 == 0) then d - r else r) (e + 2)
    let neg : Bool := if cosine then n == 1 || n == 2 else decide (2 ≤ n)
    let v := Config.specialValue (if cosine then .fcos else .fsin) code x
    if leMag m e 256 0 then
      inexactF f flush (!cosine && tinyTurn f m e) (if cosine then neg else s != neg) (near2 f v y q)
    else
      -- within 2^-16 of the true value, and in [-1, 1]
      let yi : Int := if neg then -(y : Int) else y
      let g : Int := 2 ^ (-16 - q).toNat
      let k := keyOf f v
      let fits := decide (roundKey f 2 (yi - g) q ≤ k) && decide (k ≤ roundKey f 3 (yi + g) q) && decide (k.natAbs ≤ one)
      let w := if fits then k else roundKey f 0 yi q
      ⟨signBit f (if cosine then decide (w < 0) else s != decide (w < 0)) + w.natAbs, 16⟩

/-- A special function of one element, with its flags (R93 to R96, Table 4.8). `code` tells the element format. -/
def specialF (fn : SpecialFn) (f : Fmt) (code : Nat) (flush : Bool) (x : Nat) : FRes :=
  let a := readF f flush x
  let ax := x % 2 ^ (f.eb + f.fb)
  let one := f.bias * 2 ^ f.fb
  match fn, a with
  | _, .nan => ⟨nanBits f, 0⟩
  | .frcp, .inf s => ⟨signBit f s, 0⟩
  | .frcp, .fin s m e => if m = 0 then ⟨infBits f s, 2⟩ else frcpF f flush s code ax m e
  | .frsq, .inf s => if s then ⟨nanBits f, 1⟩ else ⟨0, 0⟩
  | .frsq, .fin s m e =>
    if m = 0 then ⟨infBits f s, 2⟩ else if s then ⟨nanBits f, 1⟩ else frsqF f flush code ax m e
  | .fexp2, .inf s => if s then ⟨0, 0⟩ else ⟨infBits f false, 0⟩
  | .fexp2, .fin s m e => if m = 0 then ⟨one, 0⟩ else fexp2F f flush s code x m e
  | .flog2, .inf s => if s then ⟨nanBits f, 1⟩ else ⟨infBits f false, 0⟩
  | .flog2, .fin s m e =>
    if m = 0 then ⟨infBits f true, 2⟩ else if s then ⟨nanBits f, 1⟩ else flog2F f code ax m e
  | .fsin, .inf _ => ⟨nanBits f, 1⟩
  | .fsin, .fin s m e => if m = 0 then ⟨signBit f s, 0⟩ else fturnF f flush false s code ax m e
  | .fcos, .inf _ => ⟨nanBits f, 1⟩
  | .fcos, .fin s m e => if m = 0 then ⟨one, 0⟩ else fturnF f flush true s code ax m e
  | .ftanh, .inf s => ⟨signBit f s + one, 0⟩
  | .ftanh, .fin s m e =>
    if m = 0 then ⟨signBit f s, 0⟩
    else inexactF f flush (decide ((bitLen m : Int) - 1 + e < fmtMin f)) s
      (let (y, q) := tanhMag m e
       let v := near2 f (Config.specialValue .ftanh code ax) y q
       if v ≤ one then v else one)

/-! ## Float constants (Table 2.7) -/

/-- ± a/b × 2^e as an exact result. -/
def ratE (s : Bool) (a b : Nat) (e : Int) : Exact :=
  let n := a * 2 ^ 128
  .val s (n / b) (e - 128) (n % b != 0)

/-- The real value of float constant `i` in a format: rounded to nearest-even, raising nothing (R38). The irrational ones
are given to 40 decimals, which decides every rounding. -/
def fconst (f : Fmt) (i : Nat) : Nat :=
  let rn (x : Exact) : Nat := (deliver f 0 false x).bits
  let dec (n : Nat) : Nat := rn (ratE false n (10 ^ 40) 0)
  let pow (s : Bool) (e : Int) : Nat := rn (.val s 1 e false)
  let int (n : Nat) : Nat := rn (.val false n 0 false)
  match i with
  | 0 => pow false (-1) | 1 => pow false 0 | 2 => pow false 1 | 3 => pow false 2 | 4 => pow false 3
  | 5 => pow false 4 | 6 => pow false (-2) | 7 => pow false (-3)
  | 8 => pow true (-1) | 9 => pow true 0 | 10 => pow true 1 | 11 => pow true 2 | 12 => pow true 3
  | 13 => pow true 4 | 14 => pow true (-2) | 15 => pow true (-3)
  | 16 => int 3 | 17 => int 5 | 18 => int 6 | 19 => int 7 | 20 => int 10 | 21 => int 32 | 22 => int 64 | 23 => int 128
  | 24 => int 255 | 25 => int 256 | 26 => rn (ratE false 1 255 0) | 27 => pow false (-8)
  | 28 => rn (ratE false 1 3 0) | 29 => rn (ratE false 2 3 0) | 30 => rn (.val false 3 (-2) false)
  | 31 => rn (.val false 3 (-1) false)
  | 32 => dec 31415926535897932384626433832795028841972
  | 33 => dec 62831853071795864769252867665590057683943
  | 34 => dec 15707963267948966192313216916397514420986
  | 35 => dec 3183098861837906715377675267450287240689
  | 36 => dec 1591549430918953357688837633725143620345
  | 37 => dec 27182818284590452353602874713526624977572
  | 38 => dec 6931471805599453094172321214581765680755
  | 39 => dec 14426950408889634073599246810018921374266
  | 40 => dec 33219280948873623478703194294893901758648
  | 41 => dec 3010299956639811952137388947244930267682
  | 42 => dec 14142135623730950488016887242096980785697
  | 43 => dec 7071067811865475244008443621048490392848
  | 44 => dec 23025850929940456840179914546843642076011
  | 45 => infBits f false | 46 => infBits f true | 47 => maxBits f
  | 48 => 2 ^ f.fb | 49 => pow false (-(f.fb : Int)) | 50 => 2 ^ (f.eb + f.fb) + maxBits f | 51 => pow false (-10)
  | 52 => pow false 10 | 53 => pow false (-16) | 54 => pow false 16 | 55 => rn (ratE false 1 10 0)
  | 56 => rn (ratE false 1 100 0) | 57 => rn (ratE false 1 1000 0) | 58 => rn (ratE false 1 6 0) | 59 => nanBits f
  | 60 => pow false (-4) | 61 => pow false (-7) | 62 => rn (ratE false 1 12 0) | _ => 2 ^ (f.eb + f.fb)

end Sys2Proof.Machine
end

