-- ==== Sys2Proof/Machine/State.lean ====
section
/-!
DEFINITION. The state of the N9: plain data, holding every piece of state the manual names, and `State.reset`. Fields whose
docstring begins MODEL are the model's own: what moves next, and counters that free values are applied to.
-/
namespace Sys2Proof.Machine

/-- Why the machine stops. The manual's own faults are taken (R272 to R274), not ended in. -/
inductive Fault where
  /-- Raised by `step` alone: DEVST.FATAL is 1, so the device has stopped (Table 15.4, R393), and the next move is none of those
  that still take place. Safe: the manual says that the device has stopped. -/
  | deviceStopped
  deriving DecidableEq, Repr

/-- Why an instruction has no next state. An event row whose occasion has not come, or whose agent does not exist, does not refuse: it
changes nothing (log entry 46). -/
inductive Refusal where
  /-- An arm of `exec` without a meaning. Safe. -/
  | notModelled (mnemonic : String)
  /-- An instruction was asked for while no frontier entry stands at an instruction. Safe: nothing issues. -/
  | noIssuingEntry
  deriving DecidableEq, Repr

/-! ## Registers of a wave -/

/-- A register that instructions write: named, or an entry of the result queue by its push number. -/
inductive Reg where
  | v (n : Nat)
  | s (n : Nat)
  | p (n : Nat)
  | q (tag : Nat)
  deriving DecidableEq, Repr

/-- A write of a register: the lanes of `mask` (bit 0 stands for a scalar) take the values of `vals`, lane 0 first. -/
structure RegWrite where
  reg  : Reg
  mask : W32
  vals : List W32
  deriving DecidableEq, Repr

/-- MODEL. A register written a moment ago: what it held before, and the clk of the write (R24, R43). -/
structure Recent where
  reg    : Reg
  mask   : W32
  old    : List W32
  issued : Nat
  ready  : Nat
  scalar : Bool
  deriving DecidableEq, Repr

/-- An entry of the result queue (R17): 32 values, a valid bit for each lane, and whether it has been filled. -/
structure QEnt where
  tag    : Nat
  valid  : W32
  filled : Bool
  /-- MODEL. The clk at which a fixed-latency instruction fills it. -/
  ready  : Nat
  vals   : List W32
  deriving DecidableEq, Repr

/-- An element of e5 or e7: the present lanes and 32 words (R112, R284). -/
structure Masked where
  mask : W32
  vals : List W32
  deriving DecidableEq, Repr

/-- A triangle list that RAST handed to the raster engine (R353). -/
structure Rast where
  tile   : Nat
  ox     : Nat
  oy     : Nat
  tris   : List (List W32)
  words  : List W32
  deriving DecidableEq, Repr

/-- Requests in flight on Shener link ports, with what their failure records (R378, R382). -/
structure Remote where
  ports : List Nat
  va    : Nat
  hdr   : BitVec 60
  idx   : Nat
  mask  : W32
  deriving DecidableEq, Repr

/-- Outstanding long-latency work (R30): the flag it is counted on, the writes and sticky bits it delivers when it completes,
the result-queue entries it fills, and the lanes of its registers that a later instruction wrote meanwhile (R43). `access`
marks the loads and atomics, which a barrier waits for (R143), `raises` the work that can raise a sticky bit (R23). -/
structure LongOp where
  id     : Nat
  access : Bool
  raises : Bool
  flag   : Option Nat
  ready  : Bool
  due    : Nat
  writes : List RegWrite
  qtags  : List Nat
  sticky : BitVec 5
  ovr   : List (Reg × W32)
  rast   : Option Rast
  /-- The requests of it that are in flight on Shener link ports (R382). -/
  remote : Option Remote
  deriving DecidableEq, Repr

/-- A REDUCE or RDLANE result on its way to e6 (R25). -/
structure Flight where
  due    : Nat
  value  : W32
  seq    : BitVec 8
  raises : Bool
  sticky : BitVec 5
  op     : Nat
  deriving DecidableEq, Repr

/-- What a WAITA of the lanes `mask` watches (R171): for each lane its stash offset, or the memory key of its global address, and its value V. -/
structure Watch where
  mask     : W32
  stash    : Bool
  size     : Nat
  eq       : Bool
  acq      : Bool
  lanes    : List (Nat × Nat × Nat)
  /-- The clk at which it issued. -/
  issued   : Nat
  deadline : Option Nat
  dst      : Operand
  deriving DecidableEq, Repr

/-- A remote acquire that waits (R232): its line, and the number of the release record that a promotion has covered. -/
structure Racq where
  line     : Nat
  promoted : Option Nat
  deriving DecidableEq, Repr

/-- Why an entry stands at its instruction without going on. -/
inductive Hold where
  | none
  /-- Held at a barrier until it completes (R142). -/
  | barrier
  /-- Held on page fault `pf` (R291). -/
  | page (pf : Nat)
  /-- Its resource request is pending (R132). -/
  | request
  /-- Its request for slots is granted, and the change has still to take effect (R136, R181). -/
  | slots
  /-- A remote acquire is under way (R232). -/
  | racq (r : List Racq)
  /-- Blocked on a queue, an owned granule, a full list or an earlier call; it issues again when that is removed. -/
  | blocked
  deriving DecidableEq, Repr

/-- A frontier entry (Table 1.1). `clause` is the clause it fetched when it opened, header first (R46). -/
structure Entry where
  hdr    : BitVec 60
  idx    : Nat
  prio   : W16
  mask   : W32
  park   : Nat
  opn    : Bool
  /-- It was opened as its round's secondary (R12). -/
  second : Bool
  /-- MODEL. -/
  clause : List W128
  /-- MODEL. The clk before which it does not issue (R35, R120). -/
  notBefore : Nat
  /-- MODEL. -/
  hold   : Hold
  /-- The elements that a DEQ or an ENQ has moved so far (R203). -/
  done   : Nat
  /-- The WAITAs that its lanes are parked in. -/
  watch  : List Watch
  deriving DecidableEq, Repr

/-- Trap mode: the trap set T and the frame held (R277, R278). -/
structure TrapSt where
  lanes : W32
  frame : Nat
  deriving DecidableEq, Repr

/-- What orders an instruction among those of one clk (R14): matrix commands keep the order of a core's tenants (R190), copy records that of
a grove (R224), and the others that of their block (R273). -/
inductive IssueKind where
  | plain | matrix | copy
  deriving DecidableEq, Repr

/-- MODEL. An issue: its clk, whether from the secondary, and its kind. -/
structure Issued where
  clk    : Nat
  second : Bool
  kind   : IssueKind
  deriving DecidableEq, Repr

/-- A wave (Table 1.3, R16). Registers are sparse over zero: v by 32 n + lane, LVL by 32 i + lane, s, p and m by number. -/
structure Wave where
  wave  : Nat
  half  : Nat
  role  : BitVec 2
  claim : Nat
  v     : Sparse W32
  s     : Sparse W32
  p     : Sparse W32
  m     : Sparse W32
  lvl   : Sparse W32
  f     : BitVec 12
  mode  : W32
  /-- MODEL. The clk at which fixed-latency instructions that can raise a sticky bit complete, with the bits that they raise then
  (R23). -/
  late  : List (Nat × BitVec 5)
  q     : List QEnt
  /-- MODEL. Result-queue pushes so far. -/
  pushes : Nat
  e1    : List (List W32)
  e2    : List (List W32)
  e3    : List W32
  e4    : List W32
  e5    : List Masked
  e6    : List (W32 × BitVec 8)
  e7    : List Masked
  seqS  : BitVec 8
  seqE  : BitVec 8
  frontier : List Entry
  reserv : Option (Nat × Nat)
  trap  : Option TrapSt
  ops   : List LongOp
  flights : List Flight
  /-- The service slots whose replies the wave awaits (R282). -/
  svc   : List Nat
  /-- MODEL. -/
  recent : List Recent
  /-- MODEL. The wave has ended (R115). -/
  ended : Bool
  /-- MODEL. When it last issued: the least first in its half's round-robin order (R148). -/
  turn  : Nat
  /-- MODEL. The clk before which its half offers its slots to other waves first (R120). -/
  yieldTo : Nat
  /-- MODEL. What it has issued in the clk in which it last issued (R14). -/
  issued : List Issued
  deriving DecidableEq, Repr

/-! ## Blocks -/

/-- A stash window (R153). `leaves` holds the translation of each 64 KiB page for the window's life (R154): the page number,
the leaf and its level. `filled` lists the lines that have been filled. -/
structure Window where
  win    : Nat
  off    : Nat
  len    : Nat
  va     : Nat
  leaves : List (Nat × W64 × Nat)
  filled : List Nat
  /-- The wave that mapped it, and whether a BAR has followed (R154). -/
  owner  : Nat
  shown  : Bool
  /-- The long-latency work by which its STMAP completes. -/
  op     : Nat
  deriving DecidableEq, Repr

/-- Kinds of matrix command (R190). -/
inductive MKind where
  | mwld | mswap | mrun | minit | mrda | ovf
  deriving DecidableEq, Repr

/-- A queued matrix command: what it captured at issue, the first row not entered, and where it came from. -/
structure MCmd where
  id    : Nat
  kind  : MKind
  data  : List Byte
  /-- MODEL. The activation rows that it has read from the stash (R206). -/
  acts  : List (List Byte)
  row   : Nat
  start : Nat
  count : Nat
  wave  : Nat
  mask  : W32
  hdr   : BitVec 60
  idx   : Nat
  op    : Option Nat
  deriving DecidableEq, Repr

/-- One of a tenant's planes (R179, R187): its latches, its weight rows and sparsity rows as read, its replay header. -/
structure Plane where
  loaded : Bool
  fmt    : Nat
  sparse : Bool
  tpl    : Nat
  scales : List Byte
  rows   : List (List Byte)
  metas  : List (List Byte)
  replay : List Byte
  /-- The stash bytes it was loaded from have changed since (R189). -/
  torn   : Bool
  deriving DecidableEq, Repr

/-- A matrix tenant (R180). Accumulator words by 32 row + column, relative. -/
structure Tenant where
  high   : Bool
  slots  : Nat
  p0     : Plane
  p1     : Plane
  active : Bool
  acc    : Sparse W32
  ovf    : W32
  queue  : List MCmd
  ctr    : List W32
  quiesced : Bool
  /-- Its fault state (R180, R205): an engine fault has been taken. -/
  faulted : Bool
  deriving DecidableEq, Repr

/-- Kinds of barrier (R142, R300). -/
inductive BarKind where
  | bar | gbar | phase | regroup
  deriving DecidableEq, Repr

/-- The block's barrier unit (R142): the first arrival's kind and address, who has arrived, PHASE's template. -/
structure Barrier where
  kind    : BarKind
  addr    : Nat
  arrived : List Nat
  tmpl    : Nat
  full    : Bool
  key     : Operand
  deriving DecidableEq, Repr

/-- Pre-emption of a resident block (R297). -/
inductive Halt where
  | running | asked | halted
  deriving DecidableEq, Repr

/-- A resident block. `spare0` and `spare1` are the spare pools, each bundle 256 words by 32 j + lane, oldest first. -/
structure Block where
  uid    : Nat
  launch : Nat
  n      : Nat
  oid    : Nat
  glade  : Nat
  gen    : W16
  pcls   : Nat
  die    : Nat
  core   : Nat
  h0     : Nat
  waves  : List Wave
  ways   : Nat
  stash  : Sparse Byte
  windows : List Window
  spare0 : List (Sparse W32)
  spare1 : List (Sparse W32)
  /-- Matrix slots allocated, and the end given when MM > 0 (R128). -/
  mslots : Nat
  mend   : Option Bool
  tenant : Option Tenant
  barrier : Option Barrier
  halt   : Halt
  /-- Dispatch number, for R295. -/
  since  : Nat
  deriving DecidableEq, Repr

/-- A pending resource request (R132). `kind`: 0 registers, 1 stash ways, 2 matrix slots, 3 CLAIM. -/
structure Request where
  die   : Nat
  core  : Nat
  blk   : Nat
  wave  : Nat
  lane  : Nat
  kind  : Nat
  count : Nat
  /-- When it issued, in the order of requests that issue together (R132): the clk, the half, and the secondary after the
  primary. -/
  clk   : Nat
  half  : Nat
  second : Bool
  /-- A unit has been returned to a pool of its core since it was last tested. -/
  due   : Bool
  deriving DecidableEq, Repr

/-- A copy command in the engine (R222): the record, the restart offset, payload done, status still to push. -/
structure Copy where
  id     : Nat
  blk    : Nat
  wave   : Nat
  mask   : W32
  hdr    : BitVec 60
  idx    : Nat
  record : BitVec 512
  row    : Nat
  byte   : Nat
  begun  : Bool
  payload : Bool
  pf     : Option Nat
  /-- MODEL. Source bytes that are destination bytes too, as they stood before the command wrote them (R224): the block of a stash
  byte, the offset or memory key, and the byte. -/
  saved  : List (Option Nat × Nat × Byte)
  deriving DecidableEq, Repr

/-- A plain store in a core's store path (R230), with what its refusal at the target would record (R378). -/
structure Pending where
  die   : Nat
  core  : Nat
  blk   : Nat
  wave  : Nat
  oid   : Nat
  glade : Nat
  key   : Nat
  bytes : List Byte
  va    : Nat
  hdr   : BitVec 60
  idx   : Nat
  mask  : W32
  hint  : Nat
  /-- The display whose map let a PXST write it, and the pixel (R337). -/
  disp  : Option (Nat × Nat × Nat)
  deriving DecidableEq, Repr

/-- A release record on a line (R231), and the number given out when the release left it. -/
structure RelRecord where
  line : Nat
  blk  : Nat
  num  : Nat
  deriving DecidableEq, Repr

/-- MOESI states (R229); I is not listed. -/
inductive Moesi where
  | shared | exclusive | owned | modified
  deriving DecidableEq, Repr

/-- A holder of a line in the directory, with its dirty and its valid 32 B sectors (R226), and its tag: the owner and glade of its frame
when the holder took it, for a host line the accessing owner (R387). -/
structure DirEnt where
  line   : Nat
  holder : Holder
  st     : Moesi
  dirty  : BitVec 4
  valid  : BitVec 4
  tag    : Nat × Nat
  deriving DecidableEq, Repr

/-- A TLB entry (R290) at 64 KiB grain: core 0 to 15 of a grove, or 16 for the grove's own TLB. `frameOk` is the outcome of
R321 held with it, and `tag` the owner and glade of its frame when it was filled (R387). -/
structure TlbEnt where
  die     : Nat
  grove   : Nat
  core    : Nat
  oid     : Nat
  glade   : Nat
  vpn     : Nat
  leaf    : W64
  level   : Nat
  frameOk : Bool
  tag     : Nat × Nat
  deriving DecidableEq, Repr

/-! ## Launches, phases, tiles and graphs -/

/-- Phase states (Table 11.6). -/
inductive PState where
  | created | ready | gated | dispatched | running | parked | preempted | done
  deriving DecidableEq, Repr

/-- What the pool keeps of a block saved off its core: the allocation it held (R130), by wave for its claims, its trap frames,
and its save slot (R299); all empty after a PHASE. The last seven fields are MODEL: parts of the saved block for which Tables
13.11 to 13.13 lay out no place. -/
structure Kept where
  ways   : Nat
  slots  : Nat
  spareE : Nat
  spareO : Nat
  claims : List (Nat × Nat)
  frames : List Nat
  slot   : Option Nat
  tenant : Option Tenant
  copies : List Copy
  ops    : List (Nat × List LongOp)
  pushes : List (Nat × Nat)
  barrier : Option Barrier
  /-- By window: its owner, whether a BAR has shown it, and its filled lines. -/
  windows : List (Nat × Nat × Bool × List Nat)
  /-- By wave and lowest lane: the elements that a DEQ or an ENQ has moved (R203). -/
  moved  : List (Nat × Nat × Nat)
  deriving DecidableEq, Repr

/-- A block's current phase in the ready pool or on a core. `uid` is the block's for its life. `wlive` has a bit for each wave
with a live lane (R146); `fresh` tells that it has never been dispatched (R246). `ageClk` counts the clk in which it was
dispatchable, `age` its whole ageing periods (R247). -/
structure Phase where
  uid    : Nat
  launch : Nat
  n      : Nat
  st     : PState
  reason : Nat
  ntile  : Nat
  phno   : W16
  wlive  : W32
  kept   : Kept
  fresh  : Bool
  age    : Nat
  ageClk : Nat
  order  : Nat
  gang   : Option Nat
  waitedSince : Option Nat
  deriving DecidableEq, Repr

/-- A launch held in a die's ready pool: the copy of its record (R244), its origin and its progress. -/
structure Launch where
  uid    : Nat
  die    : Nat
  record : BitVec 2048
  recVa  : Nat
  oid    : Nat
  glade  : Nat
  pcls   : Nat
  gen    : W16
  cwAddr : Nat
  cwVal  : W32
  param  : List W32
  next   : Nat
  doneN  : Nat
  gangs  : Nat
  /-- Dies that units of die-bound levels have taken (R237): level and unit number, die. -/
  units  : List (Nat × Nat × Nat)
  /-- Launches whose completion completes the producers (R255). -/
  producers : List Nat
  /-- Graph nodes whose tile-edge predecessors complete the producers too (R255): run, node and its TINIT. -/
  preds  : List (Nat × Nat × Nat)
  /-- The graph run and node it belongs to, and the node's TINIT (R264). -/
  node   : Option (Nat × Nat)
  tinit  : Nat
  qid    : Option Nat
  /-- A refused launch, which has no block and only its completion word left (R241). -/
  dead   : Bool
  deriving DecidableEq, Repr

/-- A gang (R213): its members, and the arrivals at the gang barrier. -/
structure Gang where
  uid     : Nat
  launch  : Nat
  num     : Nat
  members : List Nat
  ended   : List Nat
  kind    : Option BarKind
  addr    : Nat
  arrived : List Nat
  deriving DecidableEq, Repr

/-- An entry of a blaze table (R253). -/
structure Blaze where
  oid   : Nat
  key   : BitVec 48
  gen   : W16
  count : BitVec 12
  persistent : Bool
  deriving DecidableEq, Repr

/-- A publication on its way to its home die (R260), or listed as made by a launch. -/
structure Publication where
  id    : Nat
  oid   : Nat
  key   : BitVec 48
  gen   : W16
  count : Nat
  blk   : Nat
  launch : Nat
  wave  : Nat
  mask  : W32
  hdr   : BitVec 60
  idx   : Nat
  op    : Option Nat
  deriving DecidableEq, Repr

/-- A listed overflow entry (R256): slot i of the owner's area, and the launch that made it. -/
structure Listed where
  oid    : Nat
  slot   : Nat
  blaze  : Blaze
  launch : Nat
  deriving DecidableEq, Repr

/-- A graph run request (R264). -/
structure RunReq where
  die    : Nat
  oid    : Nat
  glade  : Nat
  pcls   : Nat
  table  : Nat
  cwAddr : Nat
  cwVal  : W32
  deriving DecidableEq, Repr

/-- A graph run in progress: nodes launched and complete, and whether it launches further nodes (R265). -/
structure Run where
  uid    : Nat
  req    : RunReq
  gen    : W16
  /-- NN, NODES, SUCC and CTR as the header gave them when the run began (R263). -/
  nn     : Nat
  nodes  : Nat
  succ   : Nat
  ctr    : Nat
  launched : List Nat
  complete : List Nat
  /-- Nodes to launch that wait for room in the pool, in order (R246). -/
  waiting  : List Nat
  stopped  : Bool
  /-- The first node whose PINIT has not been examined; the completed node whose successors are being walked, and the next
  successor; and whether only the completion word is left. -/
  scan   : Nat
  walk   : Option (Nat × Nat)
  ended  : Bool
  deriving DecidableEq, Repr

/-- A service request outstanding in an owner's ring (R281, R282). -/
structure SvcReq where
  oid   : Nat
  slot  : Nat
  launch : Nat
  blk   : Nat
  wave  : Nat
  lmask : W32
  nret  : Nat
  landed : Bool
  /-- Return words already pushed to e7. -/
  given : Nat
  deriving DecidableEq, Repr

/-- What a page fault holds (R291). -/
inductive PfWho where
  | entry (e : ERef)
  /-- A LAUNCH's record or PARAM lines (R241). -/
  | record (e : ERef)
  | copy (cid : Nat)
  | queue (qid : Nat)
  | launch (uid : Nat)
  | run (uid : Nat)
  | phase (uid : Nat)
  deriving DecidableEq, Repr

/-- A page fault posted to the leader. -/
structure PageFault where
  id    : Nat
  oid   : Nat
  glade : Nat
  va    : Nat
  who   : PfWho
  /-- The lanes that faulted (R272). -/
  lanes : W32
  deriving DecidableEq, Repr

/-- The fields of a fault record (Table 13.3). -/
structure Record where
  cls    : Nat
  fatal  : Bool
  trapm  : Bool
  oid    : Nat
  glade  : Nat
  die    : Nat
  wave   : Nat
  core   : Nat
  index  : Nat
  phno   : Nat
  caddr  : Nat
  vaddr  : Nat
  lmask  : Nat
  blk    : Nat
  lrec   : Nat
  detail : Nat
  deriving DecidableEq, Repr

/-- A record that waits for the control words of a fault area (R273, R363, R325): the area's owner, the record, and its CYC. -/
structure Raised where
  area : Nat
  body : Record
  cyc  : Nat
  deriving DecidableEq, Repr

/-! ## Package, screens, trust -/

/-- A pending map command of a display (R334). -/
structure MapCmd where
  d    : Nat
  rect : W64
  slot : Nat
  value : W16
  deriving DecidableEq, Repr

/-- A buffer that Canopy has latched (R345). -/
structure Latch where
  d    : Nat
  oid  : Nat
  addr : W64
  /-- The layer record as the latch found it. -/
  record : BitVec 1024
  deriving DecidableEq, Repr

/-- What a display sent for a frame: scanout values, three for each pixel in row-major order (R344). -/
structure Scan where
  d     : Nat
  frame : W64
  rgb   : List (Nat × Nat × Nat)
  deriving DecidableEq, Repr

/-- What the outside observed: answers to the host, messages, replies. -/
inductive HostMsg where
  /-- A CXL.mem read returned these bytes (R369). -/
  | memData (bytes : List Byte)
  /-- A refused CXL.mem read returned poison (R378). -/
  | poison
  /-- A register read returned (R319). -/
  | regData (v : W64)
  /-- An MSI-X message left (R316). -/
  | msix (fn vec : Nat)
  /-- The algorithms of a function's SPDM, and the response's signature under the alias key (R384). -/
  | algorithms (fn : Nat) (names : List String) (signature : List Byte)
  /-- The certificate chain of a slot, and the response's signature under the alias key (R384). -/
  | certificate (fn slot : Nat) (chain signature : List Byte)
  /-- A secured session is open, or closed, and the response's signature under the alias key. -/
  | session (fn : Nat) (isOpen : Bool) (signature : List Byte)
  /-- A measurement, and the response's signature under the alias key (R384, R385). -/
  | measure (fn idx : Nat) (digest signature : List Byte)
  /-- A peer's request was answered, or refused (R379). -/
  | peerData (bytes : List Byte)
  | peerAck
  | peerRefused
  /-- A function-level reset reported complete (R386). -/
  | resetDone (fn : Nat)
  /-- ActivateFirmware was answered, or the record refused (R392). -/
  | rollback (accepted : Bool)
  /-- A firmware image update began or ended (R394). -/
  | update
  deriving DecidableEq, Repr

/-- A follower that saw no change of HBW for 40 ms and waits its rank (R314), with the HBW and LEADW that it saw. -/
structure Waiting where
  die   : Nat
  hbw   : W64
  leadw : W64
  deriving DecidableEq, Repr

/-- A frame table entry (Table 15.5). -/
structure Frame where
  v    : Bool
  lin  : Bool
  hb   : Bool
  pend : Bool
  oid  : BitVec 12
  deriving DecidableEq, Repr

/-- One move of the machine: a step without an instruction word, or the issue of an entry's next instruction. -/
inductive Move where
  | ev (i : Instr)
  | issue (e : ERef)
  deriving DecidableEq, Repr

/-- A Jorac cache line (R403). -/
structure Cached where
  container : List Byte
  step : W16
  code : List Byte
  deriving DecidableEq, Repr

/-! ## The whole machine -/

/-- A RV64GC core of a service pair (R312): x1 to x31, f0 to f31, the program counter, the control and status registers by number,
the privilege mode with the virtualisation bit of the H extension, and the address that LR reserves. -/
structure Hart where
  x    : Sparse W64
  f    : Sparse W64
  pc   : W64
  csr  : Sparse W64
  mode : BitVec 2
  virt : Bool
  reserv : Option W64
  deriving DecidableEq, Repr

/-- A die's service pair: two cores in lock-step, and 2 MiB of private SRAM over zero (R312). -/
structure ServicePair where
  lead  : Hart
  check : Hart
  /-- A lock-step mismatch has stopped it. -/
  halted : Bool
  sram  : Sparse Byte
  deriving DecidableEq, Repr

/-- A core at its reset; the manual gives none of these values, log entry 1. -/
def Hart.reset : Hart := { x := [], f := [], pc := 0, csr := [], mode := 3, virt := false, reserv := none }
def ServicePair.reset : ServicePair := { lead := Hart.reset, check := Hart.reset, halted := false, sram := [] }

/-- The state of one N9. -/
structure State where
  /-- Coherent contents of memory, by storage key: device memory stack x 2^35 + offset (R308), peer memory from 2^40, host
  memory from 2^51 (Table 15.1). -/
  mem    : List Host.Cell
  /-- What DRAM still holds where a cached line is dirty. -/
  stale  : List (Nat × Byte)
  /-- The directory (R229). -/
  dir    : List DirEnt
  /-- Release records (R231). -/
  rels   : List RelRecord
  /-- The frame table over its reset value (R320). -/
  frames : Sparse Frame
  /-- The device control block, 8 B registers by offset ÷ 8 (R313), over their reset values. -/
  dcb    : Sparse W64
  /-- The slice assignments in effect (R227): what L2SLG0 to L2SLG63 held at the last mode switch, or at reset. -/
  slices : List Nat
  /-- Whole clk count of each die (R272), and its clock step (R311): 0 for 1.2 GHz to 3 for 0.6 GHz. -/
  clk    : List W64
  pwr    : List (BitVec 2)
  blocks : List Block
  requests : List Request
  copies : List Copy
  /-- The round-robin state of the copy engines (R224): by grove, 12 x die + grove, the place of the wave served last, from 1. -/
  robin  : Sparse Nat
  path   : List Pending
  tlb    : List TlbEnt
  phases : List Phase
  launches : List Launch
  gangs  : List Gang
  blazes : List Blaze
  /-- Overflowed sets: die x 4096 + set (R253). -/
  overflowed : List Nat
  listed : List Listed
  pubs   : List Publication
  runReqs : List RunReq
  runs   : List Run
  /-- USED and pass values by die x 4096 + OID (R251, R247); owners over quota already pre-empted in the period (R252). -/
  used   : Sparse Nat
  pass   : Sparse Nat
  overrun : List Nat
  /-- Owners with a dispatchable phase, by die x 4096 + OID (R247). -/
  eligible : List Nat
  /-- The ageing periods of each die counted so far (R247), and the clk at which its quota period began (R251). -/
  aged   : List Nat
  quotaAt : List Nat
  /-- Trap frames and save slots in use: OID and index (R277, R299). -/
  trapFrames : List (Nat × Nat)
  saveSlots : List (Nat × Nat)
  svcs   : List SvcReq
  /-- Blocks that the last PRECMD selected and that are still to be saved (R296). -/
  preempting : List Nat
  pfs    : List PageFault
  /-- Fault records that wait for the control words of their areas, oldest first (R273, R363). -/
  records : List Raised
  /-- The stores that a TLBI waits for (R292). -/
  tlbiWait : List Pending
  /-- Queues whose TAIL line was invalidated and not read again (R244). -/
  arrived : List Nat
  /-- MSI-X messages pending: fn x 4 + vector (R316). -/
  msix   : List Nat
  /-- The functions in D3hot (R315); the others are in D0. -/
  d3hot  : List Nat
  host   : List HostMsg
  /-- Canopy. -/
  mapCmds : List MapCmd
  captures : List Nat
  latches : List Latch
  scans  : List Scan
  /-- The layer table of each display as its frame in progress found it, by owner (R356). -/
  layers : List (Nat × Sparse Nat)
  /-- Service pairs (R312, R314), and where boot stands. -/
  pairs  : List ServicePair
  takeover : List Waiting
  /-- The die whose CAS has succeeded, while its takeover is in progress. -/
  takingOver : Option Nat
  elected : Bool
  jorac  : List Cached
  /-- Flash: running bank, failed-boot counts, bank marked to boot next, stored operator counter, operator key number,
  update in progress (R390 to R394). -/
  bank   : Bool
  /-- MODEL. Numbers of the images that banks A and B hold, and of the image that the last boot started. -/
  images : Nat × Nat
  booted : Nat
  counts : Nat × Nat
  nextBank : Bool
  opCtr  : W32
  opKey  : Nat
  updating : Option Bool
  memlayDone : Bool
  /-- Shener link ports stopped by a MAC failure; the keys of ports, outgoing and incoming (R382). -/
  stopped : List Nat
  keys   : List (Nat × BitVec 256 × BitVec 256)
  /-- The device's number in its peer group (R379). -/
  peerNo : BitVec 3
  /-- Functions with an open SPDM session (R384), and the key slots of the IDE streams (R381). -/
  sessions : List Nat
  ide    : List (IdeSlot × BitVec 256)
  /-- Bias flips in progress: frame, whether to the host (R325), and the number given out when it began. -/
  flips  : List (Nat × Bool × Nat)
  /-- MODEL. Moves to come, first first. -/
  agenda : List Move
  /-- MODEL. The entry that issues. -/
  cur    : Option ERef
  /-- MODEL. Clk that each die counts in one step. -/
  pace   : List Nat
  /-- MODEL. Numbers given out so far; and the counter the free values are applied to. -/
  uids   : Nat
  free   : Nat
  deriving DecidableEq, Repr

/-! ## Reset -/

/-- The default of a frame table entry (R320): frames of the system region belong to OID 0. -/
def Frame.default (p : Nat) : Frame :=
  { v := 0x1FF000 ≤ p && p < 0x200000, lin := false, hb := false, pend := false, oid := 0 }

/-- The machine right after reset. Every register holds the reset value of its table (the registers' own defaults stand
with `dcb`); no block is resident and nothing is pending. -/
def State.reset : State :=
  { mem := [], stale := [], dir := [], rels := [], frames := [], dcb := [], slices := List.replicate 64 0,
    clk := [0, 0, 0, 0], pwr := [0, 0, 0, 0],
    blocks := [], requests := [], copies := [], robin := [], path := [], tlb := [],
    phases := [], launches := [], gangs := [], blazes := [], overflowed := [], listed := [], pubs := [],
    runReqs := [], runs := [], used := [], pass := [], overrun := [],
    eligible := [], aged := [0, 0, 0, 0], quotaAt := [0, 0, 0, 0],
    trapFrames := [], saveSlots := [], svcs := [], preempting := [], pfs := [], records := [], tlbiWait := [], arrived := [],
    msix := [], d3hot := [], host := [], mapCmds := [], captures := [], latches := [], scans := [], layers := [],
    pairs := List.replicate 4 ServicePair.reset, takeover := [], takingOver := none, elected := false, jorac := [],
    bank := false, images := (0, 1), booted := 0, counts := (0, 0), nextBank := false, opCtr := 0, opKey := 0, updating := none, memlayDone := false,
    stopped := [], keys := [], peerNo := 0, sessions := [], ide := [], flips := [],
    agenda := [], cur := none, pace := [1, 1, 1, 1], uids := 0, free := 0 }

end Sys2Proof.Machine
end

