-- ==== Sys2Proof/Machine/Access.lean ====
section
/-!
DEFINITION. Finding and replacing the parts of the state, the device control block's registers with their reset values
(Table 15.3), and the registers of a wave.
-/
namespace Sys2Proof.Machine

/-! ## Parts of the state -/

def State.block? (s : State) (uid : Nat) : Option Block := s.blocks.find? fun b => b.uid == uid
def State.mapBlock (s : State) (uid : Nat) (g : Block → Block) : State :=
  { s with blocks := updWhere (fun b => b.uid == uid) g s.blocks }
def Block.wave? (b : Block) (w : Nat) : Option Wave := b.waves.find? fun x => x.wave == w
def Block.mapWave (b : Block) (w : Nat) (g : Wave → Wave) : Block :=
  { b with waves := updWhere (fun x => x.wave == w) g b.waves }
def State.mapWave (s : State) (uid w : Nat) (g : Wave → Wave) : State := s.mapBlock uid fun b => b.mapWave w g
def State.wave? (s : State) (r : WRef) : Option (Block × Wave) :=
  match s.block? r.blk with
  | none => none
  | some b => (b.wave? r.wave).map fun w => (b, w)
def Entry.has (e : Entry) (lane : Nat) : Bool := e.mask.getLsbD lane
def Wave.entry? (w : Wave) (lane : Nat) : Option Entry := w.frontier.find? fun e => e.has lane
def Wave.mapEntry (w : Wave) (lane : Nat) (g : Entry → Entry) : Wave :=
  { w with frontier := updWhere (fun e => e.has lane) g w.frontier }
def State.launch? (s : State) (uid : Nat) : Option Launch := s.launches.find? fun l => l.uid == uid
def State.mapLaunch (s : State) (uid : Nat) (g : Launch → Launch) : State :=
  { s with launches := updWhere (fun l => l.uid == uid) g s.launches }
def State.phase? (s : State) (uid : Nat) : Option Phase := s.phases.find? fun p => p.uid == uid
def State.mapPhase (s : State) (uid : Nat) (g : Phase → Phase) : State :=
  { s with phases := updWhere (fun p => p.uid == uid) g s.phases }
def State.gang? (s : State) (uid : Nat) : Option Gang := s.gangs.find? fun g => g.uid == uid

/-- A fresh number. -/
def State.fresh (s : State) : Nat × State := (s.uids, { s with uids := s.uids + 1 })

/-- A die's clk count. -/
def State.clkOf (s : State) (die : Nat) : Nat := ((s.clk[die]?).getD 0).toNat

/-- The live lanes of a wave (R9). -/
def Wave.live (w : Wave) : W32 := w.frontier.foldl (fun a e => a ||| e.mask) 0

/-- MODE.ILK (R22). -/
def Wave.ilk (w : Wave) : Bool := w.mode.getLsbD 16

/-- Whether a list of keys comes before another, or is equal to it. -/
def keysLe : List Nat → List Nat → Bool
  | a :: s, b :: t => decide (a < b) || (a == b && keysLe s t)
  | _, _ => true

/-! ## Device control block -/

/-- Reset values of the device control block, by offset ÷ 8. -/
def dcbDefault (k : Nat) : W64 :=
  if k = 0 then BitVec.ofNat 64 (Config.stepping.toNat * 2 ^ 48)                       -- DEVST (Table 15.4)
  else if 0x10000 ≤ k ∧ k < 0x14000 then BitVec.ofNat 64 0xFFFFFFFF                     -- BUDGET (R250)
  else if 0x15000 ≤ k ∧ k < 0x15004 then BitVec.ofNat 64 1200000                        -- QPER (R250)
  else if 0x18000 ≤ k ∧ k < 0x18800 ∧ (k % 0x200 = 12 ∨ k % 0x200 = 13) then 0xFFFFFFFFFFFFFFFF#64  -- CAPGNT (R348)
  else if 0x22000 ≤ k ∧ k < 0x22000 + 0x800 * 10 then
    let r := (k - 0x22000) % 0x800
    if 0x30 * 8 ≤ r ∧ r < 0x34 * 8 then
      (if r % 8 = 0 then 0xFFFFFFF000000000#64 else if r % 8 = 1 then 0x7FF#64 else 0)  -- R376
    else 0
  else 0

/-- The register at an offset. -/
def State.reg (s : State) (off : Nat) : W64 := spGet (dcbDefault (off / 8)) s.dcb (off / 8)
/-- Writes the register at an offset. -/
def State.setReg (s : State) (off : Nat) (v : W64) : State := { s with dcb := spSet (dcbDefault (off / 8)) (off / 8) v s.dcb }
/-- A field of the register at an offset. -/
def State.regBits (s : State) (off lo n : Nat) : Nat := bitsOf (s.reg off).toNat lo n
/-- Replaces `n` bits from `lo`. -/
def putBits (x : W64) (lo n v : Nat) : W64 :=
  BitVec.ofNat 64 (x.toNat - bitsOf x.toNat lo n * 2 ^ lo + v % 2 ^ n * 2 ^ lo)
def State.setRegBits (s : State) (off lo n v : Nat) : State := s.setReg off (putBits (s.reg off) lo n v)

/-- Word `i` of owner context `oid` (Table 13.1). -/
def State.ctx (s : State) (oid i : Nat) : Nat := (s.reg (0x40000 + 64 * oid + 8 * i)).toNat
def State.ctxGlade (s : State) (oid : Nat) : Nat := bitsOf (s.ctx oid 0) 12 4
def State.ctxValid (s : State) (oid : Nat) : Bool := bitsOf (s.ctx oid 0) 46 1 == 1
def State.ctxDbg (s : State) (oid : Nat) : Bool := bitsOf (s.ctx oid 0) 47 1 == 1
def State.ctxFalog (s : State) (oid : Nat) : Nat := bitsOf (s.ctx oid 0) 48 4
def State.ctxTslog (s : State) (oid : Nat) : Nat := bitsOf (s.ctx oid 0) 52 4
def State.ctxSrlog (s : State) (oid : Nat) : Nat := bitsOf (s.ctx oid 0) 56 4
def State.ctxSvlog (s : State) (oid : Nat) : Nat := bitsOf (s.ctx oid 0) 60 4
def State.ptroot (s : State) (oid : Nat) : Nat := s.ctx oid 1
def State.farea (s : State) (oid : Nat) : Nat := s.ctx oid 2
def State.thvec (s : State) (oid : Nat) : Nat := s.ctx oid 3
def State.tstack (s : State) (oid : Nat) : Nat := s.ctx oid 4
def State.sring (s : State) (oid : Nat) : Nat := s.ctx oid 5
def State.sarg (s : State) (oid : Nat) : Nat := s.ctx oid 6
def State.svbase (s : State) (oid : Nat) : Nat := s.ctx oid 7

/-- Bits of glade descriptor `g` (Table 20.1). -/
def State.gldBits (s : State) (g lo n : Nat) : Nat :=
  bitsOf (natLE ((List.range 8).flatMap fun i => bytesLE 8 (s.reg (0x100000 + 64 * g + 8 * i)).toNat)) lo n
def State.gladeState (s : State) (g : Nat) : Nat := s.regBits (0x100000 + 64 * g) 8 4
/-- The step of its function-level reset that a glade is in (R386); 0 when none. -/
def State.rstep (s : State) (g : Nat) : Nat := s.regBits (0x100000 + 64 * g) 12 4
def State.gladeProtected (s : State) (g : Nat) : Bool := s.regBits (0x100000 + 64 * g) 1 1 == 1
/-- MEMLAY's bit of a stack (R372). -/
def State.partitioned (s : State) (stack : Nat) : Bool := s.regBits 0x100400 stack 1 == 1
/-- DEVST.FATAL (Table 15.4). -/
def State.fatal (s : State) : Bool := s.regBits 0 11 1 == 1

/-! ## Registers of a wave -/

def Wave.getV (w : Wave) (n lane : Nat) : W32 := spGet 0 w.v (32 * n + lane)
def Wave.setV (w : Wave) (n lane : Nat) (x : W32) : Wave := { w with v := spSet 0 (32 * n + lane) x w.v }
def Wave.getS (w : Wave) (n : Nat) : W32 := spGet 0 w.s n
def Wave.setS (w : Wave) (n : Nat) (x : W32) : Wave := { w with s := spSet 0 n x w.s }
/-- Predicate n; p15 reads 1 in every lane (Table 1.3). -/
def Wave.getP (w : Wave) (n : Nat) : W32 := if n = 15 then 0xFFFFFFFF#32 else spGet 0 w.p n
/-- Writes the lanes of `mask`; writes to p15 are discarded (Table 1.3). -/
def Wave.setP (w : Wave) (n : Nat) (mask bits : W32) : Wave :=
  if n = 15 then w else { w with p := spSet 0 n ((w.getP n &&& ~~~mask) ||| (bits &&& mask)) w.p }
def Wave.getM (w : Wave) (n : Nat) : W32 := spGet 0 w.m n
def Wave.setM (w : Wave) (n : Nat) (x : W32) : Wave := { w with m := spSet 0 n x w.m }

/-- A register's contents, lane by lane (a scalar in lane 0). -/
def Wave.regVals (w : Wave) : Reg → List W32
  | .v n => lanes32.map fun l => w.getV n l
  | .s n => [w.getS n]
  | .p n => [w.getP n]
  | .q _ => []

/-- Writes the lanes of `mask` one after another from `vals`, lane 0 first. -/
def Wave.putV (w : Wave) (n : Nat) (mask : W32) (vals : List W32) : Wave :=
  (lanes32.zip vals).foldl (fun a p => if mask.getLsbD p.1 then a.setV n p.1 p.2 else a) w

/-- Result-queue entry `tag`, filled with values. -/
def Wave.fillQ (w : Wave) (tag : Nat) (vals : List W32) : Wave :=
  { w with q := updWhere (fun e => e.tag == tag) (fun e => { e with filled := true, vals := vals }) w.q }

/-- Performs a register write. -/
def Wave.put (w : Wave) (r : RegWrite) : Wave :=
  match r.reg with
  | .v n => w.putV n r.mask r.vals
  | .s n => if r.mask = 0 then w else w.setS n (r.vals.headD 0)
  | .p n => w.setP n r.mask (r.vals.headD 0)
  | .q tag => w.fillQ tag r.vals

/-- Pushes a result-queue entry (R17), filled at `ready`; the 17th discards the oldest. -/
def Wave.pushQ (w : Wave) (valid : W32) (filled : Bool) (ready : Nat) (vals : List W32) : Wave :=
  { w with q := ({ tag := w.pushes, valid := valid, filled := filled, ready := ready, vals := vals } :: w.q).take 16,
           pushes := w.pushes + 1 }

/-- Every result-queue valid bit cleared (R17). -/
def Wave.clearQ (w : Wave) : Wave := { w with q := w.q.map fun e => { e with valid := 0 } }

/-- The header that an entry has open names flag `k`. -/
def Entry.names (e : Entry) (k : Nat) : Bool :=
  e.opn && match e.clause with
    | [] => false
    | h :: _ => hdrFlagA h == some k || hdrFlagB h == some k

/-- R30 step 4: a flag stays set only while an open clause names it or something counted on it is outstanding. -/
def Wave.flags (w : Wave) : BitVec 12 :=
  BitVec.ofNat 12 ((List.range 12).foldl (fun a k =>
    if w.f.getLsbD k && (w.frontier.any (fun e => e.names k) || w.ops.any (fun o => o.flag == some k)) then a + 2 ^ k else a) 0)

/-- A waited-on flag of a header is set. -/
def flagWait (f : BitVec 12) (h : W128) : Bool := (BitVec.ofNat 12 (hdrWait h) &&& f) != 0

/-- Settles the flags of a wave; an entry that waited on them becomes runnable when all of them are 0 (R30 steps 1 and 4). -/
def Wave.settle (w : Wave) : Wave :=
  let f := w.flags
  let wake (e : Entry) : Entry :=
    if e.park = 14 then (match e.clause with
      | [] => e
      | h :: _ => if flagWait f h then e else { e with park := 0 }) else e
  { w with f := f, frontier := w.frontier.map wake }

/-- ORs sticky bits into MODE (R23); the five bits are NV, DZ, OF, UF, NX from MODE bit 8. -/
def Wave.sticky (w : Wave) (fl : Nat) : Wave := { w with mode := w.mode ||| BitVec.ofNat 32 (fl % 32 * 256) }

/-- MODE at a clk, with what fixed-latency instructions have raised by completing (R23). -/
def Wave.modeAt (w : Wave) (clk : Nat) : W32 :=
  w.late.foldl (fun a x => if x.1 ≤ clk then a ||| BitVec.ofNat 32 (x.2.toNat * 256) else a) w.mode

/-- MODE once everything that has issued is complete. -/
def Wave.modeDone (w : Wave) : W32 := w.late.foldl (fun a x => a ||| BitVec.ofNat 32 (x.2.toNat * 256)) w.mode

/-- Replaces MODE; what earlier instructions have still to raise is kept (R23). -/
def Wave.setMode (w : Wave) (clk : Nat) (m : W32) : Wave := { w with mode := m, late := w.late.filter fun x => decide (clk < x.1) }

/-- A fixed-latency instruction that can raise sticky bits completes, `lat` clk after it issues, and raises them (R23, R64). -/
def Wave.raise (w : Wave) (can : Bool) (clk lat fl : Nat) : Wave :=
  if !can && fl % 32 == 0 then w
  else
    let w1 := w.setMode clk (w.modeAt clk)
    { w1 with late := w1.late ++ [(clk + lat, BitVec.ofNat 5 fl)] }

end Sys2Proof.Machine
end

