-- ==== Sys2Proof/Machine/Formats.lean ====
section
/-!
DEFINITION. The layouts that engine commands capture: matrix formats (Table 8.1), the weight header (Table 8.2), the parameter
block (Table 8.4), and the copy record (Table 10.2).
-/
namespace Sys2Proof.Machine

/-! ## Matrix formats (Table 8.1) -/

/-- Bits of an element of a format code. -/
def mfBits : Nat → Nat
  | 0 => 32
  | 1 | 2 => 16
  | 3 | 4 | 5 | 6 | 9 | 10 => 8
  | 7 | 8 => 6
  | 11 | 12 => 4
  | 13 | 14 => 2
  | _ => 1

/-- Density d: the weight elements of a cell. -/
def mfDensity : Nat → Nat
  | 0 | 1 | 2 => 1
  | 3 | 4 | 5 | 6 | 7 | 8 | 9 | 10 => 2
  | 11 | 12 => 4
  | 13 | 14 => 8
  | _ => 16

def mfInteger (c : Nat) : Bool := 9 ≤ c
/-- The p formats, and how many planes they have. -/
def mfPlanes (c : Nat) : Bool := 11 ≤ c
def mfTapered (c : Nat) : Bool := 5 ≤ c && c ≤ 8

/-- Bytes of a row of `n` elements (R184). -/
def rowBytes (c n : Nat) : Nat := if mfPlanes c then (n + 63) / 64 * (8 * mfBits c) else (n * mfBits c + 7) / 8

def up16 (n : Nat) : Nat := (n + 15) / 16 * 16

/-! ## The weight header (Table 8.2), as a number -/

def wFmt (h : Nat) : Nat := bitsOf h 0 4
def wSparse (h : Nat) : Bool := bitAt h 4 == 1
def wScl (h : Nat) : Bool := bitAt h 5 == 1
def wTpl (h : Nat) : Nat := bitsOf h 8 4
def wData (h : Nat) : Nat := bitsOf h 32 32
def wMeta (h : Nat) : Nat := bitsOf h 96 32
def wSclo (h : Nat) : Nat := bitsOf h 128 32
def wRowBytes (h : Nat) : Nat := rowBytes (wFmt h) (32 * mfDensity (wFmt h))
def wStride (h : Nat) : Nat := if bitsOf h 64 32 = 0 then up16 (wRowBytes h) else bitsOf h 64 32

/-- The stash ranges that a header names for `nrw` rows: weight rows, indices and scales. -/
def wSources (h nrw : Nat) : List (Nat × Nat) :=
  ((List.range nrw).map fun r => (wData h + r * wStride h, wRowBytes h)) ++
  (if wSparse h then [(wMeta h, 8 * nrw)] else []) ++
  (if wScl h then [(wSclo h, 32)] else [])

/-! ## The parameter block (Table 8.4), as a number -/

def rM (p : Nat) : Nat := bitsOf p 0 9 + 1
def rAsrc (p : Nat) : Nat := bitsOf p 10 2
def rAfmt (p : Nat) : Nat := bitsOf p 12 4
def rAtpl (p : Nat) : Nat := bitsOf p 16 4
def rAop (p : Nat) : Nat := bitsOf p 20 2
def rAscl (p : Nat) : Nat := bitsOf p 24 8
def rAoff (p : Nat) : Nat := bitsOf p 32 32
def rAstr (p : Nat) : Nat := bitsOf p 64 32
def rAacc (p : Nat) : Nat := bitsOf p 96 9
def rDacc (p : Nat) : Nat := bitsOf p 105 9
def rDacm (p : Nat) : Bool := bitAt p 114 == 1
def rOsel (p : Nat) : Nat := bitsOf p 115 2
def rOfmt (p : Nat) : Nat := bitsOf p 117 3
def rOop (p : Nat) : Nat := bitsOf p 120 2
def rCwen (p : Nat) : Bool := bitAt p 122 == 1
def rOoff (p : Nat) : Nat := bitsOf p 128 32
def rOstr (p : Nat) : Nat := bitsOf p 160 32
def rCwoff (p : Nat) : Nat := bitsOf p 192 32
def rCwval (p : Nat) : Nat := bitsOf p 224 32
def rClo (p : Nat) : Nat := bitsOf p 256 32
def rChi (p : Nat) : Nat := bitsOf p 288 32

/-- Bytes of an output row (R198). -/
def rOutBytes (p : Nat) : Nat :=
  match rOfmt p with
  | 0 => 128
  | 1 | 2 => 64
  | _ => 32

def rOutStride (p : Nat) : Nat := if rOstr p = 0 then up16 (rOutBytes p) else rOstr p

/-- K for a tenant of `nrw` rows and the active plane's SPARSE (R198). -/
def rK (p nrw : Nat) (sparse : Bool) : Nat := nrw * mfDensity (rAfmt p) * (if sparse then 2 else 1)

def rActBytes (p k : Nat) : Nat := rowBytes (rAfmt p) k
def rActStride (p k : Nat) : Nat := if rAstr p = 0 then up16 (rActBytes p k) else rAstr p

/-- The stash ranges of activation rows from `row` on. -/
def rSources (p k row : Nat) : List (Nat × Nat) :=
  if rAsrc p = 0 then (List.range (rM p - row)).map fun i => (rAoff p + (row + i) * rActStride p k, rActBytes p k) else []

/-- The stash ranges of outputs from `row` on, and of the completion word. -/
def rOutputs (p row : Nat) : List (Nat × Nat) :=
  (if rOsel p = 2 then (List.range (rM p - row)).map fun i => (rOoff p + (row + i) * rOutStride p, rOutBytes p) else []) ++
  (if rCwen p then [(rCwoff p, 4)] else [])

/-! ## The copy record (Table 10.2), as a number -/

def cSrc (r : Nat) : Nat := bitsOf r 0 64
def cDst (r : Nat) : Nat := bitsOf r 64 64
def cCwaddr (r : Nat) : Nat := bitsOf r 128 64
def cWidth (r : Nat) : Nat := bitsOf r 192 32
def cSstr (r : Nat) : Nat := bitsOf r 224 32
def cDstr (r : Nat) : Nat := bitsOf r 256 32
def cRows (r : Nat) : Nat := bitsOf r 288 16 + 1
def cTag (r : Nat) : Nat := bitsOf r 304 16
def cCwval (r : Nat) : Nat := bitsOf r 320 32
def cFill (r : Nat) : Nat := bitsOf r 352 32
def cOp (r : Nat) : Nat := bitsOf r 384 4
def cSsp (r : Nat) : Bool := bitAt r 388 == 1
def cDsp (r : Nat) : Bool := bitAt r 389 == 1
def cCwsp (r : Nat) : Bool := bitAt r 390 == 1
def cCwen (r : Nat) : Bool := bitAt r 391 == 1
def cSten (r : Nat) : Bool := bitAt r 392 == 1
def cScope (r : Nat) : Nat := bitsOf r 393 3

/-- Source ranges of a copy from row `row` on; none for a fill or without payload (R223). -/
def cSources (r row : Nat) : List (Nat × Nat) :=
  if cOp r = 0 ∧ cWidth r ≠ 0 then (List.range (cRows r - row)).map fun i => (cSrc r + (row + i) * cSstr r, cWidth r) else []

/-- Destination ranges still to write, from byte `byte` of row `row` on. -/
def cDests (r row byte : Nat) : List (Nat × Nat) :=
  if cWidth r = 0 then []
  else (List.range (cRows r - row)).map fun i =>
    if i = 0 then (cDst r + row * cDstr r + byte, cWidth r - byte) else (cDst r + (row + i) * cDstr r, cWidth r)

/-! ## The launch record (Table 11.1), as a number -/

def lEntry (r : Nat) : Nat := bitsOf r 0 64
def lParam (r : Nat) : Nat := bitsOf r 64 64
def lPrec (r : Nat) : Nat := bitsOf r 128 64
def lNb (r : Nat) : Nat := bitsOf r 192 32
def lGp (r : Nat) : Nat := bitsOf r 224 4 + 1
def lGf (r : Nat) : Nat := bitsOf r 228 4 + 1
def lPcls (r : Nat) : Nat := bitsOf r 232 3
def lIlk (r : Nat) : Bool := bitAt r 235 == 1
/-- The top level (R237). -/
def lTop (r : Nat) : Nat := bitsOf r 236 3
def lStep (r : Nat) : Nat := bitsOf r 240 16
def lDom (r i : Nat) : Nat := bitsOf r (256 + 3 * (i - 2)) 3
def lTfirst (r : Nat) : Nat := bitsOf r 274 4
def lCount (r i : Nat) : Nat := bitsOf r (320 + 32 * (i - 3)) 32
def lNw (r : Nat) : Nat := bitsOf r 512 5 + 1
def lRb (r : Nat) : Nat := bitsOf r 517 7
def lRm (r : Nat) : Nat := bitsOf r 524 7
def lSm (r : Nat) : Nat := bitsOf r 531 4
def lMm (r : Nat) : Nat := bitsOf r 535 3
def lCb (r : Nat) : Nat := bitsOf r 538 4
def lRole (r w : Nat) : Nat := bitsOf r (576 + 2 * w) 2
/-- The output template, and input template `t` (Table 11.2). -/
def lOutt (r : Nat) : Nat := bitsOf r 640 128
def lItpl (r t : Nat) : Nat := bitsOf r (768 + 128 * t) 128
/-- Whether the launch has a .gng level (R237). -/
def lGang (r : Nat) : Bool := 3 ≤ lTop r && lDom r 3 == 3

/-! Templates (Table 11.2). -/

def tV (t : Nat) : Bool := bitAt t 127 == 1
def tCnt (t : Nat) : Nat := bitsOf t 104 12
def tKeys (t : Nat) : Nat := bitsOf t 86 2 + 1

/-- Key `j` of a template for a block whose LVL registers are `lvl` (R239). -/
def tKey (t : Nat) (lvl : Nat → Nat) (j : Nat) : Nat :=
  let base := bitsOf t 0 48
  let la := bitsOf t 48 3
  let lb := bitsOf t 67 3
  let term (s l : Nat) : Int := if l = 0 then 0 else toSigned 16 s * (lvl l : Int)
  let tile := wrapTo 20 ((base : Int) + term (bitsOf t 51 16) la + term (bitsOf t 70 16) lb + (j : Int) * toSigned 16 (bitsOf t 88 16))
  base / 2 ^ 20 * 2 ^ 20 + tile

end Sys2Proof.Machine
end

