-- ==== Sys2Proof/Machine/Memory.lean ====
section
/-!
DEFINITION. Memory: the physical map (R307, R308), the page walk (R286 to R288), the TLBs (R290), the frame check (R321), the
access firewall (R374 to R379), the directory (R229), windows and the stash (R152 to R156), and the store path (R230).
-/
namespace Sys2Proof.Machine

/-! ## Places -/

/-- Where a physical address lies (Table 15.1). -/
inductive Target where
  | dev (stack off : Nat)
  | dcb (off : Nat)
  | peer (p off : Nat)
  | host (hpa : Nat)
  | hole
  deriving DecidableEq, Repr

/-- The target of a physical address under a view (R307, R308). -/
def targetOf (a : Nat) (lin : Bool) (msh : Nat) : Target :=
  if a < 2 ^ 37 then .dev (if lin then msh else (a / 2 ^ 35 % 4) ^^^ (a / 128 % 4)) (a % 2 ^ 35)
  else if 2 ^ 38 ≤ a ∧ a < 2 ^ 38 + 2 ^ 24 then .dcb (a - 2 ^ 38)
  else if 2 ^ 40 ≤ a ∧ a < 2 ^ 40 + 2 ^ 41 then .peer ((a - 2 ^ 40) / 2 ^ 38) (a % 2 ^ 38)
  else if 2 ^ 51 ≤ a ∧ a < 2 ^ 52 then .host (a - 2 ^ 51)
  else .hole

/-- The storage key of a target: what coherence goes by (R308). -/
def Target.key : Target → Nat
  | .dev st off => st * 2 ^ 35 + off
  | .dcb off => 2 ^ 50 + off
  | .peer p off => 2 ^ 40 + p * 2 ^ 38 + off
  | .host h => 2 ^ 51 + h
  | .hole => 2 ^ 60

/-- The frame of an access (R308). -/
def frameOf (a : Nat) (lin : Bool) (msh : Nat) : Nat :=
  if lin then msh * 2 ^ 19 + a / 2 ^ 16 % 2 ^ 19 else a / 2 ^ 16 % 2 ^ 21

/-- The storage key of byte `o` of frame `P`. -/
def frameKey (lin : Bool) (p o : Nat) : Nat :=
  if lin then (p / 2 ^ 19) * 2 ^ 35 + p % 2 ^ 19 * 2 ^ 16 + o
  else (targetOf (p * 2 ^ 16 + o) false 0).key

/-- The frame, in a view, that holds a key of device memory. -/
def keyFrame (lin : Bool) (key : Nat) : Nat :=
  let off := key % 2 ^ 35
  (if lin then key / 2 ^ 35 else (key / 2 ^ 35) ^^^ (off / 128 % 4)) * 2 ^ 19 + off / 2 ^ 16

/-- One coherent byte. -/
def State.byte (s : State) (key : Nat) : Byte := spGet 0 s.mem key

/-- The first physical address of the system region (Table 15.2). -/
def sysBase : Nat := 0x1FF0000000

/-- The 16 bits of a frame table entry (Table 15.5). -/
def Frame.bits (f : Frame) : Nat :=
  f.oid.toNat + f.pend.toNat * 2 ^ 12 + f.hb.toNat * 2 ^ 13 + f.lin.toNat * 2 ^ 14 + f.v.toNat * 2 ^ 15

/-- A byte of device memory at a physical address in the interleaved view, as the walker and the executive read it; the frame
table stands at the start of the system region, entry P at 2P (R310, R320). -/
def State.physByte (s : State) (a : Nat) : Byte :=
  if sysBase ≤ a ∧ a < sysBase + 2 ^ 22 then
    let p := (a - sysBase) / 2
    BitVec.ofNat 8 ((spGet (Frame.default p) s.frames p).bits / 256 ^ (a % 2))
  else s.byte (targetOf a false 0).key

def State.physBytes (s : State) (a n : Nat) : List Byte := (List.range n).map fun i => s.physByte (a + i)

/-! ## The page walk -/

/-- How a walk ends (R288). -/
inductive Walk where
  | page
  | bad
  | leaf (w : W64) (level : Nat)
  deriving DecidableEq, Repr

/-- log₂ of the page size of a leaf at a level (R286). -/
def levelShift (level : Nat) : Nat := 64 - 12 * level

/-- A page-table entry's address field in place (Table 13.8). -/
def pteAddr (e : Nat) : Nat := bitsOf e 15 37 * 2 ^ 15

/-- Walks from level `5 - n` (R288). -/
def walkFrom (s : State) (va : Nat) : Nat → Nat → Walk
  | 0, _ => .bad
  | n + 1, base =>
    let level := 4 - n
    let sh := levelShift level
    let at0 := base + 8 * (va / 2 ^ sh % 4096)
    let e := natLE (s.physBytes at0 8)
    if targetOf at0 false 0 = .hole then .bad                                   -- R307
    else if bitAt e 0 = 0 then .page
    else if bitsOf e 52 12 ≠ 0 ∨ bitsOf e 12 3 ≠ 0 then .bad
    else if bitAt e 4 = 1 then
      if level = 1 ∨ pteAddr e % 2 ^ sh ≠ 0 ∨ bitsOf e 7 2 = 3 then .bad
      else .leaf (BitVec.ofNat 64 e) level
    else if level = 4 then .bad
    else walkFrom s va n (pteAddr e)

def walk (s : State) (oid va : Nat) : Walk := walkFrom s va 4 (s.ptroot oid)

/-- The addresses of the entries that a walk from level `5 - n` reads. -/
def walkAddrs (s : State) (va : Nat) : Nat → Nat → List Nat
  | 0, _ => []
  | n + 1, base =>
    let at0 := base + 8 * (va / 2 ^ levelShift (4 - n) % 4096)
    let e := natLE (s.physBytes at0 8)
    if targetOf at0 false 0 = .hole then []
    else if bitAt e 0 = 0 ∨ bitAt e 4 = 1 then [at0]
    else at0 :: walkAddrs s va n (pteAddr e)

/-! Leaf fields (Table 13.8). -/
def leafR (w : W64) : Bool := w.getLsbD 1
def leafW (w : W64) : Bool := w.getLsbD 2
def leafX (w : W64) : Bool := w.getLsbD 3
def leafPin (w : W64) : Bool := w.getLsbD 5
def leafGG (w : W64) : Bool := w.getLsbD 6
def leafCA (w : W64) : Nat := bitsOf w.toNat 7 2
def leafMsh (w : W64) : Nat := bitsOf w.toNat 9 2
def leafLin (w : W64) : Bool := w.getLsbD 11

/-- The physical address that a leaf gives. -/
def leafPhys (w : W64) (level va : Nat) : Nat := pteAddr w.toNat + va % 2 ^ levelShift level

def State.frame (s : State) (p : Nat) : Frame := spGet (Frame.default p) s.frames p
def State.setFrame (s : State) (p : Nat) (f : Frame) : State := { s with frames := spSet (Frame.default p) p f s.frames }

/-- The flips in progress of the frame that holds a key (R325). -/
def State.flipsOf (s : State) (key : Nat) : List (Nat × Bool × Nat) :=
  s.flips.filter fun f => decide (key < 2 ^ 37) && keyFrame (s.frame f.1).lin key == f.1

/-- R321: whether the frame lets `oid` reach the address through the leaf. -/
def frameCheck (s : State) (oid : Nat) (w : W64) (phys : Nat) : Bool :=
  match targetOf phys (leafLin w) (leafMsh w) with
  | .dev _ _ =>
    let f := s.frame (frameOf phys (leafLin w) (leafMsh w))
    f.v && f.lin == leafLin w && (f.oid.toNat == oid || (f.oid != 0 && leafGG w))
  | _ => true

/-- Who makes an access: the core it comes from, its owner and glade. -/
structure Who where
  die   : Nat
  core  : Nat
  oid   : Nat
  glade : Nat
  deriving DecidableEq, Repr

/-- A translation: the leaf, its level, and R321's outcome held with it. -/
inductive Trans where
  | page
  | bad
  | leaf (w : W64) (level : Nat) (ok : Bool)
  deriving DecidableEq, Repr

/-- A translation that a TLB of the core's grove holds: the core's own, or with 16 the grove's (R290). -/
def tlbHit (s : State) (who : Who) (va core : Nat) : Option TlbEnt :=
  s.tlb.find? fun t => t.die == who.die && t.grove == who.core / 16 && t.core == core &&
    t.oid == who.oid && t.glade == who.glade && t.vpn == va / 2 ^ 16

/-- R290: the core's TLB, then the grove's, then the walk. -/
def translate (s : State) (who : Who) (va : Nat) : Trans :=
  match tlbHit s who va (who.core % 16) with
  | some t => .leaf t.leaf t.level t.frameOk
  | none => match tlbHit s who va 16 with
    | some t => .leaf t.leaf t.level t.frameOk
    | none => match walk s who.oid va with
      | .page => .page
      | .bad => .bad
      | .leaf w l => .leaf w l (frameCheck s who.oid w (leafPhys w l va))

/-- Enters a translation into one TLB, cut to `cap` entries, oldest out first. -/
def tlbEnter (l : List TlbEnt) (same : TlbEnt → Bool) (cap : Nat) (t : TlbEnt) : List TlbEnt :=
  let mine := (l.filter same).take (cap - 1)
  t :: mine ++ l.filter fun x => !same x

/-- The owner and glade of a frame, as a line or a TLB entry takes them for its tag (R387). -/
def frameTag (s : State) (p : Nat) : Nat × Nat := ((s.frame p).oid.toNat, s.ctxGlade (s.frame p).oid.toNat)

/-- The tag of a TLB entry that holds a leaf: of its frame, and for other memory the accessing owner (R387). -/
def leafTag (s : State) (oid : Nat) (w : W64) (level va : Nat) : Nat × Nat :=
  let phys := leafPhys w level va
  match targetOf phys (leafLin w) (leafMsh w) with
  | .dev _ _ => frameTag s (frameOf phys (leafLin w) (leafMsh w))
  | _ => (oid, s.ctxGlade oid)

/-- Fills the TLBs of the accessing core and of its grove (R290). -/
def fillTlb (s : State) (who : Who) (va : Nat) : State :=
  let g := who.core / 16
  if (tlbHit s who va (who.core % 16)).isSome then s
  else match translate s who va with
    | .leaf w l ok =>
      let t : TlbEnt := { die := who.die, grove := g, core := who.core % 16, oid := who.oid, glade := who.glade,
                          vpn := va / 2 ^ 16, leaf := w, level := l, frameOk := ok, 
                          tag := ((tlbHit s who va 16).map fun x => x.tag).getD (leafTag s who.oid w l va) }
      let a := tlbEnter s.tlb (fun x => x.die == t.die && x.grove == g && x.core == t.core) 64 t
      let inGrove (x : TlbEnt) : Bool := x.die == t.die && x.grove == g && x.core == 16 && x.vpn % 256 == t.vpn % 256
      { s with tlb := if (tlbHit s who va 16).isSome then a else tlbEnter a inGrove 8 { t with core := 16 } }
    | _ => s

/-! ## The access firewall -/

/-- Whether access table `t` allows IID `iid` the address (R376). -/
def tableAllows (s : State) (t iid a : Nat) (rd wr : Bool) : Bool :=
  (List.range 4).any fun w =>
    let off := 0x110000 + 0x4000 * t + 64 * iid + 16 * w
    let x := (s.reg off).toNat + 2 ^ 64 * (s.reg (off + 8)).toNat
    bitAt x 74 == 1 && decide (bitsOf x 0 36 ≤ a / 2 ^ 16) && decide (a / 2 ^ 16 ≤ bitsOf x 36 36) &&
      (!rd || bitAt x 72 == 1) && (!wr || bitAt x 73 == 1)

/-- Whether glade `g`'s range on a stack holds an offset (R371). -/
def inRange (s : State) (g stack off : Nat) : Bool :=
  let base := s.gldBits g (164 + 39 * stack) 19
  let cnt := s.gldBits g (183 + 39 * stack) 20
  decide (base ≤ off / 2 ^ 16) && decide (off / 2 ^ 16 < base + cnt)

/-- The channel of a stack offset (R372). -/
def channelOf (s : State) (stack off : Nat) : Nat := if s.partitioned stack then off / 2 ^ 31 % 16 else off / 2 ^ 8 % 16

/-- Whether an IID is a service pair's (Table 20.2). -/
def isService (iid : Nat) : Bool := 0x30 ≤ iid && iid < 0x34

/-- Glades that the manual calls on (R371). -/
def gladesOn (s : State) : List Nat := (List.range 16).filter fun g => s.gladeState g != 0

/-- The ports refuse the requests of a glade in reset and of its function (R386, step 1). -/
def portShut (s : State) (iid : Nat) : Bool :=
  (decide (iid < 16) && s.rstep iid != 0) || (decide (0x11 ≤ iid) && decide (iid ≤ 0x20) && s.rstep (iid - 0x11) != 0)

/-- A peer's glade that is on the roster of glade `g` (R371, R379). -/
def rostered (s : State) (g iid : Nat) : Bool := decide (0x80 ≤ iid) && s.gldBits g (384 + (iid - 0x80)) 1 == 1

/-- The firewall's verdict: the detail of Table 20.4, or none when the request is allowed. -/
def firewall (s : State) (iid : Nat) (t : Target) (rd wr : Bool) : Option Nat :=
  match t with
  | .dev st off =>
    if (gladesOn s).any (fun g => decide (2 ≤ s.rstep g) && inRange s g st off) then some 103
    else if !isService iid && (gladesOn s).any (fun g =>
        g != iid && !rostered s g iid && s.gldBits g (320 + 16 * st + channelOf s st off) 1 == 1) then some 101
    else if tableAllows s st iid off rd wr then none else some 96
  | .dcb off => if tableAllows s 4 iid off rd wr then none else some 97
  | .host h => if !portShut s iid && tableAllows s 5 iid h rd wr then none else some 98
  | .peer p off =>
    if s.stopped.contains (p % 4) then some 102
    else if iid < 16 ∧ s.gldBits iid (384 + 16 * p) 16 = 0 then some 99
    else if !portShut s iid && tableAllows s (6 + p % 4) iid off rd wr then none else some 100
  | .hole => some 0

/-! ## Access checks -/

/-- Why an access does not go through (R160). -/
inductive AccFault where
  | align
  | prot (detail : Nat)
  | page
  deriving DecidableEq, Repr

/-- What an access needs. -/
structure Need where
  rd    : Bool
  wr    : Bool
  fetch : Bool := false
  /-- The access may reach a grant-gated page: its grant has been checked (R352). -/
  gate  : Bool := false
  /-- Whether the page must be pinned (R293). -/
  pin   : Bool := false
  /-- An engine's write, which its target performs at once. -/
  engine : Bool := false
  deriving DecidableEq, Repr

/-- An access that may be performed: its target, the caching attribute, and the frame. -/
structure Place where
  tgt : Target
  ca  : Nat
  lin : Bool
  gg  : Bool
  frame : Nat
  deriving DecidableEq, Repr

/-- The hardware acts outside any core. -/
def hwCore : Nat := 0x1000

/-- Only the service pairs and the hardware reach the system region (R310). -/
def systemOnly (who : Who) (t : Target) (frame : Nat) : Bool :=
  match t with
  | .dev _ _ => who.core != hwCore && decide (0x1FF000 ≤ frame)
  | _ => false

/-- The IID that a glade's request carries at a peer (R379). -/
def peerIid (s : State) (glade : Nat) : Nat := 0x80 + 16 * s.peerNo.toNat + glade

/-- A peer refuses an access that its port performs at once (R378): all but a plain store of a thread that enters the store path, which is
refused there. -/
def peerRefused (s : State) (who : Who) (t : Target) (ca : Nat) (n : Need) : Bool :=
  match t with
  | .peer _ _ => (n.rd || n.fetch || (n.wr && (n.engine || ca != 0 || who.core == hwCore))) &&
      Config.peerRefuses (peerIid s who.glade) t.key (s.clkOf who.die)
  | _ => false

/-- Translation, permission, frame check, firewall and a peer's refusal of one access, in the order of R160. -/
def place (s : State) (who : Who) (va : Nat) (n : Need) : Except AccFault Place :=
  match translate s who va with
  | .page => .error .page
  | .bad => .error (.prot 0)
  | .leaf w level ok =>
    if (n.rd && !leafR w) || (n.wr && !leafW w) || (n.fetch && !leafX w) || (n.pin && !leafPin w) then .error (.prot 0)
    else if leafGG w && !n.gate then .error (.prot 0)
    else if !ok then .error (.prot 0)
    else
      let a := leafPhys w level va
      let t := targetOf a (leafLin w) (leafMsh w)
      if systemOnly who t (frameOf a (leafLin w) (leafMsh w)) then .error (.prot 0)
      else
      match firewall s who.glade t (n.rd || n.fetch) n.wr with
      | some d => .error (.prot d)
      | none =>
        if peerRefused s who t (leafCA w) n then .error (.prot 100)
        else .ok { tgt := t, ca := leafCA w, lin := leafLin w, gg := leafGG w, frame := frameOf a (leafLin w) (leafMsh w) }

/-- The worse of two faults met by lanes of one instruction (R160). -/
def AccFault.rank : AccFault → Nat
  | .align => 0
  | .prot _ => 1
  | .page => 2

/-! ## Windows -/

/-- A block as one of its waves sees its windows: those that the wave mapped itself, and those that a BAR has shown (R154). -/
def Block.seenBy (b : Block) (wave : Nat) : Block := { b with windows := b.windows.filter fun w => w.shown || w.owner == wave }

/-- The size Z of a block's stash (R152). -/
def Block.z (b : Block) : Nat := 32768 * b.ways

/-- The window that holds a global address. -/
def Block.winOfVa (b : Block) (va : Nat) : Option Window := b.windows.find? fun w => w.va ≤ va && va < w.va + w.len
/-- The window that holds a stash offset. -/
def Block.winOfOff (b : Block) (off : Nat) : Option Window := b.windows.find? fun w => w.off ≤ off && off < w.off + w.len

/-- The target of byte `x` of a window under the translation it holds (R154). -/
def Window.target (w : Window) (x : Nat) : Target :=
  let va := w.va + x
  match w.leaves.find? fun l => l.1 == va / 2 ^ 16 with
  | some (_, leaf, level) => targetOf (leafPhys leaf level va) (leafLin leaf) (leafMsh leaf)
  | none => .hole

/-- The stash ranges that a plane was loaded from (R189). -/
def planeSources (p : Plane) : List (Nat × Nat) := wSources (natLE p.replay) p.rows.length

/-- Stash bytes that a plane was loaded from have changed (R189): the planes whose rows may be read again. -/
def tearPlanes (b : Block) (off : Nat) : Block :=
  let hit (p : Plane) : Bool := p.loaded && (planeSources p).any fun r => r.1 ≤ off && off < r.1 + r.2
  match b.tenant with
  | none => b
  | some t =>
    { b with tenant := some { t with p0 := if hit t.p0 then { t.p0 with torn := true } else t.p0,
                                     p1 := if hit t.p1 then { t.p1 with torn := true } else t.p1 } }

/-- The stash offset whose window byte is stored at a key, if the block maps one. -/
def Block.offOfKey (b : Block) (key : Nat) : Option Nat :=
  b.windows.findSome? fun w =>
    ((List.range (w.len / 128)).find? fun i => (w.target (128 * i)).key / 128 == key / 128).map fun i =>
      w.off + 128 * i + key % 128

/-- A write of memory that changes a byte reaches planes that were loaded through a window (R189). -/
def tearKey (s : State) (key : Nat) (x : Byte) : State :=
  let hit (b : Block) : Block := match b.offOfKey key with
    | some off => tearPlanes b off
    | none => b
  if s.byte key ≠ x ∧ s.blocks.any fun b => b.tenant.isSome && !b.windows.isEmpty then { s with blocks := s.blocks.map hit } else s

/-! ## The directory -/

/-- Keys below 2^40 are device memory; peer memory is never cached (R309). -/
def cacheable (key : Nat) : Bool := decide (key < 2 ^ 40) || decide (2 ^ 51 ≤ key)

/-- A line's home slice (R226). The hash is the model's own; log entry 9. -/
def homeSlice (s : State) (glade key : Nat) : Nat :=
  let line := key / 128
  if s.regBits 0x10000 0 1 = 1 then
    let mine := (List.range 64).filter fun n => (s.slices[n]?).getD 0 == 16 + glade
    (mine[line % mine.length]?).getD (line % 64)
  else line % 64

/-- The bytes that DRAM keeps for a sector that becomes dirty. -/
def staleAdd (s : State) (sector : Nat) : State :=
  let add (l : List (Nat × Byte)) (i : Nat) : List (Nat × Byte) :=
    match spFind l (32 * sector + i) with
    | some _ => l
    | none => spIns (32 * sector + i) (s.byte (32 * sector + i)) l
  { s with stale := (List.range 32).foldl add s.stale }

/-- A dirty sector is written back: memory now holds what agents read. -/
def staleDrop (s : State) (sector : Nat) : State :=
  { s with stale := (List.range 32).foldl (fun l i => spDel (32 * sector + i) l) s.stale }

/-- A dirty sector is discarded: agents read again what memory holds (R387, R388). -/
def staleRestore (s : State) (sector : Nat) : State :=
  let back (m : List Host.Cell) (i : Nat) : List Host.Cell :=
    match spFind s.stale (32 * sector + i) with
    | some b => spSet 0 (32 * sector + i) b m
    | none => m
  staleDrop { s with mem := (List.range 32).foldl back s.mem } sector

/-- The dirty sectors of a line under a mask. -/
def dirtySectors (line : Nat) (m : BitVec 4) : List Nat := ([0, 1, 2, 3].filter fun i => m.getLsbD i).map fun i => 4 * line + i

/-- Writes back a directory entry's dirty sectors (R229). -/
def writeBackEnt (s : State) (d : DirEnt) : State := (dirtySectors d.line d.dirty).foldl staleDrop s
/-- Discards a directory entry's dirty sectors. -/
def discardEnt (s : State) (d : DirEnt) : State := (dirtySectors d.line d.dirty).foldl staleRestore s

def isEnt (line : Nat) (h : Holder) (d : DirEnt) : Bool := d.line == line && d.holder == h
def State.dirEnt? (s : State) (line : Nat) (h : Holder) : Option DirEnt := s.dir.find? (isEnt line h)

/-- The tag of a line that a holder takes: of its frame, and for a host line that of its other holders until an access gives its own
(R387). -/
def lineTag (s : State) (line : Nat) : Nat × Nat :=
  let key := 128 * line
  if 2 ^ 51 ≤ key then ((s.dir.find? fun d => d.line == line).map fun d => d.tag).getD (0, s.ctxGlade 0)
  else
    let lin := s.frame (keyFrame true key)
    frameTag s (keyFrame (lin.v && lin.lin) key)

/-- Read shared: an M or E copy elsewhere moves to O or S; the reader gets S, or E when no other holder has the line. -/
def readShared (s : State) (line : Nat) (h : Holder) : State :=
  match s.dirEnt? line h with
  | some _ => s
  | none =>
    let others := s.dir.any fun d => d.line == line
    let lower (d : DirEnt) : DirEnt :=
      if d.line == line then { d with st := if d.st = .modified ∨ d.st = .owned then .owned else .shared } else d
    { s with dir := { line := line, holder := h, st := if others then .shared else .exclusive, dirty := 0, valid := 15, tag := lineTag s line } :: s.dir.map lower }

/-- The device's copies of a line are recalled for a reader elsewhere: M goes to O and E to S (Table 10.7). -/
def recallForRead (s : State) (line : Nat) : State :=
  let lower (d : DirEnt) : DirEnt :=
    if d.line == line then { d with st := if d.st = .modified ∨ d.st = .owned then .owned else .shared } else d
  { s with dir := s.dir.map lower }

/-- A line is recalled: its holders write back their dirty sectors and move to S (Table 10.7). -/
def recallShared (s : State) (line : Nat) : State :=
  let s1 := (s.dir.filter fun d => d.line == line).foldl writeBackEnt s
  { s1 with dir := s1.dir.map fun d => if d.line == line then { d with st := .shared, dirty := 0 } else d }

/-- Clears every LR reservation on a line (R169). -/
def clearReservations (s : State) (line : Nat) : State :=
  let clr (w : Wave) : Wave := match w.reserv with
    | some (k, _) => if k / 128 = line then { w with reserv := none } else w
    | none => w
  { s with blocks := s.blocks.map fun b => { b with waves := b.waves.map clr } }

/-- Read own: dirty copies elsewhere are written back, every other copy is invalidated, and the holder is in M. -/
def readOwn (s : State) (line : Nat) (h : Holder) : State :=
  let s1 := (s.dir.filter fun d => d.line == line && d.holder != h).foldl writeBackEnt s
  let mine := match s.dirEnt? line h with
    | some d => { d with st := .modified }
    | none => { line := line, holder := h, st := .modified, dirty := 0, valid := 15, tag := lineTag s line }
  { s1 with dir := mine :: s1.dir.filter fun d => d.line != line }

/-- A holder has a byte's sector dirty. -/
def sectorDirty (s : State) (h : Holder) (key : Nat) : Bool :=
  match s.dirEnt? (key / 128) h with
  | some d => d.dirty.getLsbD (key / 32 % 4)
  | none => false

/-- A holder comes to own a byte's line, and the byte's sector becomes dirty, where the line may be cached (R155, R229). -/
def ownByte (h : Holder) (s : State) (key : Nat) : State :=
  if cacheable key then
    let s1 := readOwn s (key / 128) h
    let s2 := if sectorDirty s h key then s1 else staleAdd s1 (key / 32)
    { s2 with dir := updWhere (isEnt (key / 128) h) (fun d => { d with dirty := d.dirty ||| (1#4 <<< (key / 32 % 4)) }) s2.dir }
  else s

/-- One coherent byte is stored. -/
def putByte (s : State) (key : Nat) (b : Byte) : State :=
  let s1 := tearKey s key b
  { s1 with mem := spSet 0 key b s1.mem }

/-- Writes one coherent byte as a holder: ownership, the dirty sector, and the reservations on the line (R155, R169). -/
def writeByte (h : Holder) (s : State) (key : Nat) (b : Byte) : State :=
  clearReservations (putByte (ownByte h s key) key b) (key / 128)

/-- Lines of host memory among some keys, in the holders `which`, are tagged with the accessing owner (R387). -/
def tagHeld (which : Holder → Bool) (oid : Nat) (s : State) (keys : List Nat) : State :=
  let lines := (keys.filter fun k => 2 ^ 51 ≤ k).map fun k => k / 128
  if lines.isEmpty then s
  else { s with dir := updWhere (fun d => lines.contains d.line && which d.holder) (fun d => { d with tag := (oid, s.ctxGlade oid) }) s.dir }

/-- Lines of host memory in the caches take the accessing owner's tag; those of windows keep their block's. -/
def tagLines (oid : Nat) (s : State) (keys : List Nat) : State :=
  tagHeld (fun h => match h with
    | .window _ _ => false
    | _ => true) oid s keys

/-- Writes bytes at rising keys as a holder. -/
def writeKeys (h : Holder) (s : State) (l : List (Nat × Byte)) : State := l.foldl (fun s p => writeByte h s p.1 p.2) s

/-! ## The stash -/

def Block.who (b : Block) : Who := { die := b.die, core := b.core, oid := b.oid, glade := b.glade }

/-- The newest byte that a core's store path holds for a key (R230). -/
def pathByte (s : State) (die core key : Nat) : Option Byte :=
  s.path.foldl (fun a p =>
    if p.die == die && p.core == core && p.key ≤ key && key < p.key + p.bytes.length then p.bytes[key - p.key]? else a) none

/-- A byte as a core's loads read it: its store path first. -/
def coreByte (s : State) (die core key : Nat) : Byte := (pathByte s die core key).getD (s.byte key)

/-- FWS (R390): the running bank, the failed-boot counts, and the banks whose image does not verify. -/
def State.fws (s : State) : Nat :=
  let bad (i : Nat) : Nat := if Config.bankVerifies i then 0 else 1
  s.bank.toNat + s.counts.1 % 4 * 2 ^ 8 + s.counts.2 % 4 * 2 ^ 10 + bad s.images.1 * 2 ^ 12 + bad s.images.2 * 2 ^ 13

/-- PWRST (R311): each die's clock step; its layout is the model's own, log entry 5. -/
def State.pwrst (s : State) : Nat :=
  (s.pwr.zipIdx).foldl (fun a x => a + x.1.toNat * 2 ^ (2 * x.2)) 0

/-- A register of the control block as a read finds it: PWRST, FWS, the dump window while FATAL is 1 (R393), or what it holds. -/
def State.regNow (s : State) (off : Nat) : W64 :=
  if off / 8 = 1 then BitVec.ofNat 64 s.pwrst
  else if off / 8 = 0x20 then BitVec.ofNat 64 s.fws
  else if 0x800000 ≤ off then
    let x := (s.reg 0x108).toNat * 2 ^ 23 + (off - 0x800000) / 8 * 8
    if s.fatal ∧ x < 0xF000000 then BitVec.ofNat 64 (natLE (s.physBytes (sysBase + 0x1000000 + x) 8)) else 0
  else s.reg off

/-- A byte at a target, as a core reads it: memory, or the bytes of a control-block register. -/
def targetByte (s : State) (die core : Nat) : Target → Byte
  | .dcb off => BitVec.ofNat 8 ((s.regNow off).toNat / 256 ^ (off % 8))
  | t => coreByte s die core t.key

/-- A byte of a block's stash (R152, R155); a window byte as the core's loads read it (R177, R178). -/
def stashByte (s : State) (b : Block) (off : Nat) : Byte :=
  match b.winOfOff off with
  | some w => coreByte s b.die b.core (w.target (off - w.off)).key
  | none => match s.block? b.uid with
    | some x => spGet 0 x.stash off
    | none => spGet 0 b.stash off

/-- `n` bytes of a block's stash. -/
def stashBytes (s : State) (b : Block) (off n : Nat) : List Byte := (List.range n).map fun i => stashByte s b (off + i)

/-- Marks a window line filled, and puts the window among its holders (R155). -/
def fillWindow (s : State) (blk : Nat) (w : Window) (x : Nat) : State :=
  let key := (w.target x).key
  let mark (v : Window) : Window := if v.filled.contains (x / 128) then v else { v with filled := x / 128 :: v.filled }
  let s1 := readShared (s.mapBlock blk fun b => { b with windows := updWhere (fun v => v.win == w.win) mark b.windows })
    (key / 128) (.window blk w.win)
  match s.block? blk with
  | some b => tagHeld (fun h => h == .window blk w.win) b.oid s1 [key]
  | none => s1

/-- Writes one byte of a block's stash; a window byte goes to the window's line (R155). -/
def writeStashByte (blk : Nat) (s : State) (off : Nat) (x : Byte) : State :=
  match s.block? blk with
  | none => s
  | some b =>
    match b.winOfOff off with
    | some w => writeByte (.window blk w.win) (fillWindow s blk w (off - w.off)) (w.target (off - w.off)).key x
    | none => (if spGet 0 b.stash off = x then s else s.mapBlock blk fun b => tearPlanes b off).mapBlock blk fun b => { b with stash := spSet 0 off x b.stash }

/-- Writes bytes at rising stash offsets. -/
def writeStash (blk : Nat) (s : State) (off : Nat) (l : List Byte) : State :=
  ((List.range l.length).zip l).foldl (fun s p => writeStashByte blk s (off + p.1) p.2) s

/-- Writes one byte of a block's stash for a wave's command: under a window that the wave does not see yet, the scratchpad (R154). -/
def writeStashAs (blk wave : Nat) (s : State) (off : Nat) (x : Byte) : State :=
  match s.block? blk with
  | none => s
  | some b =>
    if (b.winOfOff off).isSome && ((b.seenBy wave).winOfOff off).isNone then
      s.mapBlock blk fun b => { b with stash := spSet 0 off x b.stash }
    else writeStashByte blk s off x

/-- Writes bytes at rising stash offsets for a wave's command. -/
def writeStashFor (blk wave : Nat) (s : State) (off : Nat) (l : List Byte) : State :=
  ((List.range l.length).zip l).foldl (fun s p => writeStashAs blk wave s (off + p.1) p.2) s

/-- Writes back the dirty lines of one window of a block, or of every window; they end in E (R156). -/
def writeBackWindows (s : State) (blk : Nat) (which : Nat → Bool) : State :=
  let mine (d : DirEnt) : Bool := match d.holder with
    | .window b w => b == blk && which w
    | _ => false
  let s1 := (s.dir.filter mine).foldl writeBackEnt s
  { s1 with dir := s1.dir.map fun d => if mine d && d.dirty != 0 then { d with st := .exclusive, dirty := 0 } else d }

/-- Takes a block's windows out of the directory; `discard` throws their dirty lines away (R388). -/
def dropWindows (s : State) (blk : Nat) (which : Nat → Bool) (discard : Bool) : State :=
  let mine (d : DirEnt) : Bool := match d.holder with
    | .window b w => b == blk && which w
    | _ => false
  let s1 := (s.dir.filter mine).foldl (fun s d => if discard then discardEnt s d else writeBackEnt s d) s
  { s1 with dir := s1.dir.filter fun d => !mine d }

/-- A write of a control-block register that a core has asked for. -/
def Move.dcbWrite? : Move → Option (Nat × W64)
  | .ev (.registerWrite (.core o) v) => some (o, v)
  | _ => none

/-- The register writes under way: those that the agenda begins with. -/
def State.dcbSoon (s : State) : List (Nat × W64) := (s.agenda.takeWhile fun m => m.dcbWrite?.isSome).filterMap Move.dcbWrite?

/-- The control block's register as it will stand when the register writes under way have been performed. -/
def State.regSoon (s : State) (off : Nat) : W64 := s.dcbSoon.foldl (fun a m => if m.1 = off then m.2 else a) (s.reg off)

/-- The register writes that stores to the control block ask for, the last store of a byte remaining. -/
def dcbMoves (l : List (Nat × Byte)) (s : State) : List Move :=
  let offs := (l.map fun p => p.1 / 8).eraseDups
  offs.map fun k =>
    let old := bytesLE 8 (s.regSoon (8 * k)).toNat
    let new := (List.range 8).map fun i =>
      match (l.filter fun p => p.1 == 8 * k + i).getLast? with
      | some p => p.2
      | none => (old[i]?).getD 0
    .ev (.registerWrite (.core (8 * k)) (BitVec.ofNat 64 (natLE new)))

/-! ## Display registers (Table 16.1) -/

def dispOff (d : Nat) : Nat := 0xC0000 + 0x1000 * d
def dispOn (s : State) (d : Nat) : Bool := s.regBits (dispOff d) 0 1 == 1
/-- Width and height of a screen. -/
def dispW (s : State) (d : Nat) : Nat := s.regBits (dispOff d) 32 16 + 1
def dispH (s : State) (d : Nat) : Nat := s.regBits (dispOff d) 48 16 + 1
/-- The frame count, and its low 32 bits (R331). -/
def frameCount (s : State) (d : Nat) : W64 := s.reg (dispOff d + 8)
def frame32 (s : State) (d : Nat) : Nat := (frameCount s d).toNat % 2 ^ 32
def mapBase (s : State) (d : Nat) : Nat := s.regBits (dispOff d + 0x18) 16 36 * 2 ^ 16
def sumBase (s : State) (d : Nat) : Nat := s.regBits (dispOff d + 0x20) 16 36 * 2 ^ 16
def layerBase (s : State) (d : Nat) : Nat := s.regBits (dispOff d + 0x28) 15 37 * 2 ^ 15
def grantBase (s : State) : Nat := s.regBits 0xC4000 21 31 * 2 ^ 21

/-! ## The map (R333) -/

def mapAddr (s : State) (d x y : Nat) : Nat := mapBase s d + 8 * (y * dispW s d + x)
def mapEntry (s : State) (d x y : Nat) : Nat := natLE (s.physBytes (mapAddr s d x y) 8)
def slotCls (e j : Nat) : Nat := bitsOf e (16 * j + 12) 4
def slotOid (e j : Nat) : Nat := bitsOf e (16 * j) 12
def slotFull (e j : Nat) : Bool := 1 ≤ slotCls e j && slotCls e j ≤ 5
/-- An owner holds a pixel. -/
def holdsPixel (oid e : Nat) : Bool := [0, 1, 2, 3].any fun j => slotFull e j && slotOid e j == oid

/-- Canopy lets an owner write a pixel of a display (R337): it is on the screen, and the owner holds it. -/
def mapLets (s : State) (d oid x y : Nat) : Bool :=
  decide (x < dispW s d) && decide (y < dispH s d) && holdsPixel oid (mapEntry s d x y)

/-! ## The store path -/

/-- A write performed at its target, after every cached copy of its line is invalidated (R230). -/
def directWrite (s : State) (key : Nat) (l : List Byte) : State :=
  let line := key / 128
  let s1 := (s.dir.filter fun d => d.line == line).foldl writeBackEnt s
  let s2 := { s1 with dir := s1.dir.filter fun d => d.line != line }
  clearReservations (((List.range l.length).zip l).foldl (fun s p => putByte s (key + p.1) p.2) s2) line

/-- A PXST's store that its display no longer lets write the pixel, since the screen or its map has changed: it is discarded (R337). -/
def pixelLost (s : State) (p : Pending) : Bool :=
  match p.disp with
  | some (d, x, y) => !mapLets s d p.oid x y
  | none => false

/-- Performs a plain store at its home slice, which holds the line unless the hint is .na2 and it does not already (Table 7.3). -/
def performStore (s : State) (p : Pending) : State :=
  let slice := Holder.l2 (homeSlice s p.glade p.key)
  if pixelLost s p then s
  else if p.hint = 5 ∧ cacheable p.key ∧ (s.dirEnt? (p.key / 128) slice).isNone then directWrite s p.key p.bytes
  else tagLines p.oid (writeKeys slice s ((List.range p.bytes.length).zip p.bytes |>.map fun q => (p.key + q.1, q.2))) [p.key]

/-! ## Pinned structures (R293) -/

/-- Cuts a range into pieces that stay inside one 128-byte line. -/
def pieces : Nat → Nat → Nat → List (Nat × Nat)
  | 0, _, _ => []
  | f + 1, va, n =>
    if n = 0 then []
    else
      let k := 128 - va % 128
      if n ≤ k then [(va, n)] else (va, k) :: pieces f (va + k) (n - k)

def pieceList (va n : Nat) : List (Nat × Nat) := pieces (n / 128 + 2) va n

/-- The hardware acts for an owner outside any core. -/
def State.hw (s : State) (oid : Nat) : Who := { die := 0, core := hwCore, oid := oid, glade := s.ctxGlade oid }

/-- The keys of a range, or the fault of its first bad piece. -/
def rangeKeys (s : State) (who : Who) (need : Need) (va n : Nat) : Except AccFault (List Nat) :=
  (pieceList va n).foldl (fun acc p =>
    match acc with
    | .error e => .error e
    | .ok l => match place s who p.1 need with
      | .error e => .error e
      | .ok q => .ok (l ++ (List.range p.2).map fun i => q.tgt.key + i)) (.ok [])

/-- The Shener link port of a peer; which port serves which peer is the model's own. -/
def peerPort (p : Nat) : Nat := p % 4

/-- The link port of a key of peer memory. -/
def portOfKey (key : Nat) : Option Nat :=
  if 2 ^ 40 ≤ key ∧ key < 2 ^ 42 then some (peerPort ((key - 2 ^ 40) / 2 ^ 38)) else none

/-- The address at which a read or a write of pinned ranges fails: that of the first piece that cannot be reached. -/
def pinBad (s : State) (oid : Nat) (wr : Bool) (l : List (Nat × Nat)) : Nat :=
  let bad (p : Nat × Nat) : Bool := match place s (s.hw oid) p.1 { rd := !wr, wr := wr, pin := true } with
    | .error _ => true
    | .ok _ => false
  match (l.flatMap fun q => pieceList q.1 q.2).find? bad with
  | some p => p.1 % 2 ^ 64
  | none => 0

end Sys2Proof.Machine
end

