-- ==== Sys2Proof/Machine/Owners.lean ====
section
/-!
DEFINITION. What outstanding engine commands own and still have to read (R206, R207, R224, R355, R362 to R365): ranges of
stash sectors and of memory lines, with window bytes named by their memory key (R173).
-/
namespace Sys2Proof.Machine

/-- A range of one space: the stash of block `blk`, or memory by key. -/
structure Piece where
  blk : Option Nat
  lo  : Nat
  hi  : Nat
  deriving DecidableEq, Repr

def Piece.meets (a b : Piece) : Bool := a.blk == b.blk && decide (a.lo < b.hi) && decide (b.lo < a.hi)

/-- Cuts `n` bytes from `lo` at multiples of `g`: bounds of each part. -/
def cutAtGrain (g lo n : Nat) : List (Nat × Nat) :=
  if n = 0 then []
  else (List.range ((lo + n + g - 1) / g - lo / g)).map fun i =>
    (max ((lo / g + i) * g) lo, min ((lo / g + i + 1) * g) (lo + n))

/-- A stash range as pieces; `whole` widens it to whole 32 B sectors. -/
def stashPieces (b : Block) (whole : Bool) (r : Nat × Nat) : List Piece :=
  (cutAtGrain 32 r.1 r.2).map fun q =>
    let lo := if whole then q.1 / 32 * 32 else q.1
    let hi := if whole then q.1 / 32 * 32 + 32 else q.2
    match b.winOfOff lo with
    | some w =>
      let k := (w.target (lo - w.off)).key
      { blk := none, lo := k, hi := k + (hi - lo) }
    | none => { blk := some b.uid, lo := lo, hi := hi }

/-- A global range as pieces; `whole` widens it to whole 128 B lines. Pages that do not translate own nothing yet. -/
def globalPieces (s : State) (b : Block) (whole : Bool) (r : Nat × Nat) : List Piece :=
  (cutAtGrain 128 r.1 r.2).filterMap fun q =>
    let mk (k : Nat) : Piece :=
      if whole then { blk := none, lo := k / 128 * 128, hi := k / 128 * 128 + 128 } else { blk := none, lo := k, hi := k + (q.2 - q.1) }
    match b.winOfVa q.1 with
    | some w => some (mk (w.target (q.1 - w.va)).key)
    | none => match place s b.who q.1 { rd := false, wr := false } with
      | .ok p => some (mk p.tgt.key)
      | .error _ => none

/-- What a command of a wave owns of a stash range: its 32 B sectors; of a window, the whole line (R362). -/
def enginePieces (b : Block) (wave : Nat) (r : Nat × Nat) : List Piece :=
  (stashPieces (b.seenBy wave) true r).map fun p =>
    if p.blk.isSome then p else { p with lo := p.lo / 128 * 128, hi := p.lo / 128 * 128 + 128 }

/-- A command of a block, with what it will write and what it has still to read. -/
structure Owner where
  id  : Nat
  blk : Nat
  dst : List Piece
  src : List Piece
  deriving DecidableEq, Repr

/-- The commands of a tenant's queue. `a` and `b` tell whether the active and the shadow plane are sparse when the first of the
list executes. -/
def queueOwners (b : Block) (nrw : Nat) : List MCmd → Bool → Bool → List Owner
  | [], _, _ => []
  | c :: t, act, sh =>
    let h := natLE c.data
    match c.kind with
    | .mwld => { id := c.id, blk := b.uid, dst := [], src := (wSources h nrw).flatMap (stashPieces (b.seenBy c.wave) true) } ::
        queueOwners b nrw t act (wSparse h)
    | .mswap => queueOwners b nrw t sh act
    | .mrun => { id := c.id, blk := b.uid, dst := (rOutputs h c.row).flatMap (enginePieces b c.wave),
                 src := (rSources h (rK h nrw act) c.row).flatMap (stashPieces (b.seenBy c.wave) true) } :: queueOwners b nrw t act sh
    | _ => queueOwners b nrw t act sh

def Tenant.activePlane (t : Tenant) : Plane := if t.active then t.p1 else t.p0
def Tenant.shadowPlane (t : Tenant) : Plane := if t.active then t.p0 else t.p1

/-- An entry waits for its granted slots to take effect, which it does before a save (R136, Table 13.10). -/
def Block.slotsHeld (b : Block) : Bool := b.waves.any fun w => w.frontier.any fun e => e.hold == .slots

/-- The commands that a block has outstanding in the matrix and raster engines. Those of the matrix engine have stopped, and own nothing,
once the block is halted for a pre-emption (R299, R364). -/
def blockOwners (b : Block) : List Owner :=
  (match b.tenant with
    | none => []
    | some t => if b.halt = .halted ∧ b.slotsHeld = false then []
        else queueOwners b (8 * t.slots) t.queue t.activePlane.sparse t.shadowPlane.sparse) ++
  b.waves.flatMap fun w => w.ops.filterMap fun o => o.rast.map fun r =>
    { id := o.id, blk := b.uid, dst := enginePieces b w.wave (r.tile, 8192), src := [] }

/-- A copy command (R224); that of a halted block has stopped (R225, R364). -/
def copyOwner (s : State) (c : Copy) : List Owner :=
  match s.block? c.blk with
  | none => []
  | some x =>
    if c.payload ∨ x.halt = .halted then []
    else
      let r := c.record.toNat
      let b := x.seenBy c.wave
      let at0 (stash whole : Bool) (q : Nat × Nat) : List Piece :=
        if !stash then globalPieces s b whole q else if whole then enginePieces x c.wave q else stashPieces b false q
      [{ id := c.id, blk := c.blk,
         dst := (cDests r c.row c.byte).flatMap (at0 (cDsp r) true) ++ (if cCwen r then at0 (cCwsp r) true (cCwaddr r, 4) else []),
         src := (cSources r c.row).flatMap (at0 (cSsp r) false) }]

/-- Every outstanding engine command. -/
def owners (s : State) : List Owner := s.blocks.flatMap blockOwners ++ s.copies.flatMap (copyOwner s)

/-- R363, R365: whether an access to a piece waits for one of the commands. -/
def waitsFor (os : List Owner) (p : Piece) (wr : Bool) : Bool :=
  os.any fun o => o.dst.any p.meets || (wr && o.src.any p.meets)

/-- A command that was issued after a flip began of a frame that it reaches is held until the flip ends (R325, R328). -/
def flipHolds (s : State) (o : Owner) : Bool :=
  !s.flips.isEmpty && (o.dst ++ o.src).any fun p => p.blk.isNone && (s.flipsOf p.lo).any fun f => decide (f.2.2 ≤ o.id)

/-- Whether command `id` must wait for earlier commands (R224, R362, R365) or for a flip. -/
def commandWaits (s : State) (id : Nat) : Bool :=
  let os := owners s
  match os.find? fun o => o.id == id with
  | none => false
  | some o =>
    let before := os.filter fun x => x.id < id
    o.dst.any (fun p => waitsFor before p true) || o.src.any (fun p => waitsFor before p false) || flipHolds s o

/-! ## What is held -/

/-- Bytes of memory that no access reaches yet: a command owns them, or has still to read what a write would change (R363, R365), or
their frame flips (R325). -/
def heldKeys (s : State) (os : List Owner) (key n : Nat) (wr : Bool) : Bool :=
  waitsFor os { blk := none, lo := key, hi := key + n } wr || !(s.flipsOf key).isEmpty

/-- A translation that no TLB holds waits for the entries that its walk reads. -/
def walkHeld (s : State) (os : List Owner) (who : Who) (va : Nat) : Bool :=
  (tlbHit s who va (who.core % 16)).isNone && (tlbHit s who va 16).isNone &&
    (walkAddrs s va 4 (s.ptroot who.oid)).any fun a => heldKeys s os (targetOf a false 0).key 8 false

/-- A command is outstanding or a frame flips, so that accesses may have to wait. -/
def anyHeld (s : State) : Bool := !(owners s).isEmpty || !s.flips.isEmpty

/-- An access to a range waits: its translation does, or bytes of it are held. -/
def rangeHeld (s : State) (who : Who) (va n : Nat) (wr : Bool) : Bool :=
  let os := owners s
  anyHeld s && (pieceList va n).any fun p => walkHeld s os who p.1 || match place s who p.1 { rd := false, wr := false, gate := true } with
    | .ok q => heldKeys s os q.tgt.key p.2 wr
    | .error _ => false

/-- An access of the hardware for an owner to some ranges waits. -/
def pinsHeld (s : State) (oid : Nat) (l : List (Nat × Nat)) (wr : Bool) : Bool := anyHeld s && l.any fun q => rangeHeld s (s.hw oid) q.1 q.2 wr

/-! ## The store path (R230) -/

/-- A store in the path waits for the commands that own its bytes or have still to read them (R363, R365); a write of the hardware also
for a flip of its frame (R325). -/
def storeWaits (s : State) (p : Pending) : Bool :=
  let os := owners s
  (!os.isEmpty && waitsFor os { blk := none, lo := p.key, hi := p.key + p.bytes.length } true) ||
    (p.core == hwCore && !(s.flipsOf p.key).isEmpty)

/-- A store is performed after an earlier one of its core: on its line, and of the hardware after every earlier one. -/
def Pending.follows (p x : Pending) : Bool := (x.key / 128 == p.key / 128 || p.core == hwCore) && x.die == p.die && x.core == p.core

/-- The stores of `l`, each with whether `which` selects it or a selected later store follows it: the writes to a location take effect
in one order (R176, R178). -/
def needed (which : Pending → Bool) (l : List Pending) : List (Pending × Bool) :=
  l.foldr (fun p a => (p, which p || a.any fun x => x.2 && x.1.follows p) :: a) []

/-- Needed stores of `l` that wait for a command, or follow one that does. -/
def stuckStores (s : State) (which : Pending → Bool) (l : List Pending) : List Pending :=
  (needed which l).foldl (fun a x => if x.2 && (storeWaits s x.1 || a.any x.1.follows) then a ++ [x.1] else a) []

/-- The needed stores of `l` that are performed now, and those that stay. -/
def splitPath (s : State) (which : Pending → Bool) (l : List Pending) : List Pending × List Pending :=
  (needed which l).foldl (fun a x => if x.2 && !storeWaits s x.1 && !a.2.any x.1.follows then (a.1 ++ [x.1], a.2) else (a.1, a.2 ++ [x.1])) ([], [])

/-- Performs the store-path entries that satisfy `which` and what they follow, oldest first; those that wait for a command stay (R230,
R232). -/
def drainPath (s : State) (which : Pending → Bool) : State :=
  let q := splitPath s which s.path
  q.1.foldl performStore { s with path := q.2 }

def onCorePath (die core : Nat) (p : Pending) : Bool := p.die == die && p.core == core

/-- Drains a core's store path. -/
def drainCore (s : State) (die core : Nat) : State := drainPath s (onCorePath die core)

/-- A store of the core waits for a command, and so a release of the core waits too. -/
def pathStuck (s : State) (die core : Nat) : Bool := !s.path.isEmpty && !(stuckStores s (onCorePath die core) s.path).isEmpty

/-- A release at .gng or wider by a block: its core's store path is drained, and at .dev or wider the block's dirty window
lines are written back (R156, R230, R231). -/
def releaseAt (s : State) (b : Block) (scope : Nat) : State :=
  if scope < 3 then s
  else
    let s1 := drainCore s b.die b.core
    if scope < 5 then s1 else writeBackWindows s1 b.uid fun _ => true

/-! ## The hardware's own accesses (R293, R363) -/

/-- A write of the hardware waits: for bytes that are held, or after an earlier write of the hardware that waits. -/
def hwWaits (s : State) (ks : List Nat) : Bool :=
  s.path.any (fun p => p.core == hwCore) || (anyHeld s && let os := owners s; ks.any fun k => heldKeys s os k 1 true)

/-- Bytes at rising keys, cut into runs that lie in one line. -/
def lineRuns : List (Nat × Byte) → List (Nat × List Byte)
  | [] => []
  | (k, x) :: t => match lineRuns t with
    | (j, l) :: r => if j = k + 1 ∧ j / 128 = k / 128 then (k, x :: l) :: r else (k, [x]) :: (j, l) :: r
    | [] => [(k, [x])]

/-- The hardware writes bytes for an owner: at once, or as stores that wait in its own path. -/
def hwWrite (s : State) (oid : Nat) (ks : List Nat) (l : List Byte) : State :=
  if hwWaits s ks then
    let (n, s1) := s.fresh
    { s1 with path := s1.path ++ (lineRuns (ks.zip l)).map fun q =>
        { die := 0, core := hwCore, blk := n, wave := 0, oid := oid, glade := s.ctxGlade oid, key := q.1, bytes := q.2, va := 0, hdr := 0,
          idx := 0, mask := 0, hint := 0, disp := none } }
  else tagLines oid (writeKeys (.l2 (homeSlice s (s.ctxGlade oid) (ks.headD 0))) s (ks.zip l)) ks

/-- Reads a pinned structure; `none` is a double fault. -/
def pinRead (s : State) (oid va n : Nat) : Option (List Byte) :=
  match rangeKeys s (s.hw oid) { rd := true, wr := false, pin := true } va n with
  | .ok l => some (l.map (coreByte s 0 hwCore))
  | .error _ => none

/-- Writes a pinned structure; `none` is a double fault. -/
def pinWrite (s : State) (oid va : Nat) (l : List Byte) : Option State :=
  match rangeKeys s (s.hw oid) { rd := false, wr := true, pin := true } va l.length with
  | .ok ks => some (hwWrite s oid ks l)
  | .error _ => none

/-! ## Taking ownership at issue (R362) -/

/-- The lines of memory that pieces lie in. -/
def pieceLines (l : List Piece) : List Nat :=
  (l.filterMap fun p => if p.blk.isNone then some (p.lo / 128) else none).eraseDups

/-- A line that an outstanding command other than the holder's own owns: recalls and requests for it wait (R363). -/
def lineOwned (s : State) (line : Nat) (h : Holder) : Bool :=
  let mine (o : Owner) : Bool := match h with
    | .engine c => o.id == c
    | _ => false
  (owners s).any fun o => !mine o && o.dst.any fun p => p.blk.isNone && decide (p.lo < 128 * (line + 1)) && decide (128 * line < p.hi)

/-- R412: whether a command of the block that may touch a stash way or a window is outstanding: by its kind and the fields that
it uses, never by the ranges that it would reach. -/
def mayTouch (s : State) (b : Block) : Bool :=
  let named (c : Copy) : Bool :=
    let r := c.record.toNat
    let hits (stash : Bool) (a : Nat) : Bool := stash || (b.winOfVa a).isSome
    (cWidth r != 0 && ((cOp r == 0 && hits (cSsp r) (cSrc r)) || hits (cDsp r) (cDst r))) || (cCwen r && hits (cCwsp r) (cCwaddr r))
  (match b.tenant with
    | none => false
    | some t => t.queue.any fun c => c.kind == .mwld || c.kind == .mrun || c.kind == .minit) ||
  (b.waves.any fun w => w.ops.any fun o => o.rast.isSome) ||
  s.copies.any fun c => c.blk == b.uid && named c

end Sys2Proof.Machine
end

