-- ==== Sys2Proof/Machine/Raster.lean ====
section
/-!
DEFINITION. The raster engine: what a RAST that has issued does to its visibility tile (R353 to R355).
-/
namespace Sys2Proof.Machine

/-- A vertex: X and Y in 1/256 pixel relative to the tile, and z as an f32 pattern. -/
structure Vert where
  x : Int
  y : Int
  z : Nat
  deriving DecidableEq, Repr

/-- RoundEven(x × 256), or none when x is not finite or lies outside -32768 to 32767.99609375 (R354). -/
def rasterCoord (w : W32) : Option Int :=
  match decodeF (fmtOf .f32) w.toNat with
  | .fin s m e =>
    let v : FVal := .fin s m e
    if ltV false v (.fin true 8388608 (-8)) || ltV false (.fin false 8388607 (-8)) v then none
    else
      let r := roundToInt 0 s m (e + 8)
      some r.1
  | _ => none

/-- The vertex of three words, relative to a tile. -/
def rasterVert (ox oy : Nat) (x y z : W32) : Option Vert :=
  match rasterCoord x, rasterCoord y with
  | some a, some b => some { x := a - 256 * (ox : Int), y := b - 256 * (oy : Int), z := z.toNat }
  | _, _ => none

/-- The edge function E(i, j, P) of R354. -/
def edgeAt (i j : Vert) (px py : Int) : Int := (j.x - i.x) * (py - i.y) - (j.y - i.y) * (px - i.x)
/-- TopLeft(i, j). -/
def topLeft (i j : Vert) : Bool := decide (j.y < i.y) || (j.y == i.y && decide (i.x < j.x))

/-- A number in f32, rounded to nearest-even with subnormals kept. -/
def f32Of (x : Exact) : Nat := (deliver (fmtOf .f32) 0 false x).bits
def f32Val (x : Nat) : FVal := decodeF (fmtOf .f32) x

/-- The depth at a pixel from its two weights. -/
def rasterDepth (v0 v1 v2 : Vert) (w1 w2 a : Int) : Nat :=
  let dz1 := f32Of (addE 0 (f32Val v1.z) (negV (f32Val v0.z)))
  let dz2 := f32Of (addE 0 (f32Val v2.z) (negV (f32Val v0.z)))
  let q (w : Int) : FVal := f32Val (f32Of (ratE false w.toNat a.toNat 0))
  let inner := f32Of (fmaE 0 (q w1) (f32Val dz1) (f32Val v0.z))
  f32Of (fmaE 0 (q w2) (f32Val dz2) (f32Val inner))

/-- Whether a weight puts the pixel inside its edge. -/
def insideEdge (w : Int) (i j : Vert) : Bool := decide (0 < w) || (w == 0 && topLeft i j)

/-- A word of a stash. -/
def stashWord (s : State) (b : Block) (off : Nat) : Nat := natLE (stashBytes s b off 4)

/-- One pixel of a triangle with A > 0. -/
def rasterPixel (blk wave tile : Nat) (v0 v1 v2 : Vert) (a : Int) (vis : W32) (s : State) (i : Nat) : State :=
  let px : Int := 256 * ((i % 32 : Nat) : Int) + 128
  let py : Int := 256 * ((i / 32 : Nat) : Int) + 128
  let w0 := edgeAt v1 v2 px py
  let w1 := edgeAt v2 v0 px py
  let w2 := edgeAt v0 v1 px py
  if insideEdge w0 v1 v2 && insideEdge w1 v2 v0 && insideEdge w2 v0 v1 then
    match s.block? blk with
    | none => s
    | some b =>
      let z := rasterDepth v0 v1 v2 w1 w2 a
      let old := stashWord s (b.seenBy wave) (tile + 4096 + 4 * i)
      if isNanV (f32Val z) || isNanV (f32Val old) || !ltV false (f32Val z) (f32Val old) then s
      else writeStashFor blk wave (writeStashFor blk wave s (tile + 4096 + 4 * i) (bytesLE 4 z)) (tile + 4 * i) (bytesLE 4 vis.toNat)
  else s

/-- One triangle (R354). -/
def rasterTriangle (blk wave : Nat) (r : Rast) (s : State) (t : List W32 × W32) : State :=
  let at0 (k : Nat) : W32 := (t.1[k]?).getD 0
  match rasterVert r.ox r.oy (at0 0) (at0 1) (at0 2), rasterVert r.ox r.oy (at0 3) (at0 4) (at0 5),
      rasterVert r.ox r.oy (at0 6) (at0 7) (at0 8) with
  | some v0, some v1, some v2 =>
    let a := edgeAt v0 v1 v2.x v2.y
    if a = 0 then s
    else if a < 0 then (List.range 1024).foldl (rasterPixel blk wave r.tile v0 v2 v1 (-a) t.2) s
    else (List.range 1024).foldl (rasterPixel blk wave r.tile v0 v1 v2 a t.2) s
  | _, _, _ => s

/-- The triangles of one RAST of a wave, in ascending lane order. -/
def applyRast (blk wave : Nat) (s : State) (r : Rast) : State := (r.tris.zip r.words).foldl (rasterTriangle blk wave r) s

end Sys2Proof.Machine
end

