-- ==== Sys2Proof/Machine/Faults.lean ====
section
/-!
DEFINITION. Fault records and the fault area (R272, R273), the end of a block (R141, R274), the double fault (R294) and the
fatal error (R393).
-/
namespace Sys2Proof.Machine

/-! ## Notifications -/

/-- Raises vector `vec` of function `fn`; a pending message is not doubled (R316). -/
def notify (s : State) (fn vec : Nat) : State :=
  if s.msix.contains (4 * fn + vec) then s else { s with msix := s.msix ++ [4 * fn + vec] }

/-! ## Records -/

/-- The 64 bytes of a record raised at a clk count. -/
def Record.bytes (r : Record) (cyc : Nat) : List Byte :=
  bytesLE 64 (r.cls + r.fatal.toNat * 2 ^ 5 + r.trapm.toNat * 2 ^ 6 + r.oid * 2 ^ 8 + r.glade * 2 ^ 20 + r.die * 2 ^ 24 +
    r.wave * 2 ^ 26 + r.core * 2 ^ 32 + r.index * 2 ^ 40 + r.phno * 2 ^ 48 + r.caddr * 2 ^ 64 + r.vaddr * 2 ^ 128 +
    r.lmask * 2 ^ 192 + r.blk * 2 ^ 224 + r.lrec * 2 ^ 256 + r.detail * 2 ^ 320 + cyc % 2 ^ 64 * 2 ^ 448)

/-- A record of the distributor, the trail engine or a completion word: no block, FATAL 0 (R272). -/
def Record.plain (cls oid glade die caddr vaddr lrec detail : Nat) : Record :=
  { cls := cls, fatal := false, trapm := false, oid := oid, glade := glade, die := die, wave := 0, core := 0, index := 0,
    phno := 0, caddr := caddr, vaddr := vaddr, lmask := 0, blk := 0, lrec := lrec, detail := detail }

/-- The record of a fault in a block (Table 13.3). -/
def blockRecord (s : State) (b : Block) (w : Option Wave) (cls detail vaddr caddr index : Nat) (lmask : W32) (fatal : Bool) :
    Record :=
  let lrec := match s.launch? b.launch with
    | some l => l.recVa
    | none => 0
  let phno := match s.phase? b.uid with
    | some p => p.phno.toNat
    | none => 0
  { cls := cls, fatal := fatal, trapm := match w with
      | some w => w.trap.isSome
      | none => false,
    oid := b.oid, glade := b.glade, die := b.die, wave := match w with
      | some w => w.wave
      | none => 0,
    core := b.core, index := index, phno := phno, caddr := caddr, vaddr := vaddr, lmask := lmask.toNat, blk := b.n,
    lrec := lrec, detail := detail }

/-- The owner whose fault area takes a record: OID 0 for its own, for double faults, and for owners without one (R273). -/
def areaOf (s : State) (r : Record) : Nat :=
  if r.oid = 0 ∨ r.cls = 14 then 0
  else if 4 ≤ s.ctxFalog r.oid then r.oid else 0

/-- Writes a record into an owner's fault area (R273); `none` is a double fault of that owner. -/
def putRecord (s : State) (x : Raised) : Option State :=
  let lg := s.ctxFalog x.area
  if lg < 4 then some s
  else
    let fa := s.farea x.area
    match pinRead s x.area fa 4, pinRead s x.area (fa + 8) 4, pinRead s x.area (fa + 64) 4 with
    | some p, some l, some g =>
      let put := natLE p
      if (put + 2 ^ 32 - natLE g) % 2 ^ 32 = 2 ^ lg then pinWrite s x.area (fa + 8) (bytesLE 4 (natLE l + 1))
      else
        match pinWrite s x.area (fa + 128 + 64 * (put % 2 ^ lg)) (x.body.bytes x.cyc) with
        | none => none
        | some s1 =>
          match pinWrite s1 x.area fa (bytesLE 4 (put + 1)) with
          | none => none
          | some s2 => some (notify s2 (if x.area = 0 then 0 else s.ctxGlade x.area + 1) 0)
    | _, _, _ => none

/-- The control words of a fault area are held (R363, R325). -/
def areaHeld (s : State) (area : Nat) : Bool :=
  decide (4 ≤ s.ctxFalog area) && pinsHeld s area [(s.farea area, 4), (s.farea area + 8, 4), (s.farea area + 64, 4)] false

/-- A record for an owner's fault area: it is written, or it waits for the area's control words and for earlier records of the area. -/
def writeRecord (s : State) (area : Nat) (r : Record) : Option State :=
  let x : Raised := { area := area, body := r, cyc := s.clkOf r.die }
  if areaHeld s area || s.records.any fun y => y.area == area then some { s with records := s.records ++ [x] } else putRecord s x

/-! ## A block ends -/

/-- Slots in use, with one freed. -/
def freeSlot (l : List (Nat × Nat)) (oid i : Nat) : List (Nat × Nat) := l.filter fun x => x != (oid, i)

/-- Work that names a block and stands outside it goes with it: its requests, and the page faults that hold its entries. -/
def dropBlockWork (s : State) (uid : Nat) : State :=
  { s with requests := s.requests.filter fun r => r.blk != uid,
           pfs := s.pfs.filter fun p => match p.who with
             | .entry e | .record e => e.blk != uid
             | _ => true,
           rels := s.rels.filter fun r => r.blk != uid }

/-- A unit has been returned to a pool of a core: its pending requests are tested again (R132). -/
def retest (s : State) (die core : Nat) : State :=
  { s with requests := s.requests.map fun r => if r.die = die ∧ r.core = core then { r with due := true } else r }

/-- A block leaves its core (R141): window lines are written back or, in a protected context's departure, discarded; the core's
store path is drained, as leaving is a release at .dev (R231, R262); every resource returns. -/
def leaveCore (s : State) (uid : Nat) (discard : Bool) : State :=
  match s.block? uid with
  | none => s
  | some b =>
    let s1 := dropWindows (drainCore s b.die b.core) uid (fun _ => true) discard
    retest (dropBlockWork { s1 with blocks := s1.blocks.filter fun x => x.uid != uid } uid) b.die b.core

/-- Bytes of a phase record of a launch (R240, R146), and where record n begins. -/
def recordSize (r : Nat) : Nat := (256 + lNw r * (2176 + 1024 * lCb r) + 255) / 256 * 256
def Launch.recordAt (l : Launch) (n : Nat) : Nat := lPrec l.record.toNat + n * recordSize l.record.toNat

/-- The STATE codes of Table 6.7. -/
def PState.code : PState → Nat
  | .created => 0
  | .ready => 1
  | .gated => 2
  | .dispatched => 3
  | .running => 4
  | .parked => 5
  | .preempted => 6
  | .done => 7

/-- STATE in the phase record follows a transition (R248); the byte also holds NWM1. `none` is a double fault. -/
def noteState (s : State) (l : Launch) (n : Nat) (st : PState) : Option State :=
  pinWrite s l.oid (l.recordAt n + 116) [BitVec.ofNat 8 (st.code + 8 * (lNw l.record.toNat - 1))]

/-- A phase goes to another state, which its record follows; false tells a double fault of the owner. -/
def movePhase (s : State) (uid : Nat) (st : PState) : State × Bool :=
  let s1 := s.mapPhase uid fun p => { p with st := st }
  match s.phase? uid with
  | none => (s1, true)
  | some p => match s.launch? p.launch with
    | none => (s1, true)
    | some l => match noteState s1 l p.n st with
      | some s2 => (s2, true)
      | none => (s1, false)

/-- The phase of a block goes to done: its launch counts it, and its gang counts it as arrived for good (R216, R245). -/
def finishPhase (s : State) (uid : Nat) : State × Bool :=
  match s.phase? uid with
  | none => (s, true)
  | some p =>
    let (s1, ok) := movePhase s uid .done
    let s2 := s1.mapLaunch p.launch fun l => { l with doneN := l.doneN + 1 }
    match p.gang with
    | none => (s2, ok)
    | some g => ({ s2 with gangs := updWhere (fun x => x.uid == g) (fun x => { x with ended := uid :: x.ended }) s2.gangs }, ok)

/-- The trap frames that a block's waves hold. -/
def freeFrames (s : State) (b : Block) : State :=
  { s with trapFrames := b.waves.foldl (fun l w =>
             match w.trap with
             | some t => freeSlot l b.oid t.frame
             | none => l) s.trapFrames }

/-- Raster work that a block has issued completes (R274 step 2). -/
def finishRasters (s : State) (b : Block) : State :=
  (b.waves.flatMap fun w => w.ops.filterMap fun o => o.rast.map fun r => (w.wave, r)).foldl (fun s x => applyRast b.uid x.1 s x.2) s

/-- A block leaves its core for good. `fatal`: its copies and matrix commands are discarded (R274), and a protected context's
windows with them. False tells a double fault of the owner. -/
def removeBlock (s : State) (uid : Nat) (fatal : Bool) : State × Bool :=
  match s.block? uid with
  | none => (s, true)
  | some b =>
    let s1 := freeFrames (finishRasters s b) b
    let s2 := if fatal then { s1 with copies := s1.copies.filter fun c => c.blk != uid } else s1
    finishPhase (leaveCore s2 uid (fatal && s.gladeProtected b.glade)) uid

/-- The phase of a block that is on no core goes to done, and its trap frames and save slot are freed (R248, R303). -/
def removePhase (s : State) (p : Phase) : State × Bool :=
  match s.launch? p.launch with
  | none => (s, true)
  | some l =>
    let s1 : State := { s with trapFrames := p.kept.frames.foldl (fun a f => freeSlot a l.oid f) s.trapFrames }
    let s2 : State := match p.kept.slot with
      | some i => { s1 with saveSlots := freeSlot s1.saveSlots l.oid i }
      | none => s1
    finishPhase s2 p.uid

/-- The XOR of the first `n` pieces of `w` bits. -/
def foldKey (w : Nat) : Nat → Nat → Nat
  | 0, _ => 0
  | n + 1, k => (k % 2 ^ w) ^^^ foldKey w n (k / 2 ^ w)

/-- The home die of a key, and its set (R253). -/
def homeDie (key : Nat) : Nat := foldKey 2 24 key
def blazeSet (key : Nat) : Nat := foldKey 12 4 key

/-- The overflowed bit's number of a key's set. -/
def overflowBit (key : Nat) : Nat := 4096 * homeDie key + blazeSet key

/-- A set's overflowed bit stays while the list holds an entry of that set (R256). -/
def keepOverflowed (bits : List Nat) (l : List Listed) : List Nat :=
  bits.filter fun b => l.any fun x => overflowBit x.blaze.key.toNat == b

/-- Removes an owner's phases, launches, blazes and graph runs, and frees its save slots; no completion word is written
(R267). -/
def removeOwner (s : State) (oid : Nat) : State :=
  let mine := (s.launches.filter fun l => l.oid == oid).map fun l => l.uid
  let s1 := (s.phases.filter fun p => mine.contains p.launch && p.st != .done).foldl (fun s p => (removePhase s p).1) s
  let rest := s1.listed.filter fun l => l.oid != oid
  { s1 with phases := s1.phases.filter fun p => !mine.contains p.launch,
            launches := s1.launches.filter fun l => l.oid != oid,
            gangs := s1.gangs.filter fun g => !mine.contains g.launch,
            blazes := s1.blazes.filter fun b => b.oid != oid,
            listed := rest,
            overflowed := keepOverflowed s1.overflowed rest,
            pubs := s1.pubs.filter fun p => p.oid != oid,
            runs := s1.runs.filter fun r => r.req.oid != oid,
            runReqs := s1.runReqs.filter fun r => r.oid != oid,
            saveSlots := s1.saveSlots.filter fun x => x.1 != oid,
            pfs := s1.pfs.filter fun p => p.oid != oid }

/-- EN := 0 in each of an owner's queue descriptors. -/
def disableQueues (s : State) (oid : Nat) : State :=
  (List.range 1024).foldl (fun s q =>
    let off := 0x20000 + 32 * q + 16
    if s.regBits off 9 1 = 1 ∧ s.regBits off 14 12 = oid then s.setRegBits off 9 1 0 else s) s

/-- A holder's die, where the tag walker of that die reaches it. -/
def holderDie (s : State) : Holder → Option Nat
  | .l1 die _ => some die
  | .l2 n => some (n / 16)
  | .grove die _ => some die
  | .window blk _ => (s.block? blk).map fun b => b.die
  | _ => none

/-- A sweep of a die (R387): matching lines and TLB entries go, dirty sectors are written back or discarded, and reservations on
the lines are cleared. -/
def sweepDie (s : State) (die : Nat) (disc : Bool) (hit : Nat × Nat → Bool) : State :=
  let mine (d : DirEnt) : Bool := holderDie s d.holder == some die && hit d.tag
  let gone := s.dir.filter mine
  let s1 := gone.foldl (fun s d => if disc then discardEnt s d else writeBackEnt s d) s
  let s2 := gone.foldl (fun s d => clearReservations s d.line) { s1 with dir := s1.dir.filter fun d => !gone.contains d }
  { s2 with tlb := s2.tlb.filter fun t => t.die != die || !hit t.tag }

/-- A sweep of every die. -/
def sweepAll (s : State) (disc : Bool) (hit : Nat × Nat → Bool) : State :=
  [0, 1, 2, 3].foldl (fun s d => sweepDie s d disc hit) s

/-- The departure of a context (R388): what it left in the caches is discarded where it is protected, and written back where it is
ordinary. -/
def depart (s : State) (oid : Nat) : State := sweepAll s (s.gladeProtected (s.ctxGlade oid)) fun t => t.1 == oid

/-- The end of an owner's context, by kill or double fault: its blocks end, its phases, blazes and runs are removed. -/
def endContext (s : State) (oid : Nat) : State :=
  let s1 := (s.blocks.filter fun b => b.oid == oid).foldl (fun s b => (removeBlock s b.uid true).1) s
  depart (removeOwner s1 oid) oid

/-- Bytes of device memory written by the executive or the hardware at a physical address. -/
def writePhys (s : State) (a : Nat) (l : List Byte) : State :=
  writeKeys (.l2 (homeSlice s 0 (targetOf a false 0).key)) s
    (((List.range l.length).map fun i => (targetOf (a + i) false 0).key).zip l)

/-- Service pair `d` reaches a physical address: what its access windows allow (R376). -/
def pairAllowed (s : State) (d a : Nat) (rd wr : Bool) : Bool := (firewall s (0x30 + d) (targetOf a false 0) rd wr).isNone

/-- Bytes that a service pair writes at a physical address, dropped at the home agent where its windows do not allow them (R378). -/
def pairWrite (s : State) (d a : Nat) (l : List Byte) : State := if pairAllowed s d a false true then writePhys s a l else s

/-- The registers of a wave in a dump. -/
def waveDump (clk : Nat) (w : Wave) : List Byte :=
  let words (l : List W32) : List Byte := l.flatMap fun x => bytesLE 4 x.toNat
  let masked (l : List Masked) : List Byte := l.flatMap fun x => words (x.mask :: x.vals)
  words ((List.range 128).map w.getS) ++ words ((List.range (8 * w.claim)).flatMap fun i => lanes32.map (w.getV i)) ++
    words ((List.range 16).map w.getP) ++ words ((List.range 12).map w.getM) ++ w.q.flatMap (fun e => words (e.valid :: e.vals)) ++
    words ((List.range 256).map fun i => spGet 0 w.lvl i) ++ words [w.modeAt clk] ++ bytesLE 2 w.f.toNat ++
    w.e1.flatMap words ++ w.e2.flatMap words ++ words w.e3 ++ words w.e4 ++ masked w.e5 ++
    w.e6.flatMap (fun x => words [x.1] ++ bytesLE 1 x.2.toNat) ++ masked w.e7

/-- The dump of a fatal error (R393); its layout is the model's own, log entry 4. -/
def dumpBytes (s : State) (cause : FatalCause) : List Byte :=
  let c := match cause with
    | .doubleFaultOfSystem => 1
    | .softErrorInSystemRegion => 2
    | .everyServicePairFailed => 3
  let area := match pinRead s 0 (s.farea 0) (128 + 64 * 2 ^ s.ctxFalog 0) with
    | some l => l
    | none => []
  bytesLE 8 (s.reg 0).toNat ++ bytesLE 8 c ++ s.clk.flatMap (fun x => bytesLE 8 x.toNat) ++
    (List.range 128).flatMap (fun i => bytesLE 8 (s.reg (0x100000 + 8 * i)).toNat) ++ area ++
    (s.blocks.filter fun b => !s.gladeProtected b.glade).flatMap fun b => b.waves.flatMap (waveDump (s.clkOf b.die))

/-- The pair that writes a dump: the leader, or the lowest healthy one. -/
def dumper (s : State) : Option Nat :=
  let up (d : Nat) : Bool := s.regBits 0 d 1 == 1
  if up (s.regBits 0 8 2) then some (s.regBits 0 8 2) else [0, 1, 2, 3].find? up

/-- A fatal error (R393): FATAL; a healthy pair, if there is one, writes the dump and sends vector 3. -/
def fatalError (s : State) (cause : FatalCause) : State :=
  let s1 := s.setRegBits 0 11 1 1
  match dumper s with
  | none => s1
  | some d => notify (pairWrite s1 d (sysBase + 0x1000000) (dumpBytes s1 cause)) 0 3

/-- A record in the fault area of OID 0; a fault there is a fatal error (R273, R294). -/
def systemRecord (s : State) (r : Record) : State :=
  match writeRecord s 0 r with
  | some s1 => s1
  | none => fatalError s .doubleFaultOfSystem

/-- A double fault (R294): the context of the record's owner is killed, its queues are disabled, and the record, of class 14 and
with FATAL = 1, goes to OID 0's area. A double fault of OID 0 ends in a fatal error. -/
def doubleAt (s : State) (r : Record) : State :=
  if r.oid = 0 then fatalError s .doubleFaultOfSystem
  else systemRecord (disableQueues (endContext s r.oid) r.oid) { r with cls := 14, fatal := true, detail := 0 }

/-- A double fault that no block and no phase has caused, at an address. -/
def doubleFault (s : State) (oid die va : Nat) : State := doubleAt s (Record.plain 14 oid (s.ctxGlade oid) die 0 va 0 0)

/-- A double fault of a block that is on a core, at no instruction of it. -/
def blockDouble (s : State) (b : Block) (va : Nat) : State :=
  let entry := match s.launch? b.launch with
    | some l => lEntry l.record.toNat
    | none => 0
  doubleAt s (blockRecord s b none 14 0 va entry 0 0 true)

/-- The record of a fault of a phase that is on no core (R255, R302): its block, its code's ENTRY, no wave and no lane. -/
def phaseRecord (l : Launch) (p : Phase) (die cls detail va : Nat) : Record :=
  { Record.plain cls l.oid l.glade die (lEntry l.record.toNat) va l.recVa detail with fatal := true, phno := p.phno.toNat, blk := p.n }

/-- A double fault of a phase that is on no core. -/
def phaseDouble (s : State) (l : Launch) (p : Phase) (die va : Nat) : State := doubleAt s (phaseRecord l p die 14 0 va)

/-- The address of STATE in a block's phase record. -/
def stateAt (s : State) (uid : Nat) : Nat :=
  match s.phase? uid with
  | none => 0
  | some p => match s.launch? p.launch with
    | none => 0
    | some l => (l.recordAt p.n + 116) % 2 ^ 64

/-- A block ends; a phase record that cannot be written is a double fault of its owner (R145). -/
def endBlock (s : State) (uid : Nat) (fatal : Bool) : State :=
  match s.block? uid with
  | none => s
  | some b =>
    let (s1, ok) := removeBlock s uid fatal
    if ok then s1 else blockDouble s1 b (stateAt s uid)

/-- A phase goes to another state; a record that cannot be written is a double fault of its owner. -/
def setPhase (s : State) (uid : Nat) (st : PState) : State :=
  let (s1, ok) := movePhase s uid st
  if ok then s1
  else match s.phase? uid with
    | none => s1
    | some p => match s.launch? p.launch with
      | none => s1
      | some l => phaseDouble s1 l p l.die (stateAt s uid)

/-- A fault on a fault area itself is a double fault of the area's owner (R273). -/
def areaDouble (s : State) (a : Nat) (r : Record) : State :=
  doubleAt s { r with oid := a, vaddr := pinBad s a true [(s.farea a, 128 + 64 * 2 ^ s.ctxFalog a)] }

/-- Raises a record (R273). -/
def raiseRecord (s : State) (r : Record) : State :=
  match writeRecord s (areaOf s r) r with
  | some s1 => s1
  | none => areaDouble s (areaOf s r) r

/-- The records that wait are written, each area's in order, once its control words are no longer held. -/
def settleRecords (s : State) : State :=
  s.records.foldl (fun s x =>
    if (s.records.find? fun y => y.area == x.area) ≠ some x ∨ areaHeld s x.area then s
    else
      let s1 : State := { s with records := s.records.erase x }
      (putRecord s1 x).getD (areaDouble s1 x.area x.body)) s

end Sys2Proof.Machine
end

