-- ==== Sys2Proof/Machine/Ops.lean ====
section
/-!
DEFINITION. The operations that every instruction shares: who issues, taking a fault (R42, R272 to R274, R291), positions and
merging (R9 to R12), masks (R117), entering and leaving trap mode (R277 to R279), and issue itself (R42).
-/
namespace Sys2Proof.Machine

/-! ## Who issues -/

/-- The issuing entry with its wave, its block and the header it fetched. -/
structure Ctx where
  b   : Block
  w   : Wave
  e   : Entry
  hdr : W128
  ref : ERef
  clk : Nat
  /-- MODEL. What the free choices of this issue are applied to. -/
  seed : Nat
  deriving DecidableEq, Repr

/-- The instruction word at which an entry stands, and its fields. -/
def Entry.word (e : Entry) : Option W128 := e.clause[e.idx + 1]?
def Entry.fields (e : Entry) : Fields := (fieldsOf ((e.word.getD 0).toNat)).2.1

/-- An entry stands at an instruction that may issue. -/
def Entry.ready (e : Entry) : Bool :=
  e.opn && e.park == 0 && (e.hold == .none || e.hold == .blocked) &&
    match e.clause with
    | [] => false
    | h :: _ => decide (e.idx ≤ hdrCnt h)

/-- The context that `cur` names. -/
def ctxOf (s : State) : Option Ctx :=
  match s.cur with
  | none => none
  | some r =>
    match s.block? r.blk with
    | none => none
    | some b =>
      match b.wave? r.wave with
      | none => none
      | some w =>
        match w.entry? r.lane with
        | none => none
        | some e => if e.ready && b.halt != .halted && !w.ended then
            some { b := b, w := w, e := e, hdr := e.clause.headD 0, ref := r,
                   clk := s.clkOf b.die, seed := s.free } else none

/-- The address of the issuing clause's header. -/
def Ctx.caddr (c : Ctx) : Nat := 16 * c.e.hdr.toNat
def Ctx.lit (c : Ctx) : Nat := hdrLit c.hdr
/-- The lanes of the issuing entry. -/
def Ctx.mask (c : Ctx) : W32 := c.e.mask

/-- Why an instruction does not go on: a fault with its class, detail, address and lanes; a page fault, of its own access or of
the launch record that it names (R241); or a wait. -/
inductive Stop where
  | fault (cls detail vaddr : Nat) (lmask : W32)
  | page (va : Nat) (lanes : W32) (s : State)
  | record (va : Nat) (lanes : W32) (s : State)
  | hold (h : Hold) (s : State)
  | double (va : Nat) (lanes : W32)
  deriving DecidableEq, Repr

/-- How an instruction goes on: the entry moves to its next position, or the meaning has placed its lanes. -/
inductive Go where
  | seq (s : State)
  | placed (s : State)
  deriving DecidableEq, Repr

/-- The opcode and the fields of the word at which the entry stands. -/
def Ctx.opcode (c : Ctx) : Nat := match c.e.word with
  | some x => (fieldsOf x.toNat).1
  | none => 0
def Ctx.fields (c : Ctx) : Fields := c.e.fields

/-- An instruction that can raise a sticky bit (R23, R64): float arithmetic, conversions, FSETP, and the collectives of floats. -/
def canRaise (opc : Nat) (t : Ty) : Bool :=
  opc / 64 == 2 || opc / 64 == 3 || opc / 64 == 4 || opc == 0x141 || ((opc == 0x189 || opc == 0x18A) && isFloat t)

def Ctx.raises (c : Ctx) : Bool := canRaise c.opcode c.fields.ty

/-- The illegal-instruction, illegal-operand, privileged, alignment, protection and resource-protocol faults (Table 13.2). -/
def Ctx.illegalInstr {α : Type} (c : Ctx) : Except Stop α := .error (.fault 1 0 0 c.e.mask)
def Ctx.illegalOp {α : Type} (c : Ctx) : Except Stop α := .error (.fault 2 0 0 c.e.mask)
def Ctx.privileged {α : Type} (c : Ctx) : Except Stop α := .error (.fault 3 0 0 c.e.mask)
def Ctx.align {α : Type} (c : Ctx) (va : Nat) : Except Stop α := .error (.fault 4 0 va c.e.mask)
def Ctx.protection {α : Type} (c : Ctx) (va : Nat) : Except Stop α := .error (.fault 6 0 va c.e.mask)
def Ctx.resource {α : Type} (c : Ctx) : Except Stop α := .error (.fault 11 0 0 c.e.mask)
def Ctx.engine {α : Type} (c : Ctx) (detail : Nat) : Except Stop α := .error (.fault 12 detail 0 c.e.mask)
/-- A wait that leaves nothing changed; the instruction issues again. -/
def Ctx.wait {α : Type} (_ : Ctx) (s : State) : Except Stop α := .error (.hold .blocked s)

/-! ## Early reads (R24, R43) -/

/-- What a lane reads of a register whose contents are `l`: a predicate's bit, or a lane's word. -/
def Reg.lane (r : Reg) (l : List W32) (lane : Nat) : W32 :=
  match r with
  | .p _ => (l.headD 0 >>> lane) &&& 1
  | .s _ => l.headD 0
  | _ => (l[lane]?).getD 0

/-- Whether outstanding work will write a lane of a register that no later instruction has written. -/
def LongOp.writesLane (o : LongOp) (r : Reg) (lane : Nat) : Bool :=
  (o.writes.any fun x => x.reg == r && x.mask.getLsbD lane) && !o.ovr.any fun x => x.1 == r && x.2.getLsbD lane

/-- What outstanding work will write in a lane; free where it has not been computed. -/
def LongOp.laneValue (o : LongOp) (seed : Nat) (r : Reg) (lane : Nat) : W32 :=
  if o.ready then match o.writes.find? fun x => x.reg == r with
    | some x => r.lane x.vals lane
    | none => 0
  else match r with
    | .p _ => if Config.freeBit (8 * (seed * 64 + lane) + 3) then 1 else 0
    | _ => Config.freeWord (8 * (seed * 64 + lane) + 3)

/-- R43: a read of a register that long-latency work has not yet filled returns the old value or the new one, lane by lane. -/
def unfilled (w : Wave) (seed : Nat) (r : Reg) (lane : Nat) (now : W32) : W32 :=
  w.ops.zipIdx.foldl (fun a p =>
    if p.1.writesLane r lane then
      (if Config.freeBit (8 * (seed * 2 ^ 16 + p.2 * 2 ^ 6 + lane) + 2) then p.1.laneValue seed r lane else a)
    else a) now

/-- R43: a read before the value is readable returns the old value or the new one, lane by lane. The newest write stands first
in `recent`; once it is readable, no earlier one counts. -/
def early (w : Wave) (clk seed : Nat) (r : Reg) (lane : Nat) (now : W32) : W32 :=
  unfilled w seed r lane
    (if w.recent.isEmpty then now
     else (w.recent.zipIdx.foldl (fun (a : W32 × Bool) p =>
       let x := p.1
       if !a.2 && x.reg == r && !x.scalar && x.mask.getLsbD lane then
         if decide (clk < x.ready) && Config.freeBit (8 * (seed * 2 ^ 16 + p.2 * 2 ^ 6 + lane)) then (r.lane x.old lane, false)
         else (a.1, true)
       else a) (now, false)).1)

/-- R24: what the broadcast bus gives a wide form: the value before the oldest scalar write of the last 3 clk. -/
def broadcast (w : Wave) (clk n : Nat) : W32 :=
  w.recent.foldl (fun a x => if x.reg == .s n && x.scalar && decide (clk < x.issued + 3) then x.old.headD 0 else a) (w.getS n)

/-- Remembers what a register held before a write that issued at `clk` (R24, R43), dropping what everyone may read by now: writes
of registers of which no write is pending. -/
def Wave.remember (w : Wave) (clk ready : Nat) (scalar : Bool) (r : Reg) (mask : W32) : Wave :=
  let pending := w.recent.filter fun x => decide (clk < x.ready) || decide (clk < x.issued + 3)
  { w with recent := { reg := r, mask := mask, old := w.regVals r, issued := clk, ready := ready, scalar := scalar } ::
                     w.recent.filter fun x => pending.any fun y => y.reg == x.reg }

/-- Marks a register's lanes overwritten in outstanding long-latency results (R43). -/
def Wave.overtake (w : Wave) (r : Reg) (mask : W32) : Wave :=
  { w with ops := w.ops.map fun o =>
             if o.writes.any fun x => x.reg == r then { o with ovr := (r, mask) :: o.ovr } else o }

/-- Writes a register at issue, with its latency. -/
def Wave.write (w : Wave) (clk lat : Nat) (scalar : Bool) (r : RegWrite) : Wave :=
  ((w.remember clk (clk + lat) scalar r.reg r.mask).overtake r.reg r.mask).put r

/-- Writes a scalar outside every instruction's result: later reads find the new value, and outstanding work that lands later leaves
either (R43). -/
def Wave.force (w : Wave) (n : Nat) (x : W32) : Wave :=
  ({ w.overtake (.s n) 1 with recent := w.recent.filter fun r => r.reg != Reg.s n }).setS n x

/-- A vector register's lane as an instruction reads it. -/
def Ctx.readV (c : Ctx) (n lane : Nat) : W32 := early c.w c.clk (c.seed * 1024 + n) (.v n) lane (c.w.getV n lane)
/-- The wave as a wide form finds its scalars: long-latency work of the last 3 clk is not on the bus yet (R24). -/
def Wave.onBus (w : Wave) (clk : Nat) : Wave := { w with ops := w.ops.filter fun o => decide (o.due + 2 ≤ clk) }

/-- A scalar as a scalar form reads it, or as a wide form does. -/
def Ctx.readS (c : Ctx) (scalar : Bool) (n : Nat) : W32 :=
  if scalar then unfilled c.w (c.seed * 1024 + 656 + n) (.s n) 0 (c.w.getS n)
  else unfilled (c.w.onBus c.clk) (c.seed * 1024 + 656 + n) (.s n) 0 (broadcast c.w c.clk n)
/-- A predicate as an instruction reads it. -/
def Ctx.readP (c : Ctx) (n : Nat) : W32 :=
  if n = 15 then 0xFFFFFFFF#32
  else if (c.w.recent.any fun x => x.reg == .p n && decide (c.clk < x.ready)) ||
      c.w.ops.any (fun o => o.writes.any fun x => x.reg == .p n) then
    maskOf fun l => early c.w c.clk (c.seed * 1024 + 640 + n) (.p n) l ((c.w.getP n >>> l) &&& 1) != 0
  else c.w.getP n

/-- The participating lanes (R33, R98), the guards read as R43 allows. -/
def Ctx.parts (c : Ctx) (f : Fields) : W32 :=
  let a := c.readP f.ga.toNat ^^^ (if f.gan then 0xFFFFFFFF#32 else 0)
  let b := c.readP f.gb.toNat ^^^ (if f.gbn then 0xFFFFFFFF#32 else 0)
  c.e.mask &&& (if f.gc then a ||| b else a &&& b)

/-! ## Constants (R38) -/

/-- A value in every element of a type. -/
def splat (t : Ty) (x : Nat) : Nat := joinElems (elemWidth t) (List.replicate (elemCount t) x)

/-- An integer constant or index `n` as a value of type `t`; none where R38 forbids it. -/
def intConst (t : Ty) (n : Nat) : Option Nat :=
  match t with
  | .f64 | .f32 | .f16 | .bf16 | .f16x2 | .bf16x2 => some (splat t (roundF (fmtOf t) 0 false false n 0 false).bits)
  | .f8e4 | .f8e5 | .tf8a | .tf8b | .tf6a | .tf6b | .i4p | .n4p | .i2p | .n2p | .i1p => none
  | _ => some (splat t n)

/-- Float constant `i` as a value of type `t`. -/
def fltConst (t : Ty) (i : Nat) : Option Nat :=
  match t with
  | .f64 | .f32 | .f16 | .bf16 | .f16x2 | .bf16x2 => some (splat t (fconst (fmtOf t) i))
  | _ => none

/-! ## Source modifiers (R39) -/

/-- The lane that a permuting class reads for lane `l`; none for the zero fill. -/
def permLane (cls seg d l : Nat) : Option Nat :=
  let n := 2 ^ seg
  let o := l % n
  let b := l - o
  match cls with
  | 1 => some (b + (o + d) % n)
  | 2 => some (b + (o ^^^ d))
  | 3 => some (b + d)
  | 4 => some (b + (n - 1 - o))
  | 5 => if o + d < n then some (b + o + d) else none
  | _ => some l

/-- Applies a function to each element of a value. -/
def mapElems (t : Ty) (g : Nat → Nat) (x : Nat) : Nat :=
  joinElems (elemWidth t) ((List.range (elemCount t)).map fun i => g (elemAt (elemWidth t) i x))

/-- The absolute value of an element: the most negative integer stays itself, floats clear the sign (R39). -/
def absElem (t : Ty) (x : Nat) : Nat :=
  let w := elemWidth t
  if isFloat t then x % 2 ^ (w - 1)
  else if isSigned t then wrapTo w (toSigned w x).natAbs
  else x

/-- The negation of an element: integers wrap, floats invert the sign bit (R39). -/
def negElem (t : Ty) (x : Nat) : Nat :=
  let w := elemWidth t
  if isFloat t then (x + 2 ^ (w - 1)) % 2 ^ w else wrapTo w (-(x : Int))

/-- In groups 2 and 3 the absolute value of a NaN is the canonical NaN (R87). -/
def absFloat (t : Ty) (x : Nat) : Nat :=
  match isFloat t, decodeF (fmtOf t) x with
  | true, .nan => nanBits (fmtOf t)
  | _, _ => absElem t x

/-- The values of an operand in the 32 lanes after its source modifier, whose absolute value is `abs`. -/
def modify (abs : Ty → Nat → Nat) (m : BitVec 12) (t : Ty) (l : List Nat) : List Nat :=
  if m = 0#12 then l
  else
    let x := m.toNat
    let cls := bitsOf x 8 3
    lanes32.map fun lane =>
      let v := match permLane cls (bitsOf x 5 3) (bitsOf x 0 5) lane with
        | some j => (l[j]?).getD 0
        | none => 0
      let v := if cls = 6 then mapElems t (abs t) v else v
      if bitsOf x 11 1 = 1 then mapElems t (negElem t) v else v

/-- The lanes named by a list. -/
def lanesMask (l : List Nat) : W32 := l.foldl (fun a x => a ||| (1#32 <<< x)) 0

/-- Which lane of an operand each participating lane reads: pairs of a participating lane and the lane it reads. -/
abbrev Reads := List (Nat × Nat)

/-- Each lane of `act` reads its own lane. -/
def ownReads (act : W32) : Reads := (lanesOf act).map fun l => (l, l)

/-- The lanes that are read in the end, through a modifier; a zero fill reads none. -/
def throughModifier (m : BitVec 12) (rs : Reads) : Reads :=
  let x := m.toNat
  rs.filterMap fun p => (permLane (bitsOf x 8 3) (bitsOf x 5 3) (bitsOf x 0 5) p.2).map fun j => (p.1, j)

/-! ## Taking a fault -/

/-- A fatal fault of a block (R274): its record, then its end. -/
def fatalFault (s : State) (b : Block) (w : Option Wave) (cls detail vaddr caddr index : Nat) (lmask : W32) : State :=
  endBlock (raiseRecord s (blockRecord s b w cls detail vaddr caddr index lmask true)) b.uid true

/-- TAKING AN EXCEPTION: the issuing instruction's fault is recorded and its block ends (R42, R272 to R274). -/
def takeFault (s : State) (c : Ctx) (cls detail vaddr : Nat) (lmask : W32) : State :=
  fatalFault s c.b (some c.w) cls detail vaddr c.caddr c.e.idx lmask

/-- A record-only fault (R275). -/
def noteFault (s : State) (c : Ctx) (cls detail vaddr : Nat) (lmask : W32) : State :=
  raiseRecord s (blockRecord s c.b (some c.w) cls detail vaddr c.caddr c.e.idx lmask false)

def State.mapEntry (s : State) (r : ERef) (g : Entry → Entry) : State :=
  s.mapWave r.blk r.wave fun w => w.mapEntry r.lane g

/-- A page fault on behalf of an entry (R291): it is held at its instruction, and the fault goes to the leader. -/
def takePageAs (who : PfWho) (s : State) (r : ERef) (oid glade va : Nat) (lanes : W32) : State :=
  let (id, s1) := s.fresh
  { s1.mapEntry r (fun e => { e with hold := .page id }) with
    pfs := s1.pfs ++ [{ id := id, oid := oid, glade := glade, va := va, who := who, lanes := lanes }] }

/-- A page fault of an entry's own access. -/
def takePage (s : State) (r : ERef) (oid glade va : Nat) (lanes : W32) : State := takePageAs (.entry r) s r oid glade va lanes

/-! ## Positions (R9 to R12) -/

/-- The bytes of a code word, if the block may fetch there (R289) and no peer that holds them refuses (R378). -/
def fetchWord (s : State) (b : Block) (va : Nat) : Except AccFault W128 :=
  match rangeKeys s b.who { rd := false, wr := false, fetch := true } (va % 2 ^ 64) 16 with
  | .error e => .error e
  | .ok ks => .ok (BitVec.ofNat 128 (natLE (ks.map fun k => coreByte s b.die b.core k)))

/-- The PRIO of the header at an address (R11, R113); 0 where it cannot be read, which the next round looks at again. -/
def prioAt (s : State) (b : Block) (hdr : BitVec 60) : W16 :=
  match fetchWord s b (16 * hdr.toNat) with
  | .ok h => hdrPrio h
  | .error _ => 0

/-- A new entry at index 0 of a header (R113). -/
def entryAt (s : State) (b : Block) (hdr : BitVec 60) (mask : W32) (notBefore : Nat) : Entry :=
  { hdr := hdr, idx := 0, prio := prioAt s b hdr, mask := mask, park := 0, opn := false, second := false,
    clause := [], notBefore := notBefore, hold := .none, done := 0, watch := [] }

/-- The header that follows an entry's clause (R29). -/
def Entry.nextHdr (e : Entry) : BitVec 60 :=
  match e.clause with
  | [] => e.hdr
  | h :: _ => e.hdr + BitVec.ofNat 60 (hdrCnt h + 2)

/-- The header word of an entry's clause: the one it holds, or, for an entry restored inside a clause, the one in memory. -/
def clauseHeader (s : State) (b : Block) (e : Entry) : Option W128 :=
  match e.clause with
  | h :: _ => some h
  | [] => if e.idx = 0 then none else (fetchWord s b (16 * e.hdr.toNat)).toOption

/-- An entry at the end of its clause goes to the next header (R11); a parked one stays until it is released (R117). -/
def closeEntry (s : State) (b : Block) (e : Entry) : Entry :=
  if e.hold = .none ∧ e.park = 0 then
    match clauseHeader s b e with
    | none => e
    | some h => if hdrCnt h < e.idx then entryAt s b (e.hdr + BitVec.ofNat 60 (hdrCnt h + 2)) e.mask e.notBefore else e
  else e

/-- An entry waits at its instruction for nothing, or for a page. -/
def Hold.mergeable : Hold → Bool
  | .none | .page _ => true
  | _ => false

/-- R11: two entries that merge. -/
def canMerge (a e : Entry) : Bool :=
  !a.opn && !e.opn && a.park == e.park && a.hdr == e.hdr && a.idx == e.idx && a.hold.mergeable && e.hold.mergeable

/-- The entry that two become: the mask is the OR of the two. It waits for a page that either waits for, and each group of
lanes keeps the condition that it is parked on. -/
def Entry.merged (a e : Entry) : Entry :=
  { a with mask := a.mask ||| e.mask, notBefore := max a.notBefore e.notBefore,
           hold := if a.hold = .none then e.hold else a.hold, watch := a.watch ++ e.watch }

/-- Adds an entry to a frontier, merging it under R11; an empty mask is removed at once (R9). -/
def addEntry (l : List Entry) (e : Entry) : List Entry :=
  if e.mask = 0 then l
  else if l.any fun a => canMerge a e then
    updWhere (fun a => canMerge a e) (fun a => a.merged e) l
  else l ++ [e]

/-- A frontier with its entries merged. -/
def mergeAll (l : List Entry) : List Entry := l.foldl addEntry []

/-- A wave whose frontier is settled: ended clauses left, positions merged, flags cleared (R11, R30). -/
def settleWave (s : State) (b : Block) (w : Wave) : Wave :=
  let w1 := ({ w with frontier := w.frontier.map (closeEntry s b) }).settle
  { w1 with frontier := mergeAll w1.frontier }

/-- The clk from which the entry's next instruction may issue (R35); with ILK the core ignores STALL (R44). YLD gives the half's
next slot to another wave that is ready, which the half's round-robin order does in any case (R148). -/
def nextClk (c : Ctx) (f : Fields) : Nat := c.clk + 1 + (if c.w.ilk then 0 else f.stall.toNat)

/-- The issuing entry goes on to its next position. -/
def advance (c : Ctx) (f : Fields) (s : State) : State :=
  let s1 := s.mapEntry c.ref fun e => { e with idx := e.idx + 1, hold := .none, done := 0, notBefore := max e.notBefore (nextClk c f) }
  s1.mapWave c.ref.blk c.ref.wave fun w => settleWave s1 c.b w

/-- After the meaning has placed the lanes. -/
def settleAt (s : State) (r : WRef) : State :=
  match s.wave? r with
  | none => s
  | some (b, _) => s.mapWave r.blk r.wave fun w => settleWave s b w

/-- The frontier with the issuing entry replaced by other entries. -/
def replaceEntry (w : Wave) (lane : Nat) (l : List Entry) : Wave :=
  { w with frontier := l.foldl addEntry (w.frontier.filter fun e => !e.has lane) }

/-! ## Masks (R116, R117) -/

/-- The lanes parked on mask register `m`. -/
def Wave.parkedOn (w : Wave) (m : Nat) : W32 :=
  w.frontier.foldl (fun a e => if e.park = m + 1 then a ||| e.mask else a) 0

/-- Every lane enrolled in `m` has arrived, counting the lanes `more` (R117 step 2). -/
def Wave.maskDone (w : Wave) (m : Nat) (more : W32) : Bool := w.getM m &&& ~~~(w.parkedOn m ||| more) == 0

/-- Releases every lane parked on `m` and clears `m` (R117 steps 3 and 5). -/
def Wave.releaseMask (w : Wave) (m : Nat) : Wave :=
  { w.setM m 0 with frontier := w.frontier.map fun e => if e.park = m + 1 then { e with park := 0 } else e }

/-- R117 step 6. -/
def Wave.checkMask (w : Wave) (m : Nat) : Wave := if w.maskDone m 0 then w.releaseMask m else w

/-- Ends lanes: their bits go from every mask, and they leave the frontier (R115). -/
def Wave.endLanes (w : Wave) (lanes : W32) : Wave :=
  let w1 := { w with frontier := (w.frontier.map fun e => { e with mask := e.mask &&& ~~~lanes }).filter fun e => e.mask != 0 }
  (List.range 12).foldl (fun w m =>
    if w.getM m &&& lanes = 0 then w else (w.setM m (w.getM m &&& ~~~lanes)).checkMask m) w1

/-- The order of entries (R10). -/
def Entry.before (a e : Entry) : Bool :=
  decide (e.prio < a.prio) ||
    (a.prio == e.prio && (decide (a.hdr < e.hdr) || (a.hdr == e.hdr && decide (a.idx < e.idx))))

/-- The first entry in the order of R10. -/
def firstEntry : List Entry → Option Entry
  | [] => none
  | e :: t => match firstEntry t with
    | none => some e
    | some a => if a.before e then some a else some e

/-- R119: every live lane is parked at a WAITM and no mask is complete. -/
def deadlocked (w : Wave) : Bool :=
  !w.frontier.isEmpty && w.frontier.all (fun e => decide (1 ≤ e.park) && decide (e.park ≤ 12)) &&
    (List.range 12).all fun m => w.parkedOn m == 0 || !w.maskDone m 0

/-- Evaluates R119 for a wave; the fault is fatal to its block. -/
def checkDeadlock (s : State) (r : WRef) : State :=
  match s.wave? r with
  | none => s
  | some (b, w) =>
    if deadlocked w then
      match firstEntry w.frontier with
      | some e => fatalFault s b (some w) 10 0 0 (16 * e.hdr.toNat) (e.idx - 1) w.live
      | none => s
    else s

/-! ## Trap mode (R277 to R280) -/

/-- Restores s120 to s127 and MODE from a frame, and frees it (R279 step 4). An RND of 5 to 7 leaves MODE unchanged. -/
def restoreFrame (s : State) (r : WRef) (oid frame clk : Nat) (bytes : List Byte) : State :=
  let ws := bytesWords bytes
  let m := (ws[14]?).getD 0
  let s1 := s.mapWave r.blk r.wave fun w =>
    let w1 := (List.range 8).foldl (fun w i => w.force (120 + i) ((ws[i]?).getD 0)) w
    let w2 := { w1 with trap := none }
    if 5 ≤ m.toNat % 8 then w2 else w2.setMode clk ((m &&& 0x1F1F#32) ||| (w1.mode &&& 0x10000#32))
  { s1 with trapFrames := freeSlot s1.trapFrames oid frame }

/-- A free trap frame of an owner (R277). -/
def freeFrame? (s : State) (oid : Nat) : Option Nat :=
  (List.range (2 ^ s.ctxTslog oid)).find? fun i => !s.trapFrames.contains (oid, i)

/-- The 64 bytes that entering the handler writes in the frame (Table 13.5): s120 to s127, the return position, the clause's address,
P, k and the kind, and MODE. -/
def frameBytes (c : Ctx) (kind k : Nat) (p : W32) (ret : Nat) : List Byte :=
  (List.range 8).flatMap (fun j => bytesLE 4 (c.readS true (120 + j)).toNat) ++ bytesLE 8 ret ++
    bytesLE 8 c.caddr ++ bytesLE 4 p.toNat ++ bytesLE 4 (k + 256 * kind) ++ bytesLE 4 (c.w.modeAt c.clk).toNat

/-- A wave that enters the handler (R277): s120 and s121 hold the frame's address, s122 holds k, s123 holds P, the lanes of P stand at
the handler, the others where `rest` has them. -/
def inHandler (s : State) (c : Ctx) (i k : Nat) (p : W32) (rest : List Entry) (at0 : Nat) (w : Wave) : Wave :=
  let fa := s.tstack c.b.oid + 64 * i
  let w1 := replaceEntry w c.ref.lane (entryAt s c.b (BitVec.ofNat 60 (s.thvec c.b.oid / 16)) p at0 :: rest)
  let w2 := (((w1.force 120 (BitVec.ofNat 32 fa)).force 121 (BitVec.ofNat 32 (fa / 2 ^ 32))).force 122 (BitVec.ofNat 32 k)).force 123 p
  { w2 with trap := some { lanes := p, frame := i } }

/-- The machine after a trap: the frame is taken, and the wave is in the handler. -/
def trapTaken (s : State) (c : Ctx) (i k : Nat) (p : W32) (rest : List Entry) (at0 : Nat) : State :=
  let t := s.mapWave c.ref.blk c.ref.wave (inHandler s c i k p rest at0)
  { t with trapFrames := t.trapFrames ++ [(c.b.oid, i)] }

/-- A trap frame of an owner is held, or an earlier write of the hardware waits (R363). -/
def frameHeld (s : State) (oid frame : Nat) (wr : Bool) : Bool :=
  s.path.any (fun p => p.core == hwCore) || pinsHeld s oid [(s.tstack oid + 64 * frame, 64)] wr

/-- Lanes that leave empty the trap set of a wave, and its frame, which is then read, is held. -/
def leaveHeld (s : State) (w : Wave) (oid : Nat) (lanes : W32) : Bool :=
  w.trap.any fun t => t.lanes &&& ~~~lanes == 0 && frameHeld s oid t.frame false

/-- ENTERING THE HANDLER (R277, R280): the frame is written, s120 to s123 receive its address, k and P, the lanes of P stand at
THVEC, and the wave enters trap mode; MODE is left unchanged. `rest` places the other lanes. -/
def enterTrap (s : State) (c : Ctx) (kind k : Nat) (p : W32) (ret : Nat) (rest : List Entry) (at0 : Nat) : Except Stop State :=
  match freeFrame? s c.b.oid with
  | none => c.wait s
  | some i =>
    if frameHeld s c.b.oid i true then c.wait s
    else match pinWrite s c.b.oid (s.tstack c.b.oid + 64 * i) (frameBytes c kind k p ret) with
    | none => .error (.double (pinBad s c.b.oid true [(s.tstack c.b.oid + 64 * i, 64)]) c.e.mask)
    | some s1 => .ok (trapTaken s1 c i k p rest at0)

/-- A trap frame as its core reads it: its own stores first, which a handler may have made to the frame (R230, R279). -/
def frameRead (s : State) (b : Block) (frame : Nat) : Option (List Byte) :=
  match rangeKeys s (s.hw b.oid) { rd := true, wr := false, pin := true } (s.tstack b.oid + 64 * frame) 64 with
  | .ok l => some (l.map (coreByte s b.die b.core))
  | .error _ => none

/-- The stores of a core to a trap frame of its owner that have not been performed. -/
def frameStore (s : State) (b : Block) (frame : Nat) (p : Pending) : Bool :=
  onCorePath b.die b.core p &&
    match rangeKeys s (s.hw b.oid) { rd := true, wr := false, pin := true } (s.tstack b.oid + 64 * frame) 64 with
    | .ok l => l.any fun k => k / 128 == p.key / 128
    | .error _ => false

/-- LEAVING THE HANDLER: lanes leave the trap set; when it becomes empty the frame is restored and freed (R278, R279). A frame
that cannot be read or written is a double fault. -/
def leaveTrap (s : State) (r : WRef) (oid : Nat) (lanes : W32) : Except Stop State :=
  match s.wave? r with
  | none => .ok s
  | some (b, w) =>
    match w.trap with
    | none => .ok s
    | some t =>
      let left := t.lanes &&& ~~~lanes
      let fa := s.tstack oid + 64 * t.frame
      if left = 0 then
        match frameRead s b t.frame with
        | none => .error (.double (pinBad s oid false [(fa, 64)]) lanes)
        | some l => .ok (restoreFrame s r oid t.frame (s.clkOf b.die) l)
      else .ok (s.mapWave r.blk r.wave fun w => { w with trap := some { t with lanes := left } })

/-! ## Issue (R42) -/

/-- Whether an instruction may stand where the entry reaches it (R28, R29, R144). -/
def placedWell (c : Ctx) (opc : Nat) : Bool :=
  (match classOf opc with
    | none => true
    | some k => hdrClass c.hdr == k) &&
  (!mustEnd opc || c.e.idx == hdrCnt c.hdr)

/-- Ends an issue that stopped. -/
def stopped (s : State) (c : Ctx) : Stop → State
  | .fault cls detail va lm => takeFault s c cls detail va lm
  | .page va lanes s1 => takePage s1 c.ref c.b.oid c.b.glade va lanes
  | .record va lanes s1 => takePageAs (.record c.ref) s1 c.ref c.b.oid c.b.glade va lanes
  | .hold h s1 => s1.mapEntry c.ref fun e => { e with hold := h, notBefore := max e.notBefore (c.clk + 1) }
  | .double va lanes => doubleAt s (blockRecord s c.b (some c.w) 14 0 va c.caddr c.e.idx lanes true)

/-- The lanes of a fault of the whole instruction: those that would have taken part, if any (R272). -/
def Stop.among (c : Ctx) (f : Fields) : Stop → Stop
  | .fault cls detail va lm => .fault cls detail va (if lm = c.e.mask ∧ c.parts f ≠ 0 then c.parts f else lm)
  | .record va lm s => .record va (if lm = c.e.mask ∧ c.parts f ≠ 0 then c.parts f else lm) s
  | .page va lm s => .page va (if lm = c.e.mask ∧ c.parts f ≠ 0 then c.parts f else lm) s
  | .double va lm => .double va (if lm = c.e.mask ∧ c.parts f ≠ 0 then c.parts f else lm)
  | .hold h s => .hold h s

/-- The issue of an instruction: the encoding, class and position checks, then its meaning `k`. -/
def issueChecked (s : State) (c : Ctx) (opc : Nat) (f : Fields) (k : State → Ctx → Except Stop Go) :
    State :=
  match check opc f with
  | .error _ => takeFault s c 1 0 0 c.e.mask
  | .ok _ =>
    if placedWell c opc then
      match k s c with
      | .error e => stopped s c (e.among c f)
      | .ok (.seq s1) => advance c f s1
      | .ok (.placed s1) => settleAt s1 { blk := c.ref.blk, wave := c.ref.wave }
    else takeFault s c 1 0 0 c.e.mask

end Sys2Proof.Machine
end

