-- ==== Sys2Proof/Machine/Flags.lean ====
section
/-!
DEFINITION. The settings that MODE holds and the sticky flags that operations raise (R22, R23, R62 to R64, R76).
-/
namespace Sys2Proof.Machine

/-- The rounding mode in force: RO when it is nonzero, else MODE.RND (R36, R62); the codes are those of MODE.RND. -/
def roundingOf (mode : W32) (f : Fields) : Nat :=
  if f.ro = 0#4 then mode.toNat % 8 else f.ro.toNat - 1

/-- Whether MODE flushes the subnormals of a type (R63): SUB32 for f32, SUB16 for f16 and f16x2. -/
def flushes (mode : W32) (t : Ty) : Bool :=
  match t with
  | .f32 => mode.getLsbD 3
  | .f16 | .f16x2 => mode.getLsbD 4
  | _ => false

/-- A result and the flags it raises: NV 1, DZ 2, OF 4, UF 8, NX 16, the order of MODE bits 8 to 12. -/
abbrev Res := Nat × Nat

def FRes.res (r : FRes) : Res := (r.bits, r.flags)

/-- A result that raises nothing. -/
def quiet (x : Nat) : Res := (x, 0)

/-- The carry out of A + B + c at width `w` (R78). -/
def carryOut (w a b c : Nat) : Bool := decide (2 ^ w ≤ a + b + c)

/-- The borrow out of A - B - c (R78). -/
def borrowOut (a b c : Nat) : Bool := decide (a < b + c)

/-- The flags of every participating lane together (R74). -/
def allFlags (l : List Res) : Nat := l.foldl (fun a r => orFlags a r.2) 0

end Sys2Proof.Machine
end

