-- ==== Sys2Proof/Machine/Operands.lean ====
section
/-!
DEFINITION. Every operand form: the kinds that a position accepts (R37, R71), constants (R38), source modifiers (R39), the
result queue (R17), engine queues (R20, R25, R192, R221, R284), early reads (R24, R43, R44), and the writing of results.
-/
namespace Sys2Proof.Machine

/-! ## Register ranges and the scoreboard (R44) -/

/-- Registers that operand `k` covers from the one it names. -/
def spanOf (opc : Nat) (f : Fields) (k : Nat) : Nat :=
  let n (o : Operand) (d : Nat) : Nat := match o with
    | .int i => i.val
    | _ => d
  let w := if is64 f.ty then 2 else 1
  match opc, k with
  | 0x04E, 0 | 0x04F, 0 | 0x050, 0 | 0x08D, 0 => 1
  | 0x181, 2 => n f.op3 1
  | 0x182, 0 | 0x185, 0 => 2
  | 0x183, 0 | 0x186, 0 => 3
  | 0x184, 0 | 0x187, 0 => 4
  | 0x1C2, 0 => 2
  | 0x200, 0 | 0x202, 0 => w * n f.op3 1
  | 0x201, 3 | 0x203, 3 => w * n f.op4 1
  | 0x200, 1 | 0x201, 1 | 0x207, 1 | 0x243, 1 | 0x244, 1 | 0x245, 1 => 2
  | 0x240, 1 | 0x241, 1 | 0x242, 1 | 0x246, 1 => if f.inStash then 1 else 2
  | 0x202, 1 | 0x203, 1 => 1
  | 0x204, 1 => 2
  | 0x2C5, 0 | 0x2C8, 0 => n f.op2 1
  | 0x2C7, 1 => n f.op2 16
  | 0x301, 1 => n f.op2 1
  | 0x302, _ | 0x303, _ => 2
  | 0x304, 1 | 0x305, 1 | 0x306, 1 => 2
  | 0x340, 2 | 0x341, 0 => if f.ty = .f32 then 4 else w
  | 0x342, 0 | 0x343, 0 => 4
  | 0x342, 1 | 0x343, 1 => 2
  | 0x342, 2 | 0x343, 2 => 8
  | 0x343, 3 => 4
  | 0x344, 1 => 9
  | 0x344, 3 => 2
  | 0x381, 2 => n f.op3 1
  | _, 0 => w
  | _, _ => if is64 (readTy opc f k) then 2 else 1

/-- The v, s and p registers that an instruction names. -/
def regsNamed (opc : Nat) (f : Fields) : List Reg :=
  [Reg.p f.ga.toNat, Reg.p f.gb.toNat] ++ [0, 1, 2, 3, 4].flatMap fun k =>
    match f.op k with
    | .v n => (List.range (spanOf opc f k)).map fun i => Reg.v (n.val + i)
    | .s n => (List.range (spanOf opc f k)).map fun i => Reg.s (n.val + i)
    | .p n => [Reg.p n.val]
    | _ => []

/-- The scalars that entering the handler writes and saves, and that leaving it restores (R277 to R280). -/
def handlerRegs (c : Ctx) (opc : Nat) : List Reg :=
  if opc = 0x380 ∨ opc = 0x383 ∨ (c.w.trap.isSome ∧ (opc = 0x382 ∨ opc = 0x1C8)) then
    (List.range 8).map fun i => Reg.s (120 + i) else []

/-- With MODE.ILK = 1 the scoreboard holds an instruction that reads or writes a register which an earlier one has still to write, or a
wide form within 3 clk of the scalar's writer (R24, R44). -/
def scoreboard (c : Ctx) (opc : Nat) (f : Fields) : Bool :=
  c.w.ilk &&
    let regs := regsNamed opc f ++ handlerRegs c opc
    (c.w.recent.any fun r => regs.contains r.reg && decide (c.clk < (if r.scalar then r.issued + 3 else r.ready))) ||
      c.w.ops.any fun o => o.writes.any fun x => regs.contains x.reg

/-! ## The result queue (R17) -/

/-- Queue entry `k` for what the lanes read: an illegal operand for the lanes that read a clear valid bit, a wait until it is
filled. -/
def readQ (s : State) (c : Ctx) (k : Nat) (rs : Reads) : Except Stop (List W32) :=
  match c.w.q[k]? with
  | none => if rs.isEmpty then .ok (List.replicate 32 0) else .error (.fault 2 0 0 (lanesMask (rs.map fun p => p.1)))
  | some e =>
    match rs.filter fun p => !e.valid.getLsbD p.2 with
    | [] => if e.filled && decide (e.ready ≤ c.clk) then .ok e.vals else c.wait s
    | bad => .error (.fault 2 0 0 (lanesMask (bad.map fun p => p.1)))

/-! ## Engine queues -/

/-- e6 without the elements whose S lies 1 to 127 behind E (R25). -/
def Wave.dropStale (w : Wave) : List (W32 × BitVec 8) :=
  w.e6.dropWhile fun x => 1 ≤ (w.seqE - x.2).toNat && (w.seqE - x.2).toNat ≤ 127

/-- Pops what a readable queue gives an instruction: a word for each lane, and the wave after it. `scalar` tells the form. -/
def popE (s : State) (c : Ctx) (w : Wave) (n : Nat) (scalar : Bool) : Except Stop (List W32 × Wave) :=
  match n with
  | 2 =>                                                                    -- R192
    if scalar then c.illegalOp
    else match w.e2 with
      | [] => c.wait s
      | x :: t => .ok (x, { w with e2 := t })
  | 4 =>                                                                    -- R221
    match w.e4 with
    | [] => c.wait s
    | x :: t => .ok (List.replicate 32 x, { w with e4 := t })
  | 6 =>                                                                    -- R25
    if !scalar then c.illegalOp
    else if w.ilk then
      let hold := c.wait (s.mapWave c.ref.blk c.ref.wave fun w => { w with e6 := w.dropStale })
      match w.dropStale with
      | [] => hold
      | x :: t => if x.2 = w.seqE then .ok (List.replicate 32 x.1, { w with e6 := t, seqE := w.seqE + 1 }) else hold
    else match w.e6 with
      | [] => c.wait s
      | x :: t => .ok (List.replicate 32 x.1, { w with e6 := t, seqE := x.2 + 1 })
  | 7 =>                                                                    -- R284
    match w.e7 with
    | [] => c.wait s
    | x :: t =>
      let v := if scalar then List.replicate 32 (match lanesOf x.mask with
          | [] => 0
          | l :: _ => (x.vals[l]?).getD 0) else x.vals
      .ok (v, { w with e7 := t })
  | _ => c.illegalOp

/-! ## Reading sources -/

/-- A register pair's or register's number is legal: even for a pair, inside the claim (R18, R19). -/
def pairOk (n lim : Nat) (pair : Bool) : Bool := if pair then n % 2 == 0 && decide (n + 1 < lim) else decide (n < lim)

/-- A 32- or 64-bit value from words. -/
def joinPair (lo hi : W32) : Nat := lo.toNat + 2 ^ 32 * hi.toNat

/-- The values of a source operand of read type `t` in every lane, before its modifier, for what the lanes read; and the wave
with what it popped. -/
def readFrom (s : State) (c : Ctx) (w : Wave) (o : Operand) (t : Ty) (scalar : Bool) (rs : Reads) :
    Except Stop (List Nat × Wave) :=
  let pair := is64 t
  let const (x : Option Nat) : Except Stop (List Nat × Wave) := match x with
    | some v => .ok (List.replicate 32 v, w)
    | none => c.illegalOp
  match o with
  | .v n =>
    if scalar || !pairOk n (8 * c.w.claim) pair then c.illegalOp
    else .ok (lanes32.map fun l =>
      if pair then joinPair (c.readV n l) (c.readV (n + 1) l) else (c.readV n l).toNat, w)
  | .q k =>
    if scalar || (pair && k.val = 15) then c.illegalOp
    else if pair then
      match readQ s c (k + 1) rs, readQ s c k rs with
      | .ok lo, .ok hi => .ok ((lo.zip hi).map fun p => joinPair p.1 p.2, w)
      | .error e, _ => .error e
      | _, .error e => .error e
    else match readQ s c k rs with
      | .ok l => .ok (l.map fun x => x.toNat, w)
      | .error e => .error e
  | .s n =>
    if !pairOk n 128 pair then c.illegalOp
    else .ok (List.replicate 32 (if pair then joinPair (c.readS scalar n) (c.readS scalar (n + 1)) else (c.readS scalar n).toNat), w)
  | .e n =>
    if pair then c.illegalOp
    else match popE s c w n scalar with
      | .ok (l, w1) => .ok (l.map fun x => x.toNat, w1)
      | .error e => .error e
  | .lane => if scalar then c.illegalOp else match intConst t 0 with
    | none => c.illegalOp
    | some _ => .ok (lanes32.map fun l => (intConst t l).getD 0, w)
  | .wave => const (intConst t c.w.wave)
  | .zero => .ok (List.replicate 32 0, w)
  | .litLo => .ok (List.replicate 32 (if pair then c.lit else c.lit % 2 ^ 32), w)
  | .litHi => if pair then c.illegalOp else .ok (List.replicate 32 (c.lit / 2 ^ 32), w)
  | .ones => .ok (List.replicate 32 (if pair then 2 ^ 64 - 1 else 2 ^ 32 - 1), w)
  | .int n => const (intConst t n)
  | .flt n => const (fltConst t n)
  | _ => c.illegalOp

/-- A source operand that each lane of `act` reads for itself. -/
def readRaw (s : State) (c : Ctx) (w : Wave) (o : Operand) (t : Ty) (scalar : Bool) (act : W32) :
    Except Stop (List Nat × Wave) := readFrom s c w o t scalar (ownReads act)

/-- The scalar registers that wide sources name: two different ones are an illegal operand (R37). -/
def oneScalar (f : Fields) (use : Nat) : Bool :=
  let ss := [1, 2, 3, 4].filterMap fun k => if hasBit use k then (match f.op k with
    | .s n => some n.val
    | _ => none) else none
  match ss with
  | [] => true
  | a :: t => t.all fun b => a == b

/-- The absolute value that an opcode's source modifiers take (R39, R87). -/
def absOf (opc : Nat) : Ty → Nat → Nat := if opc / 64 = 2 ∨ opc / 64 = 3 then absFloat else absElem

/-- Reads one source with its modifier, where the lanes read what `rs` says of it. -/
def readLanes (s : State) (c : Ctx) (w : Wave) (opc : Nat) (f : Fields) (scalar : Bool) (rs : Reads) (k : Nat) :
    Except Stop (List Nat × Wave) :=
  let m := if k ≤ 3 then f.sm k else 0#12
  let m := if (opc / 64 = 8 ∨ opc / 64 = 9) ∧ k ≠ 3 then 0#12 else m
  let t := readTy opc f k
  match readFrom s c w (f.op k) t scalar (throughModifier m rs) with
  | .error e => .error e
  | .ok (l, w1) => .ok (modify (absOf opc) m t l, w1)

/-- Reads one source that each lane of `act` reads for itself. -/
def readSrc (s : State) (c : Ctx) (w : Wave) (opc : Nat) (f : Fields) (scalar : Bool) (act : W32) (k : Nat) :
    Except Stop (List Nat × Wave) := readLanes s c w opc f scalar (ownReads act) k

/-- Reads the sources `ks` in order. -/
def readSrcs (s : State) (c : Ctx) (opc : Nat) (f : Fields) (scalar : Bool) (act : W32) :
    List Nat → Wave → Except Stop (List (List Nat) × Wave)
  | [], w => .ok ([], w)
  | k :: t, w =>
    match readSrc s c w opc f scalar act k with
    | .error e => .error e
    | .ok (l, w1) =>
      match readSrcs s c opc f scalar act t w1 with
      | .error e => .error e
      | .ok (ls, w2) => .ok (l :: ls, w2)

/-- Whether this word is a scalar form (R34). -/
def isScalar (opc : Nat) (f : Fields) : Bool :=
  match specOf opc with
  | some sp => scalarForm (specIn sp opc f) f
  | none => false

/-! ## Destinations and results -/

/-- A register destination is legal: v, in scalar form s, or none; a pair is even and inside the claim (R18, R71). -/
def destOk (c : Ctx) (o : Operand) (scalar none pair : Bool) : Bool :=
  match o with
  | .v n => pairOk n (8 * c.w.claim) pair
  | .s n => scalar && pairOk n 128 pair
  | .none => none
  | _ => false

/-- The words of per-lane values: low halves, and high halves for pairs. -/
def wordsOf (pair : Bool) (vals : List Nat) : List (List W32) :=
  (vals.map fun x => BitVec.ofNat 32 x) :: (if pair then [vals.map fun x => BitVec.ofNat 32 (x / 2 ^ 32)] else [])

/-- The issuing instruction is a load or an atomic: groups 8 and 9, and the plain loads of PXLD, TEX and TEXF (R339, R352, R367). -/
def Ctx.isAccess (c : Ctx) : Bool :=
  c.opcode / 64 == 8 || c.opcode / 64 == 9 || [0x341, 0x342, 0x343].contains c.opcode

/-- The flag that FSEL names, where the header makes it valid (R30 step 3). -/
def flagOf (c : Ctx) (f : Fields) : Option Nat := if f.fsel then hdrFlagB c.hdr else hdrFlagA c.hdr

/-- The register writes of a result: registers from `n`, one per word list. -/
def resultWrites (o : Operand) (mask : W32) (ws : List (List W32)) : List RegWrite :=
  match o with
  | .v n => ws.zipIdx.map fun p => { reg := .v (n + p.2), mask := mask, vals := p.1 }
  | .s n => ws.zipIdx.map fun p => { reg := .s (n + p.2), mask := 1, vals := p.1 }
  | .p n => (ws.take 1).map fun (l : List W32) =>
      { reg := .p n, mask := mask, vals := [maskOf fun i => (l[i]?).getD 0 != 0] }
  | _ => []

/-- Delivers fixed-latency results at issue (R75): registers, one result-queue entry per word for a wide v or none destination, which
is filled when the instruction completes (R17), and the sticky bits that are raised then (R23). A scalar form's result may be read by
scalar forms after 1 clk, f64 too, of which R75 gives a longer latency for wide forms: log entry 52. -/
def deliverNow (c : Ctx) (w : Wave) (o : Operand) (scalar : Bool) (mask : W32) (lat : Nat) (ws : List (List W32)) (fl : Nat) :
    Wave :=
  let w1 := (resultWrites o mask ws).foldl (fun w r => w.write c.clk (if scalar then 1 else lat) scalar r) w
  let push := !scalar && match o with
    | .v _ | .none => true
    | _ => false
  (if push then ws.foldl (fun w l => w.pushQ mask true (c.clk + lat) l) w1 else w1).raise c.raises c.clk (if scalar then 1 else lat) fl

/-- Starts long-latency work: its result-queue entries wait for their fill, and it is counted on its flag (R17, R30). Work with
no participating lane completes at issue. -/
def startLong (c : Ctx) (w : Wave) (f : Fields) (id : Nat) (o : Operand) (scalar : Bool) (mask : W32) (ready : Bool)
    (ws : List (List W32)) (fl : Nat) (rast : Option Rast) : Wave :=
  let push := !scalar && match o with
    | .v _ | .none => true
    | _ => false
  let n := ws.length
  if mask = 0 && !scalar && rast.isNone then
    if push then ws.foldl (fun w l => w.pushQ 0 true c.clk l) w else w
  else
    let tags := if push then (List.range n).map fun i => w.pushes + i else []
    let w1 := if push then ws.foldl (fun w _ => w.pushQ mask false c.clk (List.replicate 32 0)) w else w
    let qs := (tags.zip ws).map fun p => { reg := Reg.q p.1, mask := mask, vals := p.2 : RegWrite }
    { w1 with ops := w1.ops ++ [{ id := id, access := c.isAccess, raises := c.raises, flag := flagOf c f, ready := ready, due := c.clk + 1,
                                  writes := resultWrites o mask ws ++ qs, qtags := tags, sticky := BitVec.ofNat 5 fl,
                                  ovr := [], rast := rast, remote := none }] }

/-- Replaces the issuing wave. -/
def State.withWave (s : State) (c : Ctx) (w : Wave) : State := s.mapWave c.ref.blk c.ref.wave fun _ => w

/-- Delivers a result as its class has it (R75). An instruction that pops a queue is long-latency. -/
def result (s : State) (c : Ctx) (w : Wave) (f : Fields) (o : Operand) (scalar long : Bool) (mask : W32) (lat : Nat)
    (ws : List (List W32)) (fl : Nat) : State :=
  if long then
    let (id, s1) := s.fresh
    s1.withWave c (startLong c w f id o scalar mask true ws fl none)
  else s.withWave c (deliverNow c w o scalar mask lat ws fl)

/-- Work counted on a flag that writes no register (STMAP, STUNMAP, STFLUSH and others). -/
def countOnFlag (s : State) (c : Ctx) (f : Fields) (id : Nat) (ready : Bool) : State :=
  s.mapWave c.ref.blk c.ref.wave fun w => startLong c w f id .none true c.e.mask ready [] 0 none

/-- Counts completed work on a flag under a fresh number. -/
def counted (s : State) (c : Ctx) (f : Fields) : State :=
  let (id, s1) := s.fresh
  countOnFlag s1 c f id true

/-- An instruction that is long-latency only because one of its sources `use` pops an engine queue is counted on its flag (R30). -/
def countPops (s : State) (c : Ctx) (f : Fields) (use : Nat) : State :=
  if popsQueue f use && c.parts f != 0 then counted s c f else s

/-- An element of type `t` written as a whole result (R50): sign-extended for the i types, zero-extended for the rest. -/
def extendElem (t : Ty) (x : Nat) : Nat :=
  let w := elemWidth t
  if w < 32 ∧ isSigned t then wrapTo 32 (toSigned w x) else x % 2 ^ w

/-- A result of type `t` from its elements (R50). -/
def packResult (t : Ty) (l : List Nat) : Nat :=
  if elemCount t = 1 then extendElem t (l.headD 0) else joinElems (elemWidth t) l

/-! ## The issue of an instruction -/

/-- The issue of the entry that `cur` names. -/
def issue (opc : Nat) (f : Fields) (s : State) (k : State → Ctx → Except Stop Go) : Host.Outcome State Fault Refusal :=
  match ctxOf s with
  | none => .refused .noIssuingEntry
  | some c =>
    if scoreboard c opc f then .next (stopped s c (.hold .blocked s))
    else .next (issueChecked { s with free := s.free + 1 } c opc f k)

/-- An instruction that writes a register from its value sources `ks` (R74): per lane, or once in scalar form. `pair` tells a
64-bit result, `lat` its latency and `long` whether it is long-latency; `none` whether 1023 is a legal destination. -/
def computing (opc : Nat) (ks : List Nat) (pair : Bool) (lat : Nat) (long none : Bool) (fn : W32 → List Nat → Res) (f : Fields)
    (s : State) : Host.Outcome State Fault Refusal :=
  issue opc f s fun s c =>
    let scalar := isScalar opc f
    let act := c.parts f
    if !destOk c f.op0 scalar none pair then c.illegalOp
    else if !scalar && !oneScalar f (ks.foldl (fun a k => a + 2 ^ k) 0) then c.illegalOp
    else match readSrcs s c opc f scalar act ks c.w with
      | .error e => .error e
      | .ok (ls, w) =>
        let at0 (l : Nat) : List Nat := ls.map fun v => (v[l]?).getD 0
        let rs : List Res := if scalar then List.replicate 32 (fn c.w.mode (at0 0))
          else lanes32.map fun l => if act.getLsbD l then fn c.w.mode (at0 l) else (0, 0)
        .ok (.seq (result s c w f f.op0 scalar (long || popsQueue f (ks.foldl (fun a k => a + 2 ^ k) 0)) act lat
          (wordsOf pair (rs.map fun r => r.1)) (allFlags rs)))

end Sys2Proof.Machine
end

