-- ==== Sys2Proof/Machine/Spaces.lean ====
section
/-!
DEFINITION. The accesses of threads: address operands (R159), where an access goes (R150, R152, R155, R160), and what reading and
writing there does (R151, R162, R230).
-/
namespace Sys2Proof.Machine

/-! ## Addresses (R159) -/

/-- The base in each lane: a pair, the 64-bit literal, or for the stash a 32-bit register or zero. -/
def baseVals (s : State) (c : Ctx) (w : Wave) (o : Operand) (stash scalar : Bool) (act : W32) :
    Except Stop (List Nat × Wave) :=
  let ok : Bool := match o with
    | .v _ | .q _ | .s _ => true
    | .litLo => !stash
    | .zero => stash
    | _ => false
  if !ok then c.illegalOp else readRaw s c w o (if stash then .n32 else .n64) scalar act

/-- The offset in bytes, for elements of `e` bytes. -/
def offsetOf (c : Ctx) (o : Operand) (e : Nat) : Option Int :=
  match o with
  | .zero => some 0
  | .int k => some (k.val * e : Nat)
  | .litLo => some (toSigned 32 c.lit)
  | .litHi => some (toSigned 32 (c.lit / 2 ^ 32))
  | _ => none

/-- The address of an access in each lane. -/
def addresses (s : State) (c : Ctx) (w : Wave) (f : Fields) (stash scalar : Bool) (e : Nat) (act : W32) :
    Except Stop (List Nat × Wave) :=
  match offsetOf c f.op2 e with
  | none => c.illegalOp
  | some d =>
    match baseVals s c w f.op1 stash scalar act with
    | .error x => .error x
    | .ok (l, w1) => .ok (l.map (fun (a : Nat) => wrapTo (if stash then 32 else 64) ((a : Int) + d)), w1)

/-! ## Where an access goes -/

/-- A checked access: to the block's stash by offset, a window byte included; to stash bytes under a window that another wave
has mapped and that no BAR has shown yet (R154); or to memory. -/
inductive Spot where
  | stash (off : Nat)
  | hidden (off : Nat)
  | mem (p : Place)
  deriving DecidableEq, Repr

/-- A window line in I is filled first, and one that is not in M is owned before it is written; both are checked by the firewall
(R155, R376). -/
def fillRefused (s : State) (b : Block) (off : Nat) (wr : Bool) : Option Nat :=
  match b.winOfOff off with
  | none => none
  | some w =>
    let t := w.target (off - w.off)
    match s.dirEnt? (t.key / 128) (.window b.uid w.win) with
    | some d => if wr && d.st != .modified then firewall s b.glade t true true else none
    | none => firewall s b.glade t true wr

/-- Where an access of a wave, or of an engine for it, goes that stays inside one line. -/
def spotAt (s : State) (b : Block) (wave : Nat) (stash : Bool) (a : Nat) (need : Need) : Except AccFault Spot :=
  let inside (off : Nat) : Except AccFault Spot := match fillRefused s b off need.wr with
    | some d => .error (.prot d)
    | none => .ok (.stash off)
  if stash then
    match b.winOfOff a, (b.seenBy wave).winOfOff a with
    | some _, none => .ok (.hidden a)
    | _, _ => inside a
  else match (b.seenBy wave).winOfVa a with
    | some w => inside (w.off + (a - w.va))
    | none => match place s b.who a need with
      | .ok p => .ok (.mem p)
      | .error e => .error e

/-- The checks of one access of `n` bytes of a wave in the order of R160; with R152 for the stash. -/
def spotOf (s : State) (b : Block) (wave : Nat) (stash : Bool) (a n : Nat) (need : Need) : Except AccFault Spot :=
  if a % n ≠ 0 then .error .align
  else if stash && decide (b.z < a + n) then .error (.prot 0)
  else spotAt s b wave stash a need

/-- The piece that an access covers, for R363. -/
def Spot.piece (b : Block) (n : Nat) : Spot → Piece
  | .stash off => match b.winOfOff off with
    | some w => let k := (w.target (off - w.off)).key
                { blk := none, lo := k, hi := k + n }
    | none => { blk := some b.uid, lo := off, hi := off + n }
  | .hidden off => { blk := some b.uid, lo := off, hi := off + n }
  | .mem p => { blk := none, lo := p.tgt.key, hi := p.tgt.key + n }

/-- An access that is performed at once, and so comes after its core's own earlier stores to its line (R177, R178): a read-modify-write,
and a write through a window or to an uncached page. -/
def Spot.atOnce (need : Need) : Spot → Bool
  | .stash _ => need.wr
  | .hidden _ => false
  | .mem p => need.wr && (need.rd || p.ca != 0)

/-- A store of the block's core to the line of a piece waits for a command. -/
def lineStuck (s : State) (b : Block) (p : Piece) : Bool :=
  p.blk.isNone && !(stuckStores s (fun x => onCorePath b.die b.core x && x.key / 128 == p.lo / 128) s.path).isEmpty

/-- Checks accesses of lanes (R160): an alignment fault in any lane is the instruction's fault, failing that a protection fault,
failing that a page fault; then an owner's command (R363), a bias flip (R325) or an earlier store that waits (R177) may make it wait. A
page walk waits in the same way. -/
def checkAccesses (s : State) (c : Ctx) (stash : Bool) (acc : List (Nat × Nat × Need)) (n : Nat) (scalar : Bool) :
    Except Stop (List (Nat × Spot)) :=
  let os := owners s
  let rs := acc.map fun a => (a, spotOf s c.b c.ref.wave stash a.2.1 n a.2.2)
  let bad (p : AccFault → Bool) : List (Nat × Nat × AccFault) := rs.filterMap fun r => match r.2 with
    | .error e => if p e then some (r.1.1, r.1.2.1, e) else none
    | .ok _ => none
  let lm (l : List (Nat × Nat × AccFault)) : W32 := if scalar then c.e.mask else maskOf fun i => l.any fun x => x.1 == i
  let al := bad fun e => e == .align
  let pr := bad fun e => e.rank == 1
  let pg := bad fun e => e == .page
  if al.isEmpty && anyHeld s && !stash && acc.any fun a => ((c.b.seenBy c.ref.wave).winOfVa a.2.1).isNone && walkHeld s os c.b.who a.2.1 then
    c.wait s
  else match al, pr, pg with
  | a :: _, _, _ => .error (.fault 4 0 a.2.1 (lm al))
  | [], a :: _, _ =>
    let d := match a.2.2 with
      | .prot d => d
      | _ => 0
    .error (.fault 6 d a.2.1 (lm pr))
  | [], [], a :: _ => .error (.page a.2.1 (lm pg) s)
  | [], [], [] =>
    let ok := rs.filterMap fun r => match r.2 with
      | .ok q => some (r.1.1, q, r.1.2.2)
      | .error _ => none
    let flips (p : Piece) : Bool := p.blk.isNone && !(s.flipsOf p.lo).isEmpty
    if !os.isEmpty && ok.any fun r => waitsFor os (r.2.1.piece c.b n) r.2.2.wr then c.wait s
    else if !s.flips.isEmpty && ok.any fun r => flips (r.2.1.piece c.b n) then c.wait s
    else if !s.path.isEmpty && ok.any fun r => r.2.1.atOnce r.2.2 && lineStuck s c.b (r.2.1.piece c.b n) then c.wait s
    else .ok (ok.map fun r => (r.1, r.2.1))

/-- One access for each of the lanes `ls`. -/
def spotsOf (s : State) (c : Ctx) (stash : Bool) (ls : List Nat) (addr : Nat → Nat) (n : Nat) (need : Need) (scalar : Bool) :
    Except Stop (List (Nat × Spot)) := checkAccesses s c stash (ls.map fun l => (l, addr l, need)) n scalar

/-! ## Reading and writing -/

/-- A byte of the control block as a core reads it, after the register writes that are under way. -/
def registerByte (s : State) (off : Nat) : Byte :=
  let r := off / 8 * 8
  if s.dcbSoon.any fun m => m.1 == r then BitVec.ofNat 8 ((s.regSoon r).toNat / 256 ^ (off % 8)) else targetByte s 0 0 (.dcb off)

/-- The bytes of an access as the block reads them. -/
def spotBytes (s : State) (b : Block) (n : Nat) : Spot → List Byte
  | .stash off => stashBytes s b off n
  | .hidden off => (List.range n).map fun i => spGet 0 (match s.block? b.uid with
    | some x => x.stash
    | none => b.stash) (off + i)
  | .mem p => match p.tgt with
    | .dcb off => (List.range n).map fun i => registerByte s (off + i)
    | t => (List.range n).map fun i => coreByte s b.die b.core (t.key + i)

/-- A read of cacheable memory allocates in L2 and in the core's L1, as its hint and its page let it (Table 7.3). -/
def allocate (s : State) (b : Block) (hint : Nat) (p : Place) : State :=
  if p.ca ≠ 0 then s
  else
    let line := p.tgt.key / 128
    let s1 := if hint = 5 then s else readShared s line (.l2 (homeSlice s b.glade p.tgt.key))
    if hint = 3 then tagLines b.oid s1 [p.tgt.key]
    else
      let s2 := readShared s1 line (.l1 b.die b.core)
      tagLines b.oid { s2 with dir := updWhere (isEnt line (.l1 b.die b.core)) (fun d => { d with st := .shared }) s2.dir } [p.tgt.key]

/-- The link ports that the accesses of lanes use. -/
def portsOf (b : Block) (sp : List (Nat × Spot)) : List Nat :=
  (sp.filterMap fun p => portOfKey (p.2.piece b 1).lo).eraseDups

/-- The newest long-latency work of the issuing wave has requests in flight on the link ports of its accesses (R382). -/
def inFlight (s : State) (c : Ctx) (al : List Nat) (sp : List (Nat × Spot)) : State :=
  let ports := portsOf c.b sp
  if ports.isEmpty then s
  else
    let r : Remote := { ports := ports, va := (al[((sp.map fun p => p.1).headD 0)]?).getD 0, hdr := c.e.hdr, idx := c.e.idx, mask := c.e.mask }
    s.mapWave c.ref.blk c.ref.wave fun w =>
      let id := (w.ops.map fun o => o.id).foldl max 0
      { w with ops := updWhere (fun o => o.id == id) (fun o => { o with remote := some r }) w.ops }

/-- Every cached copy of a line is written back and invalidated, before an uncached access to it is performed (R230). -/
def uncacheLine (s : State) (line : Nat) : State :=
  let s1 := (s.dir.filter fun d => d.line == line).foldl writeBackEnt s
  { s1 with dir := s1.dir.filter fun d => d.line != line }

/-- The caches that a read of a line allocates in: the window's line, or those that `allocate` names. -/
def noteRead (s : State) (b : Block) (hint : Nat) (va : Nat) : Spot → State
  | .stash off => match b.winOfOff off with
    | some w => fillWindow s b.uid w (off - w.off)
    | none => s
  | .hidden _ => s
  | .mem p =>
    match p.tgt with
    | .dev _ _ | .host _ => allocate (if p.ca = 0 then fillTlb s b.who va else uncacheLine (fillTlb s b.who va) (p.tgt.key / 128)) b hint p
    | _ => fillTlb s b.who va

/-- Stores that overlap a line and stand in a core's store path are performed (R177). -/
def drainLine (s : State) (b : Block) (line : Nat) : State :=
  drainPath s fun p => p.die == b.die && p.core == b.core && p.key / 128 == line

/-- Asks for the register writes of bytes stored to the control block: they are the next moves, after those under way (R230). -/
def dcbWrite (s : State) (l : List (Nat × Byte)) : State :=
  let under (m : Move) : Bool := m.dcbWrite?.isSome
  if l.isEmpty then s else { s with agenda := s.agenda.takeWhile under ++ dcbMoves l s ++ s.agenda.dropWhile under }

/-- Bytes at rising offsets. -/
def bytesAt (off : Nat) (l : List Byte) : List (Nat × Byte) := (List.range l.length).zip l |>.map fun p => (off + p.1, p.2)

/-- Writes stash bytes that no window serves. -/
def scratchWrite (s : State) (blk off : Nat) (l : List Byte) : State :=
  let put (m : Sparse Byte) : Sparse Byte := ((List.range l.length).zip l).foldl (fun m p => spSet 0 (off + p.1) p.2 m) m
  s.mapBlock blk fun b => { b with stash := put b.stash }

/-- Writes stash bytes; of a window's line, after the core's own earlier stores to it (R177). -/
def stashWrite (s : State) (b : Block) (off : Nat) (l : List Byte) : State :=
  writeStash b.uid (match b.winOfOff off with
    | some w => drainLine s b ((w.target (off - w.off)).key / 128)
    | none => s) off l

/-- A plain store of a lane (R162, R230); `hint` is its cache hint, and `disp` the display and the pixel of a PXST. What it writes to the control block is asked for once for the whole
instruction. -/
def storeAt (s : State) (c : Ctx) (disp : Option (Nat × Nat × Nat)) (hint va : Nat) (l : List Byte) : Spot → State
  | .stash off => stashWrite s c.b off l
  | .hidden off => scratchWrite s c.b.uid off l
  | .mem p =>
    let b := c.b
    let s1 := fillTlb s b.who va
    match p.tgt with
    | .dcb _ => s1
    | t =>
      if p.ca = 0 then
        { s1 with path := s1.path ++ [{ die := b.die, core := b.core, blk := b.uid, wave := c.ref.wave, oid := b.oid, glade := b.glade,
                                        key := t.key, bytes := l, va := va, hdr := c.e.hdr, idx := c.e.idx, mask := c.e.mask, hint := hint, disp := disp }] }
      else directWrite (drainLine s1 b (t.key / 128)) t.key l

/-- The bytes that lanes store to the control block. -/
def dcbBytes (bs : List (List Byte)) (sp : List (Nat × Spot)) : List (Nat × Byte) :=
  sp.flatMap fun p => match p.2 with
    | .mem q => match q.tgt with
      | .dcb off => bytesAt off ((bs[p.1]?).getD [])
      | _ => []
    | _ => []

/-- The lanes of a store write, ascending. -/
def storeLanes (s : State) (c : Ctx) (hint : Nat) (al : List Nat) (bs : List (List Byte)) (sp : List (Nat × Spot)) : State :=
  dcbWrite (sp.foldl (fun s p => storeAt s c none hint ((al[p.1]?).getD 0) ((bs[p.1]?).getD []) p.2) s) (dcbBytes bs sp)

/-- A write performed at once by an agent that holds the line, as atomics and engines do. -/
def writeSpot (s : State) (b : Block) (h : Holder) (l : List Byte) : Spot → State
  | .stash off => stashWrite s b off l
  | .hidden off => scratchWrite s b.uid off l
  | .mem p => match p.tgt with
    | .dcb off => dcbWrite s (bytesAt off l)
    | t =>
      if p.ca ≠ 0 then directWrite (drainLine s b (t.key / 128)) t.key l else
      let s1 := drainLine s b (t.key / 128)
      tagLines b.oid (writeKeys h s1 ((List.range l.length).zip l |>.map fun q => (t.key + q.1, q.2))) [t.key]

/-- An engine's read of a window line fills it (R155). -/
def fillSpot (s : State) (b : Block) : Spot → State
  | .stash off => match b.winOfOff off with
    | some w => fillWindow s b.uid w (off - w.off)
    | none => s
  | _ => s

/-- Stash ranges that an engine reads, or writes with `wr`, for a wave: the lines of a window that are in I are filled (R155, R207). A
refused fill is told with its offset and the detail of Table 20.4 (R376). -/
def fillRanges (s : State) (b : Block) (wave : Nat) (wr : Bool) (rs : List (Nat × Nat)) : Except (Nat × Nat) State :=
  if b.windows.isEmpty then .ok s
  else (rs.flatMap fun r => cutAtGrain 128 r.1 r.2).foldl (fun acc q =>
    match acc with
    | .error e => .error e
    | .ok s => match spotAt s b wave true q.1 { rd := !wr, wr := wr } with
      | .error (.prot d) => .error (q.1, d)
      | .error _ => .ok s
      | .ok p => .ok (fillSpot s b p)) (.ok s)

/-! ## Commands enter the engines (R190, R221, R362) -/

/-- A holder takes a line that it will write, which clears the reservations on it (R169, R362); a window's line is filled as for a write
(R155). -/
def takeLine (b : Block) (id : Nat) (s : State) (line : Nat) : State :=
  let own (h : Holder) (s : State) : State := clearReservations (readOwn s line h) line
  match b.offOfKey (128 * line) with
  | some off => match b.winOfOff off with
    | some w => if (fillRefused s b off true).isSome then s else own (.window b.uid w.win) (fillWindow s b.uid w (off - w.off))
    | none => s
  | none => own (.engine id) s

/-- The lines that a command will write and that can be granted to it: no earlier command owns them, and their frame does not flip
(R328, R362). -/
def grantable (s : State) (os : List Owner) (o : Owner) : List Nat :=
  let before := os.filter fun x => x.id < o.id
  (pieceLines o.dst).filter fun line => cacheable (128 * line) && (s.flipsOf (128 * line)).isEmpty &&
    !before.any fun x => x.dst.any fun p => p.blk.isNone && p.lo / 128 == line

/-- A command takes the lines that it will write in M, by a read own; the others are granted to it later (`grantLines`). -/
def takeLines (s : State) (b : Block) (id : Nat) : State :=
  let os := owners s
  match os.find? fun o => o.id == id with
  | none => s
  | some o => (grantable s os o).foldl (takeLine b id) s

/-- The holder of a line that a command of a block takes: the block's window, or the engine. -/
def Block.takerOf (b : Block) (id line : Nat) : Holder :=
  match (b.offOfKey (128 * line)).bind b.winOfOff with
  | some w => .window b.uid w.win
  | none => .engine id

/-- Commands are granted the lines that were not theirs to take before: an earlier command has written them, a flip has ended, or their
page has been mapped (R328, R362). -/
def grantLines (s : State) : State :=
  let os := owners s
  os.foldl (fun s o => match s.block? o.blk with
    | some b => ((grantable s os o).filter fun l => !(s.dirEnt? l (b.takerOf o.id l)).any fun d => d.st == .modified).foldl (takeLine b o.id) s
    | none => s) s

/-- A copy record of 16 words enters the engine (R221). It observes the core's earlier stores (R224), and owns what it will write. -/
def enterCopy (s : State) (c : Ctx) (data : List Byte) : State :=
  let (id, s1) := (drainCore s c.b.die c.b.core).fresh
  let cp : Copy := { id := id, blk := c.ref.blk, wave := c.ref.wave, mask := c.e.mask, hdr := c.e.hdr, idx := c.e.idx,
                     record := BitVec.ofNat 512 (natLE data), row := 0, byte := 0, begun := false, payload := false, pf := none, saved := [] }
  takeLines { s1 with copies := s1.copies ++ [cp] } c.b id

/-- A matrix command enters the tenant's queue (R190). It observes the core's earlier stores (R206), and owns what it will write. -/
def enqueue (c : Ctx) (s : State) (id : Nat) (kind : MKind) (data : List Byte) (start count : Nat) (op : Option Nat) : State :=
  let cmd : MCmd := { id := id, kind := kind, data := data, acts := [], row := 0, start := start, count := count, wave := c.ref.wave,
                      mask := c.e.mask, hdr := c.e.hdr, idx := c.e.idx, op := op }
  let put (b : Block) : Block := match b.tenant with
    | none => b
    | some t => { b with tenant := some { t with queue := t.queue ++ [cmd] } }
  takeLines ((drainCore s c.b.die c.b.core).mapBlock c.ref.blk put) c.b id

/-- R190, R194: a block without a matrix slot takes an engine fault, and a full queue blocks the entry; so does a store of the core
that the command must observe and that waits for another command. -/
def needTenant (s : State) (c : Ctx) : Except Stop Tenant :=
  match c.b.tenant with
  | none => c.engine 1
  | some t =>
    if c.b.mslots = 0 then c.engine 1
    else if decide (8 ≤ t.queue.length) || pathStuck s c.b.die c.b.core then c.wait s
    else .ok t

/-- The lanes that an access performs in: the participating lanes, or once in scalar form. -/
def accLanes (scalar : Bool) (act : W32) : List Nat := if scalar then [0] else lanesOf act

end Sys2Proof.Machine
end

