-- ==== Sys2Proof/Machine/MemoryAccess.lean ====
section
/-!
DEFINITION. Group 8: loads, stores, stash windows and prefetch (R153 to R164).
-/
namespace Sys2Proof.Machine

/-- The count of a load or store (R161). -/
def countOf : Operand → Nat
  | .int n => n.val
  | _ => 1

/-- `n` registers from the named one are a legal destination (R161). -/
def rangeOk (c : Ctx) (o : Operand) (scalar pair : Bool) (n : Nat) : Bool :=
  match o with
  | .v d => decide (d + n ≤ 8 * c.w.claim) && (!pair || d % 2 == 0)
  | .s d => scalar && decide (d + n ≤ 128) && (!pair || d % 2 == 0)
  | _ => false

/-- The issuing wave as it stands in a state. -/
def Ctx.now (c : Ctx) (s : State) : Wave :=
  match s.wave? { blk := c.ref.blk, wave := c.ref.wave } with
  | some (_, w) => w
  | none => c.w

/-- The words of an access that reads `k` elements of type `t`: one list of 32 lanes for each register. -/
def loadWords (t : Ty) (k : Nat) (bytes : Nat → List Byte) : List (List W32) :=
  let e := elemWidth t / 8
  let el (i l : Nat) : Nat := extendElem t (natLE (((bytes l).drop (e * i)).take e))
  (List.range k).flatMap fun i => wordsOf (is64 t) (lanes32.map (el i))

/-- LD and LDS (R162). -/
def loading (opc : Nat) (stash : Bool) (f : Fields) (s : State) : Host.Outcome State Fault Refusal :=
  issue opc f s fun s c =>
    let scalar := isScalar opc f
    let act := c.parts f
    let e := elemWidth f.ty / 8
    let k := countOf f.op3
    if !rangeOk c f.op0 scalar (is64 f.ty) (if is64 f.ty then 2 * k else k) then c.illegalOp
    else match addresses s c c.w f stash scalar e act with
      | .error x => .error x
      | .ok (al, _) =>
        match spotsOf s c stash (accLanes scalar act) (fun l => (al[l]?).getD 0) (e * k) { rd := true, wr := false } scalar with
        | .error x => .error x
        | .ok sp =>
          let s1 := sp.foldl (fun s p => noteRead s c.b f.hint.toNat ((al[p.1]?).getD 0) p.2) s
          let bytes (l : Nat) : List Byte := match sp.find? fun p => p.1 == (if scalar then 0 else l) with
            | some p => spotBytes s c.b (e * k) p.2
            | none => []
          .ok (.seq (inFlight (result s1 c c.w f f.op0 scalar true act 0 (loadWords f.ty k bytes) 0) c al sp))

/-- LD. -/
def execLd (f : Fields) (s : State) : Host.Outcome State Fault Refusal := loading 0x200 false f s
/-- LDS. -/
def execLds (f : Fields) (s : State) : Host.Outcome State Fault Refusal := loading 0x202 true f s

/-- The bytes that a store writes in each lane, and the wave after reading them (R161). -/
def storeBytes (s : State) (c : Ctx) (opc : Nat) (f : Fields) (scalar : Bool) (act : W32) (k : Nat) :
    Except Stop (List (List Byte) × Wave) :=
  let e := elemWidth f.ty / 8
  let w := if is64 f.ty then 2 else 1
  if k = 1 then
    match readSrc s c c.w opc f scalar act 3 with
    | .error x => .error x
    | .ok (l, w1) => .ok (l.map fun x => bytesLE e x, w1)
  else
    let n := w * k
    match f.op3 with
    | .v d =>
      if scalar || 8 * c.w.claim < d + n || (w == 2 && d % 2 == 1) then c.illegalOp
      else .ok (lanes32.map fun l => (List.range k).flatMap fun i =>
        bytesLE e (if w = 2 then joinPair (c.readV (d + 2 * i) l) (c.readV (d + 2 * i + 1) l) else (c.readV (d + i) l).toNat), c.w)
    | .s d =>
      if !scalar || 128 < d + n || (w == 2 && d % 2 == 1) then c.illegalOp
      else .ok (List.replicate 32 ((List.range k).flatMap fun i =>
        bytesLE e (if w = 2 then joinPair (c.readS true (d + 2 * i)) (c.readS true (d + 2 * i + 1)) else (c.readS true (d + i)).toNat)), c.w)
    | _ => c.illegalOp

/-- ST and STS (R162): the lanes ascending, so that the highest-numbered lane's value remains. -/
def storing (opc : Nat) (stash : Bool) (f : Fields) (s : State) : Host.Outcome State Fault Refusal :=
  issue opc f s fun s c =>
    let scalar := isScalar opc f
    let act := c.parts f
    let e := elemWidth f.ty / 8
    let k := countOf f.op4
    if !scalar && !oneScalar f 0b01010 then c.illegalOp
    else match addresses s c c.w f stash scalar e act with
      | .error x => .error x
      | .ok (al, _) =>
        match storeBytes s c opc f scalar act k with
        | .error x => .error x
        | .ok (bs, w1) =>
          match spotsOf s c stash (accLanes scalar act) (fun l => (al[l]?).getD 0) (e * k) { rd := false, wr := true } scalar with
          | .error x => .error x
          | .ok sp =>
            .ok (.seq (countPops (storeLanes (s.withWave c w1) c f.hint.toNat al bs sp) c f 0b01000))

/-- ST. -/
def execSt (f : Fields) (s : State) : Host.Outcome State Fault Refusal := storing 0x201 false f s
/-- STS. -/
def execSts (f : Fields) (s : State) : Host.Outcome State Fault Refusal := storing 0x203 true f s

/-! ## Windows (R153 to R157) -/

/-- Removes the scratchpad bytes of a range. -/
def dropRange (l : Sparse Byte) (off n : Nat) : Sparse Byte := l.filter fun p => p.1 < off || off + n ≤ p.1

/-- STUNMAP's effect (R157): the window is written back; filled lines keep its data in the stash, as the core's loads found it, and the
others read zero. -/
def unmapWindow (s : State) (blk win : Nat) : State :=
  match s.block? blk with
  | none => s
  | some b =>
    match b.windows.find? fun w => w.win == win with
    | none => s
    | some w =>
      let s1 := dropWindows s blk (fun x => x == win) false
      let kept (m : Sparse Byte) (i : Nat) : Sparse Byte :=
        (List.range 128).foldl (fun m j =>
          spSet 0 (w.off + 128 * i + j) (coreByte s1 b.die b.core (w.target (128 * i + j)).key) m) m
      s1.mapBlock blk fun b =>
        { b with windows := b.windows.filter fun x => x.win != win,
                 stash := w.filled.foldl kept (dropRange b.stash w.off w.len) }

/-- The leaves of the pages of a window, or the fault of its first bad page (R154 step 2). -/
def windowLeaves (s : State) (who : Who) (va n : Nat) : Except (AccFault × Nat) (List (Nat × W64 × Nat)) :=
  (List.range ((va + n - 1) / 2 ^ 16 + 1 - va / 2 ^ 16)).foldl (fun acc i =>
    match acc with
    | .error e => .error e
    | .ok l =>
      let a := max va ((va / 2 ^ 16 + i) * 2 ^ 16)
      match translate s who a with
      | .page => .error (.page, a)
      | .bad => .error (.prot 0, a)
      | .leaf w level ok =>
        let cached : Bool := match targetOf (leafPhys w level a) (leafLin w) (leafMsh w) with
          | .dev x off => leafCA w == 0 && !systemOnly who (.dev x off) (frameOf (leafPhys w level a) (leafLin w) (leafMsh w))
          | .host _ => leafCA w == 0
          | _ => false
        if leafR w && leafW w && !leafGG w && ok && cached then .ok (l ++ [(a / 2 ^ 16, w, level)]) else .error (.prot 0, a)) (.ok [])

/-- A window serves the line of a key. -/
def Window.holds (w : Window) (key : Nat) : Bool :=
  (List.range (w.len / 128)).any fun i => (w.target (128 * i)).key / 128 == key / 128

/-- A STMAP waits for the flips of its frames (R328), and for the core's own stores to its lines to be performed, so that what follows
through the window comes after them (R177, R178). -/
def windowStuck (s : State) (b : Block) (w : Window) : Bool :=
  (w.leaves.any fun l => !(s.flipsOf (w.target (l.1 * 2 ^ 16 - w.va)).key).isEmpty) ||
    (!s.path.isEmpty && !(stuckStores s (fun p => onCorePath b.die b.core p && w.holds p.key) s.path).isEmpty)

/-- A scalar operand of STMAP. -/
def stmapScalar (c : Ctx) (o : Operand) (zero : Bool) : Option Nat :=
  match o with
  | .s n => some (c.readS true n).toNat
  | .litLo => some (c.lit % 2 ^ 32)
  | .litHi => some (c.lit / 2 ^ 32)
  | .zero => if zero then some 0 else none
  | _ => none

/-- STMAP (R153, R154). A range that would pass 2^64 is a protection fault, of which R153 does not speak: log entry 52. -/
def execStmap (f : Fields) (s : State) : Host.Outcome State Fault Refusal :=
  issue 0x204 f s fun s c =>
    let g : Option Nat := match f.op1 with
      | .s n => if n.val % 2 = 0 then some (joinPair (c.readS true n) (c.readS true (n + 1))) else none
      | .litLo => some c.lit
      | _ => none
    match g, stmapScalar c f.op2 true, stmapScalar c f.op3 false, f.op4 with
    | some g, some o, some n, .int w =>
      if 16 ≤ w.val then c.illegalOp
      else if o % 128 ≠ 0 ∨ n % 128 ≠ 0 ∨ g % 128 ≠ 0 then c.align g
      else if n < 128 ∨ c.b.z < o + n ∨ 2 ^ 64 < g + n then c.protection g
      else if c.b.windows.any fun x => x.win != w.val &&
          ((decide (o < x.off + x.len) && decide (x.off < o + n)) || (decide (g < x.va + x.len) && decide (x.va < g + n))) then
        c.protection g
      else match windowLeaves s c.b.who g n with
        | .error (.page, a) => .error (.page a c.e.mask s)
        | .error (_, a) => c.protection a
        | .ok leaves =>
          let win : Window := { win := w.val, off := o, len := n, va := g, leaves := leaves, filled := [], owner := c.ref.wave,
                                shown := false, op := s.uids }
          if ((c.b.windows.any fun x => x.win == w.val) && mayTouch s c.b) || windowStuck s c.b win then c.wait s
          else
            let s1 := drainPath (unmapWindow s c.ref.blk w.val) fun p => onCorePath c.b.die c.b.core p && win.holds p.key
            let s2 := s1.mapBlock c.ref.blk fun b => { b with windows := b.windows ++ [win], stash := dropRange b.stash o n }
            .ok (.seq (counted s2 c f))
    | _, _, _, _ => c.illegalOp

/-- STUNMAP (R157): waits for the commands that may touch the window (R412). -/
def execStunmap (f : Fields) (s : State) : Host.Outcome State Fault Refusal :=
  issue 0x205 f s fun s c =>
    match f.op1 with
    | .int w =>
      if 16 ≤ w.val then c.illegalOp
      else if !c.b.windows.any fun x => x.win == w.val then .ok (.seq (counted s c f))
      else if mayTouch s c.b then c.wait s
      else .ok (.seq (counted (unmapWindow s c.ref.blk w.val) c f))
    | _ => c.illegalOp

/-- STFLUSH (R157). -/
def execStflush (f : Fields) (s : State) : Host.Outcome State Fault Refusal :=
  issue 0x206 f s fun s c =>
    match f.op1 with
    | .int w =>
      if 17 ≤ w.val then c.illegalOp
      else .ok (.seq (counted (writeBackWindows s c.ref.blk fun x => w.val == 16 || x == w.val) c f))
    | _ => c.illegalOp

/-- PREF of the element at `a` (R163): its lines come into the caches as a load's do, where the access passes its checks and no owning
command and no flip holds it up. -/
def prefetch (s : State) (c : Ctx) (hint a : Nat) : State :=
  match spotOf s c.b c.ref.wave false a 4 { rd := true, wr := false } with
  | .ok q =>
    if waitsFor (owners s) (q.piece c.b 4) false || !(s.flipsOf (q.piece c.b 4).lo).isEmpty then s else noteRead s c.b hint a q
  | .error _ => s

/-- PREF (R163): lanes that fail a check do nothing. -/
def execPref (f : Fields) (s : State) : Host.Outcome State Fault Refusal :=
  issue 0x207 f s fun s c =>
    let scalar := isScalar 0x207 f
    let act := c.parts f
    match addresses s c c.w f false scalar 4 act with
    | .error x => .error x
    | .ok (al, _) =>
      .ok (.seq ((accLanes scalar act).foldl (fun s l => prefetch s c f.hint.toNat ((al[l]?).getD 0)) s))

end Sys2Proof.Machine
end

