-- ==== Sys2Proof/Machine/Atomics.lean ====
section
/-!
DEFINITION. Group 9: atomics, LR and SC, fences and WAITA (R165 to R171), remote acquires (R231 to R233), and the events
WAITA_REEVALUATE, WAITA_TIMEOUT, PROMOTE and RACQ_PROCEED.
-/
namespace Sys2Proof.Machine

/-! ## Read-modify-write -/

/-- The new value of Table 7.5. -/
def atomNew (op : Nat) (t : Ty) (old v : Nat) : Nat :=
  let w := elemWidth t
  let lt (a b : Nat) : Bool := if isSigned t then decide (toSigned w a < toSigned w b) else decide (a < b)
  match op with
  | 0 => if t = .f32 then
      let f := fmtOf .f32
      (deliver f 0 false (addE 0 (readF f false old) (readF f false v))).bits
    else (old + v) % 2 ^ w
  | 1 => if lt v old then v else old
  | 2 => if lt old v then v else old
  | 3 => old &&& v
  | 4 => old ||| v
  | 5 => old ^^^ v
  | 6 => v
  | 7 => if v ≤ old then 0 else old + 1
  | _ => if old = 0 ∨ v < old then v else old - 1

/-- An atomic at .peer or .sys on host memory is performed at the CXL port (R167, R318). -/
def atPort (scope key : Nat) : Bool := decide (6 ≤ scope) && decide (2 ^ 51 ≤ key)

/-- The agent that performs an atomic on a line at a scope (R167): the grove atomic unit up to .gng, at .peer and .sys the CXL port for host
memory, else the home slice, for .peer and .sys too where the line is local (log entry 52). -/
def atomHolder (s : State) (b : Block) (scope key : Nat) : Holder :=
  if scope ≤ 3 then .grove b.die (b.core / 16) else if atPort scope key then .port else .l2 (homeSlice s b.glade key)

/-- The memory line of a spot, if it has one. -/
def Spot.line (b : Block) (q : Spot) : Option Nat :=
  let p := q.piece b 1
  if p.blk = none then some (p.lo / 128) else none

/-- A release atomic at .blk or .gng leaves its record on the line it writes (R231). -/
def leaveRecord (s : State) (b : Block) (scope : Nat) (q : Spot) : State :=
  if 3 < scope then s
  else match q.line b with
    | none => s
    | some l => { s with rels := { line := l, blk := b.uid, num := s.uids } :: s.rels.filter (fun r => r.line != l), uids := s.uids + 1 }

/-- The element of `n` bytes that an atomic finds, after the core's own earlier stores to its line. -/
def atomRead (s : State) (b : Block) (n : Nat) (q : Spot) : Nat × State :=
  let s1 := match q.line b with
    | some l => drainLine s b l
    | none => s
  (natLE (spotBytes s1 b n q), s1)

/-- An atomic whose hint keeps it from allocating in its home slice: .na2, where the line is not there already (Table 7.3). -/
def passesL2 (s : State) (b : Block) (scope hint key : Nat) : Bool :=
  hint == 5 && decide (3 < scope) && !atPort scope key && (s.dirEnt? (key / 128) (atomHolder s b scope key)).isNone

/-- What performs an atomic has its line in M, whether or not the atomic writes (R219, R226, R318), the CXL port also of an uncached page; a
line that its hint keeps out of the home slice is no longer cached. A line of a page with CA 1 or 2 that a grove unit or a slice would
perform on is taken to be uncached (R287), not held in M: log entry 52. -/
def atomHold (s : State) (b : Block) (scope hint : Nat) (q : Spot) : State :=
  match q with
  | .mem p =>
    let key := p.tgt.key
    if !cacheable key then s
    else if (p.ca ≠ 0 && !atPort scope key) || passesL2 s b scope hint key then uncacheLine s (key / 128)
    else tagLines b.oid (readOwn s (key / 128) (atomHolder s b scope key)) [key]
  | q => fillSpot s b q

/-- What an atomic writes. -/
def atomWrite (s : State) (b : Block) (scope hint : Nat) (l : List Byte) (q : Spot) : State :=
  match q with
  | .mem p =>
    let key := p.tgt.key
    if cacheable key && passesL2 s b scope hint key then directWrite (drainLine s b (key / 128)) key l
    else if atPort scope key then writeSpot s b .port l (.mem { p with ca := 0 })
    else writeSpot s b (atomHolder s b scope key) l q
  | q => writeSpot s b (.grove b.die (b.core / 16)) l q

/-- One lane's read-modify-write: the old element and the state after. -/
def atomStep (s : State) (b : Block) (scope hint ord n : Nat) (q : Spot) (new : Nat → Option Nat) : Nat × State :=
  let (old, s0) := atomRead s b n q
  let s1 := atomHold s0 b scope hint q
  match new old with
  | none => (old, s1)
  | some x =>
    let s2 := atomWrite s1 b scope hint (bytesLE n x) q
    (old, if 2 ≤ ord then leaveRecord s2 b scope q else s2)

/-- The lanes ascending; answers the old element of each. -/
def atomLanes (b : Block) (scope hint ord n : Nat) (new : Nat → Nat → Option Nat) :
    List (Nat × Spot) → State → List (Nat × Nat) × State
  | [], s => ([], s)
  | (l, q) :: t, s =>
    let (old, s1) := atomStep s b scope hint ord n q (new l)
    let (r, s2) := atomLanes b scope hint ord n new t s1
    ((l, old) :: r, s2)

/-- A group 9 release by the issuing block (R156, R230). A fence's core store path drains at every scope. -/
def releaseFor (s : State) (b : Block) (scope ord : Nat) : State := if 2 ≤ ord then releaseAt s b scope else s

/-- A release at .gng or wider waits while a store of its core does (R170, R230, R363). -/
def releaseStuck (s : State) (b : Block) (scope ord : Nat) : Bool := decide (2 ≤ ord) && decide (3 ≤ scope) && pathStuck s b.die b.core

/-- The home slice finds the lines of a remote acquire, recalling them from their holders (R232 step 1). -/
def recallAcquired (s : State) (b : Block) (sp : List (Nat × Spot)) : State :=
  (sp.filterMap fun p => p.2.line b).eraseDups.foldl recallShared s

/-- The lines of a remote acquire whose release record names a resident block (R232). -/
def racqLines (s : State) (b : Block) (sp : List (Nat × Spot)) : List Racq :=
  (sp.filterMap fun p => p.2.line b).eraseDups.filterMap fun l =>
    match s.rels.find? fun r => r.line == l with
    | some r => if (s.block? r.blk).isSome then some { line := l, promoted := none } else none
    | none => none

/-- The word lists of a loaded element. -/
def elemWords (t : Ty) (l : List (Nat × Nat)) (scalar : Bool) : List (List W32) :=
  wordsOf (is64 t) (lanes32.map fun i => match l.find? fun p => p.1 == (if scalar then 0 else i) with
    | some p => p.2
    | none => 0)

/-- The atomics with `srcs` their value operands: addresses, values, checks, the release, then each lane. `ret` tells whether
the old elements are returned, and `acquired` whether a remote acquire has already proceeded. -/
def atomic (opc : Nat) (f : Fields) (ret acquired : Bool) (srcs : List Nat)
    (new : List (List Nat) → Nat → Nat → Option Nat) (s : State) (c : Ctx) : Except Stop Go :=
  let scalar := isScalar opc f
  let act := c.parts f
  let e := elemWidth f.ty / 8
  if ret && !rangeOk c f.op0 scalar (is64 f.ty) (if is64 f.ty then 2 else 1) then c.illegalOp
  else if !scalar && !oneScalar f (2 + srcs.foldl (fun a k => a + 2 ^ k) 0) then c.illegalOp
  else match addresses s c c.w f f.inStash scalar e act with
    | .error x => .error x
    | .ok (al, w0) =>
      match readSrcs s c opc f scalar act srcs w0 with
      | .error x => .error x
      | .ok (vs, w1) =>
        match spotsOf s c f.inStash (accLanes scalar act) (fun l => (al[l]?).getD 0) e { rd := true, wr := true } scalar with
        | .error x => .error x
        | .ok sp =>
          let rq := if f.rmt && !acquired then racqLines s c.b sp else []
          if !rq.isEmpty then .error (.hold (.racq rq) (recallAcquired s c.b sp))
          else if releaseStuck s c.b f.scope f.ord then c.wait s
          else
            let s1 := releaseFor (s.withWave c w1) c.b f.scope f.ord
            let s2 := sp.foldl (fun s p => fillTlb s c.b.who ((al[p.1]?).getD 0)) s1
            let (olds, s3) := atomLanes c.b f.scope f.hint.toNat f.ord e (new vs) sp s2
            if ret then .ok (.seq (inFlight (result s3 c (c.now s3) f f.op0 scalar true act 0 (elemWords f.ty olds scalar) 0) c al sp))
            else .ok (.seq (countPops s3 c f 0b01000))

/-- Value `k` of a lane. -/
def argAt (vs : List (List Nat)) (k l : Nat) : Nat := (((vs[k]?).getD [])[l]?).getD 0

/-- ATOM and ATOMR (R166). -/
def atomRmw (opc : Nat) (ret acquired : Bool) (f : Fields) (s : State) (c : Ctx) : Except Stop Go :=
  match f.op4 with
  | .int n =>
    if 9 ≤ n.val then c.illegalOp
    else atomic opc f ret acquired [3] (fun vs l old => some (atomNew n.val f.ty old (argAt vs 0 l))) s c
  | _ => c.illegalOp

/-- ATOM. -/
def execAtom (f : Fields) (s : State) : Host.Outcome State Fault Refusal := issue 0x240 f s (atomRmw 0x240 false false f)
/-- ATOMR. -/
def execAtomr (f : Fields) (s : State) : Host.Outcome State Fault Refusal := issue 0x241 f s (atomRmw 0x241 true false f)
/-- CAS (R168). -/
def execCas (f : Fields) (s : State) : Host.Outcome State Fault Refusal :=
  issue 0x242 f s (atomic 0x242 f true false [3, 4] fun vs l old => if old = argAt vs 0 l then some (argAt vs 1 l) else none)

/-! ## LR and SC (R169) -/

/-- Whether a spot's home is a device memory stack. -/
def homeIsDevice (b : Block) (q : Spot) : Bool := match q.line b with
  | some l => decide (l * 128 < 2 ^ 40)
  | none => false

/-- The lane that LR and SC act on: the lowest participating lane. -/
def oneLane (scalar : Bool) (act : W32) : List Nat := (accLanes scalar act).take 1

/-- LR. It needs read permission alone: it is an atomic access that writes nothing, and R160 asks both permissions of atomics (log entry 52). -/
def execLr (f : Fields) (s : State) : Host.Outcome State Fault Refusal :=
  issue 0x243 f s fun s c =>
    let scalar := isScalar 0x243 f
    let act := c.parts f
    let e := elemWidth f.ty / 8
    if !rangeOk c f.op0 scalar (is64 f.ty) (if is64 f.ty then 2 else 1) then c.illegalOp
    else match addresses s c c.w f false scalar e act with
      | .error x => .error x
      | .ok (al, _) =>
        match spotsOf s c false (oneLane scalar act) (fun l => (al[l]?).getD 0) e { rd := true, wr := false } scalar with
        | .error x => .error x
        | .ok sp =>
          match sp with
          | [] => .ok (.seq s)
          | (l, q) :: _ =>
            if !homeIsDevice c.b q then c.protection ((al[l]?).getD 0)
            else
              let s1 := fillTlb s c.b.who ((al[l]?).getD 0)
              let (x, s2) := atomRead s1 c.b e q
              let s3 := noteRead s2 c.b f.hint.toNat ((al[l]?).getD 0) q
              let w := { c.now s3 with reserv := some ((q.piece c.b e).lo, e) }
              .ok (.seq (result s3 c w f f.op0 scalar true act 0 (wordsOf (is64 f.ty) (List.replicate 32 x)) 0))

/-- SC: the stored value and the reservation decide what pD receives. -/
def execSc (f : Fields) (s : State) : Host.Outcome State Fault Refusal :=
  issue 0x244 f s fun s c =>
    let scalar := isScalar 0x244 f
    let act := c.parts f
    let e := elemWidth f.ty / 8
    let dest : Bool := match f.op0 with
      | .p _ => !scalar
      | .s _ => scalar
      | _ => false
    if !dest || (!scalar && !oneScalar f 0b01010) then c.illegalOp
    else match addresses s c c.w f false scalar e act with
      | .error x => .error x
      | .ok (al, w0) =>
        match readSrcs s c 0x244 f scalar act [3] w0 with
        | .error x => .error x
        | .ok (vs, w1) =>
          match spotsOf s c false (oneLane scalar act) (fun l => (al[l]?).getD 0) e { rd := true, wr := true } scalar with
          | .error x => .error x
          | .ok sp =>
            match sp with
            | [] => .ok (.seq (s.withWave c w1))
            | (l, q) :: _ =>
              if !homeIsDevice c.b q then c.protection ((al[l]?).getD 0)
              else if releaseStuck s c.b f.scope f.ord then c.wait s
              else
                let s1 := releaseFor (s.withWave c w1) c.b f.scope f.ord
                let (_, s2) := atomRead s1 c.b e q
                let won := (c.now s2).reserv == some ((q.piece c.b e).lo, e)
                let s3 := if won then
                    atomWrite s2 c.b f.scope f.hint.toNat (bytesLE e (argAt vs 0 l)) q
                  else s2
                let w := { c.now s3 with reserv := none }
                .ok (.seq (result s3 c w f f.op0 scalar true act 0 [List.replicate 32 (if won then 1 else 0)] 0))

/-! ## FENCE (R170) -/

/-- FENCE's effect: a release drains the core's store path, and at .dev or wider writes the windows back (R156). -/
def fenceGo (acquired : Bool) (f : Fields) (s : State) (c : Ctx) : Except Stop Go :=
  if f.rmt then
    let act := c.e.mask
    match addresses s c c.w f false false 1 act with
    | .error x => .error x
    | .ok (al, w1) =>
      match spotsOf s c false (lanesOf act) (fun l => (al[l]?).getD 0) 1 { rd := true, wr := false } false with
      | .error x => .error x
      | .ok sp =>
        let rq := if acquired then [] else racqLines s c.b sp
        if rq.isEmpty then .ok (.seq (s.withWave c w1)) else .error (.hold (.racq rq) (recallAcquired s c.b sp))
  else if releaseStuck s c.b f.scope f.ord then c.wait s
  else if 2 ≤ f.ord then .ok (.seq (releaseAt (drainCore s c.b.die c.b.core) c.b f.scope))
  else .ok (.seq s)

/-- FENCE. -/
def execFence (f : Fields) (s : State) : Host.Outcome State Fault Refusal := issue 0x245 f s (fenceGo false f)

/-! ## Remote acquires -/

/-- PROMOTE (R232): a block that holds a wanted record performs a release at .dev, which satisfies every Promote for it. It never waits for
a command: a store that waits for one stays in the path, and is not covered (R363, log entry 52). -/
def execPromote (blk : Nat) (s : State) : Host.Outcome State Fault Refusal :=
  match s.block? blk with
  | none => .next s
  | some b =>
    let due (r : Racq) : Option Nat := (s.rels.find? fun x => x.line == r.line && x.blk == blk && r.promoted != some x.num).map fun x => x.num
    let named (r : Racq) : Bool := (due r).isSome
    let wants (e : Entry) : Bool := match e.hold with
      | .racq l => l.any named
      | _ => false
    if (s.blocks.any fun x => x.waves.any fun w => w.frontier.any wants) then
      let s1 := releaseAt s b 5
      let sat (e : Entry) : Entry := match e.hold with
        | .racq l => { e with hold := .racq (l.map fun r => if named r then { r with promoted := due r } else r) }
        | _ => e
      let wv (w : Wave) : Wave := { w with frontier := w.frontier.map sat }
      .next { s1 with blocks := s1.blocks.map fun x => { x with waves := x.waves.map wv } }
    else .next s

/-- The entry that a reference names. -/
def State.entry? (s : State) (r : ERef) : Option Entry :=
  match s.wave? { blk := r.blk, wave := r.wave } with
  | some (_, w) => w.entry? r.lane
  | none => none

/-- RACQ_PROCEED (R232): every record of the acquire has been promoted, or names nothing any more; the instruction goes on. -/
def execRacqProceed (e : ERef) (s : State) : Host.Outcome State Fault Refusal :=
  match s.entry? e with
  | none => .next s
  | some x =>
    match x.hold with
    | .racq l =>
      let ovr (r : Racq) : Bool := !s.rels.any fun y => y.line == r.line && r.promoted != some y.num && (s.block? y.blk).isSome
      if l.all ovr then
        let s1 := { s.mapEntry e (fun x => { x with hold := .none }) with cur := some e }
        match x.word.map decode with
        | some (.ok (.atomr f)) => issue 0x241 f s1 (atomRmw 0x241 true true f)
        | some (.ok (.fence f)) => issue 0x245 f s1 (fenceGo true f)
        | _ => .next s
      else .next s
    | _ => .next s

/-! ## WAITA (R171) -/

/-- The element that a parked WAITA watches. -/
def watchedValue (s : State) (b : Block) (t : Watch) (at0 : Nat) : Nat :=
  natLE (if t.stash then stashBytes s b at0 t.size
    else (List.range t.size).map fun i =>
      if 2 ^ 50 ≤ at0 ∧ at0 < 2 ^ 51 then targetByte s b.die b.core (.dcb (at0 + i - 2 ^ 50)) else coreByte s b.die b.core (at0 + i))

/-- The lanes of a WAITA whose element satisfies the condition. -/
def satisfied (s : State) (b : Block) (t : Watch) : W32 :=
  t.lanes.foldl (fun a p => if (watchedValue s b t p.2.1 == p.2.2) == t.eq then a ||| (1#32 <<< p.1) else a) 0

/-- Writes a WAITA's destination in its lanes (R165: an s register receives 1 or 0), readable as R24 and R43 count it from `clk`, at which
the WAITA issued. -/
def waitaWrite (w : Wave) (clk : Nat) (o : Operand) (mask sat : W32) : Wave :=
  match o with
  | .p d => w.write clk 4 false { reg := .p d, mask := mask, vals := [sat] }
  | .s d => w.write clk 1 true { reg := .s d, mask := 1, vals := [if sat = 0 then 0 else 1] }
  | _ => w

/-- WAITA. It is taken to need read permission alone: R160 asks for both of atomics, and a WAITA writes nothing; log entry 52. -/
def execWaita (f : Fields) (s : State) : Host.Outcome State Fault Refusal :=
  issue 0x246 f s fun s c =>
    let scalar := isScalar 0x246 f
    let act := c.parts f
    let e := elemWidth f.ty / 8
    let dest : Bool := match f.op0 with
      | .p _ => !scalar
      | .s _ => scalar
      | _ => false
    if !dest || (!scalar && !oneScalar f 0b11010) then c.illegalOp
    else match addresses s c c.w f f.inStash scalar e act with
      | .error x => .error x
      | .ok (al, w0) =>
        match readSrcs s c 0x246 f scalar act [3, 4] w0 with
        | .error x => .error x
        | .ok (vs, w1) =>
          let ls := accLanes scalar act
          match spotsOf s c f.inStash ls (fun l => (al[l]?).getD 0) e { rd := true, wr := false } scalar with
          | .error x => .error x
          | .ok sp =>
            let t := ls.foldl (fun a l => min a (argAt vs 1 l)) 0xFFFFFFFF
            let at0 (l : Nat) (q : Spot) : Nat := if f.inStash then (al[l]?).getD 0 else (q.piece c.b e).lo
            let mask := if scalar then c.e.mask else act
            let watch : Watch := { mask := mask, stash := f.inStash, size := e, eq := f.condEq, acq := f.ord == 1,
                                   lanes := sp.map fun p => (p.1, at0 p.1 p.2, argAt vs 0 p.1), issued := c.clk,
                                   deadline := if t = 0xFFFFFFFF then none else some (c.clk + t), dst := f.op0 }
            let s1 := sp.foldl (fun s p => noteRead s c.b f.hint.toNat ((al[p.1]?).getD 0) p.2) (s.withWave c w1)
            let sat := satisfied s1 (c.b.seenBy c.ref.wave) watch
            let s2 := countPops s1 c f 0b11000
            let want := if scalar then 1#32 else act
            if sat = want ∨ t = 0 then
              .ok (.seq (s2.mapWave c.ref.blk c.ref.wave fun w => waitaWrite w c.clk f.op0 act sat))
            else
              let next : Entry := { c.e with idx := c.e.idx + 1, hold := .none, notBefore := max c.e.notBefore (nextClk c f) }
              let go : Entry := { next with mask := c.e.mask &&& ~~~mask }
              let park : Entry := { next with mask := mask, park := 13, opn := false, watch := [watch] }
              .ok (.placed (s2.mapWave c.ref.blk c.ref.wave fun w => replaceEntry w c.ref.lane [go, park]))

/-- The WAITA that a lane is parked in. -/
def Entry.watchOf (e : Entry) (lane : Nat) : Option Watch := e.watch.find? fun t => t.mask.getLsbD lane

/-- The group of lanes of one WAITA leaves an entry that other groups may have merged with (R11). -/
def splitWatch (e : Entry) (t : Watch) (clk : Nat) : List Entry :=
  [{ e with mask := e.mask &&& t.mask, park := 0, watch := [], notBefore := max e.notBefore (clk + 1) },
   { e with mask := e.mask &&& ~~~t.mask, watch := e.watch.erase t }]

/-- Releases a parked WAITA with the lanes that are satisfied (R171 step 6). -/
def releaseWaita (s : State) (r : ERef) (b : Block) (e : Entry) (t : Watch) (sat : W32) : State :=
  let s1 := s.mapWave r.blk r.wave fun w =>
    waitaWrite (replaceEntry w r.lane (splitWatch e t (s.clkOf b.die))) t.issued t.dst (e.mask &&& t.mask) sat
  settleAt s1 { blk := r.blk, wave := r.wave }

/-- R363, R369. What a WAITA waits for is held: an engine owns a byte of it, or a flip of its page is under way. -/
def watchHeld (s : State) (b : Block) (wave : Nat) (t : Watch) : Bool :=
  let os := owners s
  let piece (p : Nat × Nat × Nat) : Piece :=
    if t.stash then Spot.piece (b.seenBy wave) t.size (.stash p.2.1) else { blk := none, lo := p.2.1, hi := p.2.1 + t.size }
  t.lanes.any fun p => waitsFor os (piece p) false || ((piece p).blk.isNone && !(s.flipsOf (piece p).lo).isEmpty)

/-- WAITA_REEVALUATE (R171 steps 5 and 6): every lane is now satisfied, and no watched word is held (R325, R363). -/
def execWaitaReevaluate (e : ERef) (s : State) : Host.Outcome State Fault Refusal :=
  match s.wave? { blk := e.blk, wave := e.wave }, s.entry? e with
  | some (b, _), some x =>
    match x.watchOf e.lane with
    | some t =>
      let sat := satisfied s (b.seenBy e.wave) t
      if x.park = 13 ∧ (t.lanes.all fun p => sat.getLsbD p.1) ∧ !watchHeld s b e.wave t then .next (releaseWaita s e b x t sat)
      else .next s
    | none => .next s
  | _, _ => .next s

/-- WAITA_TIMEOUT (R171 step 6): T clk have passed since issue. -/
def execWaitaTimeout (e : ERef) (s : State) : Host.Outcome State Fault Refusal :=
  match s.wave? { blk := e.blk, wave := e.wave }, s.entry? e with
  | some (b, _), some x =>
    match x.watchOf e.lane with
    | some t =>
      match t.deadline with
      | some d => if x.park = 13 ∧ d ≤ s.clkOf b.die then .next (releaseWaita s e b x t (satisfied s (b.seenBy e.wave) t)) else .next s
      | none => .next s
    | none => .next s
  | _, _ => .next s

end Sys2Proof.Machine
end

