-- ==== Sys2Proof/Machine/IntArith.lean ====
section
/-!
DEFINITION. Group 0: integer arithmetic, MOV and MOVW (R77 to R82).
-/
namespace Sys2Proof.Machine

/-- The elements of a value of type `t`. -/
def elemsOf (t : Ty) (x : Nat) : List Nat := (List.range (elemCount t)).map fun i => elemAt (elemWidth t) i x

/-- The integer that an element stands for (Table 3.1). -/
def intVal (t : Ty) (x : Nat) : Int := if isSigned t then toSigned (elemWidth t) x else (x % 2 ^ elemWidth t : Nat)

/-- Argument `i` of an operation. -/
def arg (xs : List Nat) (i : Nat) : Nat := (xs[i]?).getD 0

/-- An operation on the elements of one, two or three sources; the result wraps (R51). -/
def intOp1 (t : Ty) (g : Int → Int) (_ : W32) (xs : List Nat) : Res :=
  quiet (packResult t ((elemsOf t (arg xs 0)).map fun a => wrapTo (elemWidth t) (g (intVal t a))))
def intOp2 (t : Ty) (g : Int → Int → Int) (_ : W32) (xs : List Nat) : Res :=
  quiet (packResult t (((elemsOf t (arg xs 0)).zip (elemsOf t (arg xs 1))).map fun p =>
    wrapTo (elemWidth t) (g (intVal t p.1) (intVal t p.2))))
def intOp3 (t : Ty) (g : Int → Int → Int → Int) (_ : W32) (xs : List Nat) : Res :=
  quiet (packResult t (((elemsOf t (arg xs 0)).zip ((elemsOf t (arg xs 1)).zip (elemsOf t (arg xs 2)))).map fun p =>
    wrapTo (elemWidth t) (g (intVal t p.1) (intVal t p.2.1) (intVal t p.2.2))))

/-- An operation whose result saturates (R51). -/
def satOp2 (t : Ty) (g : Int → Int → Int) (_ : W32) (xs : List Nat) : Res :=
  quiet (packResult t (((elemsOf t (arg xs 0)).zip (elemsOf t (arg xs 1))).map fun p =>
    satTo (isSigned t) (elemWidth t) (g (intVal t p.1) (intVal t p.2))))

/-- The latency of groups 0 and 1 (Table 4.2). -/
def intLat (t : Ty) : Nat := if is64 t then 8 else 4

/-- A group 0 or 1 instruction whose result has its type's width. -/
def intInstr (opc : Nat) (ks : List Nat) (fn : Ty → W32 → List Nat → Res) (f : Fields) (s : State) :
    Host.Outcome State Fault Refusal :=
  computing opc ks (is64 f.ty) (intLat f.ty) false true (fn f.ty) f s

def minInt (a b : Int) : Int := if a ≤ b then a else b
def maxInt (a b : Int) : Int := if a ≤ b then b else a

/-- IADD (R77). -/
def execIadd (f : Fields) (s : State) : Host.Outcome State Fault Refusal :=
  intInstr 0x000 [1, 2] (fun t => intOp2 t fun a b => a + b) f s
/-- ISUB (R77). -/
def execIsub (f : Fields) (s : State) : Host.Outcome State Fault Refusal :=
  intInstr 0x001 [1, 2] (fun t => intOp2 t fun a b => a - b) f s
/-- IADDS (R77). -/
def execIadds (f : Fields) (s : State) : Host.Outcome State Fault Refusal :=
  intInstr 0x004 [1, 2] (fun t => satOp2 t fun a b => a + b) f s
/-- ISUBS (R77). -/
def execIsubs (f : Fields) (s : State) : Host.Outcome State Fault Refusal :=
  intInstr 0x005 [1, 2] (fun t => satOp2 t fun a b => a - b) f s
/-- IMUL (R77). -/
def execImul (f : Fields) (s : State) : Host.Outcome State Fault Refusal :=
  intInstr 0x006 [1, 2] (fun t => intOp2 t fun a b => a * b) f s
/-- IMULH (R77): the high half of the exact product. -/
def execImulh (f : Fields) (s : State) : Host.Outcome State Fault Refusal :=
  intInstr 0x007 [1, 2] (fun t => intOp2 t fun a b => a * b / ((2 ^ elemWidth t : Nat) : Int)) f s
/-- IMAD (R77). -/
def execImad (f : Fields) (s : State) : Host.Outcome State Fault Refusal :=
  intInstr 0x008 [1, 2, 3] (fun t => intOp3 t fun a b c => a * b + c) f s

/-- IMADW's operation: 32-bit A and B, 64-bit C. -/
def imadwOp (t : Ty) (_ : W32) (xs : List Nat) : Res :=
  let n : Ty := if t = .i64 then .i32 else .n32
  quiet (wrapTo 64 (intVal n (arg xs 0) * intVal n (arg xs 1) + intVal t (arg xs 2)))
/-- IMADW (R77). -/
def execImadw (f : Fields) (s : State) : Host.Outcome State Fault Refusal :=
  computing 0x009 [1, 2, 3] true 8 false true (imadwOp f.ty) f s

/-- IDIV's and IREM's quotient and remainder (R79). -/
def idivOp (t : Ty) (m : W32) (xs : List Nat) : Res :=
  if arg xs 1 % 2 ^ elemWidth t = 0 then quiet (2 ^ elemWidth t - 1) else intOp2 t Int.tdiv m xs
def iremOp (t : Ty) (m : W32) (xs : List Nat) : Res :=
  if arg xs 1 % 2 ^ elemWidth t = 0 then quiet (arg xs 0 % 2 ^ elemWidth t) else intOp2 t Int.tmod m xs
/-- IDIV (R79): long-latency. -/
def execIdiv (f : Fields) (s : State) : Host.Outcome State Fault Refusal :=
  computing 0x00A [1, 2] (is64 f.ty) 4 true true (idivOp f.ty) f s
/-- IREM (R79): long-latency. -/
def execIrem (f : Fields) (s : State) : Host.Outcome State Fault Refusal :=
  computing 0x00B [1, 2] (is64 f.ty) 4 true true (iremOp f.ty) f s

/-- INEG (R77). -/
def execIneg (f : Fields) (s : State) : Host.Outcome State Fault Refusal :=
  intInstr 0x00C [1] (fun t => intOp1 t fun a => -a) f s
/-- IABS (R77). -/
def execIabs (f : Fields) (s : State) : Host.Outcome State Fault Refusal :=
  intInstr 0x00D [1] (fun t => intOp1 t fun a => a.natAbs) f s
/-- IMIN (R77). -/
def execImin (f : Fields) (s : State) : Host.Outcome State Fault Refusal :=
  intInstr 0x00E [1, 2] (fun t => intOp2 t minInt) f s
/-- IMAX (R77). -/
def execImax (f : Fields) (s : State) : Host.Outcome State Fault Refusal :=
  intInstr 0x00F [1, 2] (fun t => intOp2 t maxInt) f s
/-- ICLAMP (R77): IMin(IMax(A, B), C). -/
def execIclamp (f : Fields) (s : State) : Host.Outcome State Fault Refusal :=
  intInstr 0x010 [1, 2, 3] (fun t => intOp3 t fun a b c => minInt (maxInt a b) c) f s

/-- IDIFF's operation: the exact difference, written as unsigned of the element width. -/
def idiffOp (t : Ty) (_ : W32) (xs : List Nat) : Res :=
  quiet (joinElems (elemWidth t) (((elemsOf t (arg xs 0)).zip (elemsOf t (arg xs 1))).map fun p =>
    (intVal t p.1 - intVal t p.2).natAbs))
/-- IDIFF (R77). -/
def execIdiff (f : Fields) (s : State) : Host.Outcome State Fault Refusal :=
  computing 0x011 [1, 2] false 4 false true (idiffOp f.ty) f s

/-- A dot product of elements plus a 32-bit addend, reduced once (R80). -/
def dotOp (t : Ty) (sat : Bool) (_ : W32) (xs : List Nat) : Res :=
  let n : Ty := if isSigned t then .i32 else .n32
  let x := ((elemsOf t (arg xs 0)).zip (elemsOf t (arg xs 1))).foldl (fun a p => a + intVal t p.1 * intVal t p.2)
    (intVal n (arg xs 2))
  quiet (if sat then satTo (isSigned t) 32 x else wrapTo 32 x)
/-- IDP4 (R80). -/
def execIdp4 (f : Fields) (s : State) : Host.Outcome State Fault Refusal :=
  computing 0x012 [1, 2, 3] false 4 false true (dotOp f.ty (f.op4 == .int 1)) f s
/-- IDP2 (R80). -/
def execIdp2 (f : Fields) (s : State) : Host.Outcome State Fault Refusal :=
  computing 0x013 [1, 2, 3] false 4 false true (dotOp f.ty (f.op4 == .int 1)) f s

/-- LEA's operation: A + (Ext(B) << k). -/
def leaOp (t : Ty) (sx : Bool) (k : Nat) (_ : W32) (xs : List Nat) : Res :=
  let b := intVal (if sx then .i32 else .n32) (arg xs 1)
  quiet (wrapTo (elemWidth t) ((arg xs 0 : Int) + b * ((2 ^ k : Nat) : Int)))
/-- LEA (R81): k must be an integer constant from 0 to 31. -/
def execLea (f : Fields) (s : State) : Host.Outcome State Fault Refusal :=
  match f.op3 with
  | .int k =>
    if k.val < 32 then computing 0x014 [1, 2] (is64 f.ty) (intLat f.ty) false true (leaOp f.ty (f.op4 == .int 1) k) f s
    else issue 0x014 f s fun _ c => c.illegalOp
  | _ => issue 0x014 f s fun _ c => c.illegalOp

/-- MOVW's operation: A low, B high. -/
def movwOp (_ : W32) (xs : List Nat) : Res := quiet (arg xs 0 % 2 ^ 32 + 2 ^ 32 * (arg xs 1 % 2 ^ 32))
/-- MOVW (R82). -/
def execMovw (f : Fields) (s : State) : Host.Outcome State Fault Refusal :=
  computing 0x016 [1, 2] true 8 false true movwOp f s

/-! ## IADDC and ISUBB (R78) -/

/-- Operand `o` as a predicate number. -/
def predNum (o : Operand) : Option Nat :=
  match o with
  | .p n => some n.val
  | _ => none

/-- Sum and carry, or difference and borrow, of one lane. -/
def carryOp (sub : Bool) (w a b c : Nat) : Nat × Bool :=
  if sub then (wrapTo w ((a : Int) - b - c), borrowOut a b c) else ((a + b + c) % 2 ^ w, carryOut w a b c)

/-- An add or subtract with carry predicates. -/
def carrying (opc : Nat) (sub : Bool) (f : Fields) (s : State) : Host.Outcome State Fault Refusal :=
  issue opc f s fun s c =>
    let act := c.parts f
    let pair := is64 f.ty
    if !destOk c f.op0 false true pair || !oneScalar f 0b00110 then c.illegalOp
    else match predNum f.op3, predNum f.op4 with
      | some pi, some po =>
        match readSrcs s c opc f false act [1, 2] c.w with
        | .error e => .error e
        | .ok (ls, w) =>
          let cin := c.readP pi
          let rs := lanes32.map fun l =>
            if act.getLsbD l then
              carryOp sub (elemWidth f.ty) (arg ((ls[0]?).getD []) l) (arg ((ls[1]?).getD []) l) (cin.getLsbD l).toNat
            else (0, false)
          let carry := maskOf fun l => (rs[l]?).getD (0, false) |>.2
          let long := popsQueue f 0b00110
          if long then
            let (id, s1) := s.fresh
            let w1 := startLong c w f id f.op0 false act true (wordsOf pair (rs.map fun r => r.1)) 0 none
            let add (o : LongOp) : LongOp := { o with writes := { reg := .p po, mask := act, vals := [carry] } :: o.writes }
            .ok (.seq (s1.withWave c { w1 with ops := updWhere (fun o => o.id == id) add w1.ops }))
          else
            let w1 := deliverNow c w f.op0 false act (intLat f.ty) (wordsOf pair (rs.map fun r => r.1)) 0
            .ok (.seq (s.withWave c (w1.write c.clk (intLat f.ty) false { reg := .p po, mask := act, vals := [carry] })))
      | _, _ => c.illegalOp

/-- IADDC (R78). -/
def execIaddc (f : Fields) (s : State) : Host.Outcome State Fault Refusal := carrying 0x002 false f s
/-- ISUBB (R78). -/
def execIsubb (f : Fields) (s : State) : Host.Outcome State Fault Refusal := carrying 0x003 true f s

/-! ## MOV (R82) -/

/-- MOV's types are given back as they are read: narrower ones under R50. -/
def movOp (t : Ty) (_ : W32) (xs : List Nat) : Res :=
  quiet (packResult t (elemsOf t (arg xs 0)))

/-- The 32-bit types that a MOV to e0, e1 or e5 takes (R112, R192, R200). -/
def is32 (t : Ty) : Bool := [Ty.b32, .i32, .n32, .f32].contains t

/-- A MOV to a writable queue (R20): the element formats of e0, e1, e3 and e5. -/
def movToQueue (n : Nat) (f : Fields) (s : State) : Host.Outcome State Fault Refusal :=
  issue 0x015 f s fun s c =>
    let scalar := isScalar 0x015 f
    let act := c.parts f
    let read (k : List W32 → Wave → Except Stop Go) : Except Stop Go :=
      match readSrcs s c 0x015 f scalar act [1] c.w with
      | .error e => .error e
      | .ok (ls, w) => (k (((ls[0]?).getD []).map fun x => BitVec.ofNat 32 x) w).map fun g => match g with
        | .seq t => .seq (countPops t c f 0b00010)
        | g => g
    let present (l : List W32) : List W32 := lanes32.map fun i => if act.getLsbD i then (l[i]?).getD 0 else 0
    match n with
    | 0 =>
      if scalar || !is32 f.ty then c.illegalOp
      else match needTenant s c with
        | .error e => .error e
        | .ok _ => read fun l w =>
          let (id, s1) := s.fresh
          .ok (.seq (enqueue c (s1.withWave c w) id .mrun (wordsBytes ((present l).take 16)) 0 0 none))
    | 1 =>
      if scalar || !is32 f.ty then c.illegalOp
      else if 16 ≤ c.w.e1.length then c.wait s
      else read fun l w => .ok (.seq (s.withWave c { w with e1 := w.e1 ++ [present l] }))
    | 3 =>
      if !scalar || is64 f.ty then c.illegalOp
      else if 64 ≤ c.w.e3.length then c.wait s
      else read fun l w =>
        let x := BitVec.ofNat 32 (movOp f.ty c.w.mode [(l.headD 0).toNat]).1
        let q := w.e3 ++ [x]
        if q.length % 16 = 0 then
          -- the 16th word of a record: it enters the engine (R221)
          if pathStuck s c.b.die c.b.core then c.wait s
          else .ok (.seq (enterCopy (s.withWave c { w with e3 := q.take (q.length - 16) }) c (wordsBytes (q.drop (q.length - 16)))))
        else .ok (.seq (s.withWave c { w with e3 := q }))
    | 5 =>
      if scalar || !is32 f.ty then c.illegalOp
      else if 4 ≤ c.w.e5.length then c.wait s
      else read fun l w => .ok (.seq (s.withWave c { w with e5 := w.e5 ++ [{ mask := act, vals := present l }] }))
    | _ => c.illegalOp

/-- MOV (R82). -/
def execMov (f : Fields) (s : State) : Host.Outcome State Fault Refusal :=
  match f.op0 with
  | .e n => movToQueue n f s
  | _ => computing 0x015 [1] (is64 f.ty) (intLat f.ty) false true (movOp f.ty) f s

end Sys2Proof.Machine
end

