-- ==== Sys2Proof/Machine/BitLogic.lean ====
section
/-!
DEFINITION. Group 1: bits and logic (R83 to R85).
-/
namespace Sys2Proof.Machine

/-- An operation on two raw values of the type's width. -/
def bitOp2 (t : Ty) (g : Nat → Nat → Nat) (_ : W32) (xs : List Nat) : Res :=
  quiet (g (arg xs 0 % 2 ^ elemWidth t) (arg xs 1 % 2 ^ elemWidth t) % 2 ^ elemWidth t)
/-- An operation on one raw value. -/
def bitOp1 (g : Nat → Nat → Nat) (t : Ty) (_ : W32) (xs : List Nat) : Res :=
  quiet (g (elemWidth t) (arg xs 0 % 2 ^ elemWidth t))

/-- The complement of a `w`-bit value. -/
def notBits (w x : Nat) : Nat := 2 ^ w - 1 - x % 2 ^ w

/-- AND (R83). -/
def execAnd (f : Fields) (s : State) : Host.Outcome State Fault Refusal :=
  intInstr 0x040 [1, 2] (fun t => bitOp2 t fun a b => a &&& b) f s
/-- OR (R83). -/
def execOr (f : Fields) (s : State) : Host.Outcome State Fault Refusal :=
  intInstr 0x041 [1, 2] (fun t => bitOp2 t fun a b => a ||| b) f s
/-- XOR (R83). -/
def execXor (f : Fields) (s : State) : Host.Outcome State Fault Refusal :=
  intInstr 0x042 [1, 2] (fun t => bitOp2 t fun a b => a ^^^ b) f s
/-- ANDN (R83). -/
def execAndn (f : Fields) (s : State) : Host.Outcome State Fault Refusal :=
  intInstr 0x043 [1, 2] (fun t => bitOp2 t fun a b => a &&& notBits (elemWidth t) b) f s
/-- NOT (R83). -/
def execNot (f : Fields) (s : State) : Host.Outcome State Fault Refusal :=
  intInstr 0x044 [1] (bitOp1 fun w a => notBits w a) f s

/-- A shift of each element by its amount modulo the element width; a packed type's amounts stand in the elements of B (R84). -/
def shiftOp (g : Nat → Nat → Nat → Nat) (t : Ty) (_ : W32) (xs : List Nat) : Res :=
  let w := elemWidth t
  if elemCount t = 1 then quiet (g w (arg xs 0 % 2 ^ w) (arg xs 1 % w))
  else quiet (joinElems w (((elemsOf t (arg xs 0)).zip (elemsOf t (arg xs 1))).map fun p => g w p.1 (p.2 % w)))

def shlBits (w a n : Nat) : Nat := a * 2 ^ n % 2 ^ w
def shrBits (_w a n : Nat) : Nat := a / 2 ^ n
def sarBits (w a n : Nat) : Nat := wrapTo w (toSigned w a / ((2 ^ n : Nat) : Int))
def rotlBits (w a n : Nat) : Nat := (a * 2 ^ n + a / 2 ^ (w - n)) % 2 ^ w
def rotrBits (w a n : Nat) : Nat := rotlBits w a ((w - n) % w)

/-- SHL (R84). -/
def execShl (f : Fields) (s : State) : Host.Outcome State Fault Refusal := intInstr 0x045 [1, 2] (shiftOp shlBits) f s
/-- SHR (R84). -/
def execShr (f : Fields) (s : State) : Host.Outcome State Fault Refusal := intInstr 0x046 [1, 2] (shiftOp shrBits) f s
/-- SAR (R84). -/
def execSar (f : Fields) (s : State) : Host.Outcome State Fault Refusal := intInstr 0x047 [1, 2] (shiftOp sarBits) f s
/-- ROTL (R84). -/
def execRotl (f : Fields) (s : State) : Host.Outcome State Fault Refusal := intInstr 0x048 [1, 2] (shiftOp rotlBits) f s
/-- ROTR (R84). -/
def execRotr (f : Fields) (s : State) : Host.Outcome State Fault Refusal := intInstr 0x049 [1, 2] (shiftOp rotrBits) f s

/-- FUNNEL's operation: the low 32 bits of A × 2^32 + B shifted right by C mod 32. -/
def funnelOp (_ : W32) (xs : List Nat) : Res :=
  quiet ((arg xs 0 * 2 ^ 32 + arg xs 1 % 2 ^ 32) / 2 ^ (arg xs 2 % 32) % 2 ^ 32)
/-- FUNNEL (R84). -/
def execFunnel (f : Fields) (s : State) : Host.Outcome State Fault Refusal :=
  computing 0x04A [1, 2, 3] false 4 false true funnelOp f s

/-- Position and length of a bit field in a `w`-bit value (R85). -/
def fieldAt (w b c : Nat) : Nat × Nat :=
  let pos := b % w
  let len := c % 64
  (pos, if w - pos < len then w - pos else len)

/-- BFX's operation. -/
def bfxOp (t : Ty) (_ : W32) (xs : List Nat) : Res :=
  let w := elemWidth t
  let (pos, len) := fieldAt w (arg xs 1) (arg xs 2)
  let x := bitsOf (arg xs 0) pos len
  quiet (if len = 0 then 0 else if isSigned t then wrapTo w (toSigned len x) else x)
/-- BFX (R85). -/
def execBfx (f : Fields) (s : State) : Host.Outcome State Fault Refusal := intInstr 0x04B [1, 2, 3] bfxOp f s

/-- BFI's operation. -/
def bfiOp (t : Ty) (_ : W32) (xs : List Nat) : Res :=
  let w := elemWidth t
  let a := arg xs 0 % 2 ^ w
  let (pos, len) := fieldAt w (arg xs 2) (arg xs 3)
  quiet (if len = 0 then a else a - bitsOf a pos len * 2 ^ pos + arg xs 1 % 2 ^ len * 2 ^ pos)
/-- BFI (R85). -/
def execBfi (f : Fields) (s : State) : Host.Outcome State Fault Refusal := intInstr 0x04C [1, 2, 3, 4] bfiOp f s

/-- The bits of a value in the opposite order. -/
def reverseBits (w x : Nat) : Nat := (List.range w).foldl (fun a i => a * 2 + bitAt x i) 0
/-- The number of 1 bits. -/
def popCount (w x : Nat) : Nat := (List.range w).foldl (fun a i => a + bitAt x i) 0
/-- Leading zeros of a `w`-bit value. -/
def leadingZeros (w x : Nat) : Nat := w - bitLen x
/-- Trailing zeros of a `w`-bit value. -/
def trailingZeros (w x : Nat) : Nat := ((List.range w).find? fun i => bitAt x i == 1).getD w

/-- BREV (R83). -/
def execBrev (f : Fields) (s : State) : Host.Outcome State Fault Refusal := intInstr 0x04D [1] (bitOp1 reverseBits) f s
/-- POPC (R83): a 32-bit result. -/
def execPopc (f : Fields) (s : State) : Host.Outcome State Fault Refusal :=
  computing 0x04E [1] false (intLat f.ty) false true (bitOp1 popCount f.ty) f s
/-- CLZ (R83): a 32-bit result. -/
def execClz (f : Fields) (s : State) : Host.Outcome State Fault Refusal :=
  computing 0x04F [1] false (intLat f.ty) false true (bitOp1 leadingZeros f.ty) f s
/-- CTZ (R83): a 32-bit result. -/
def execCtz (f : Fields) (s : State) : Host.Outcome State Fault Refusal :=
  computing 0x050 [1] false (intLat f.ty) false true (bitOp1 trailingZeros f.ty) f s

end Sys2Proof.Machine
end

