-- ==== Sys2Proof/Machine/Barrier.lean ====
section
/-!
DEFINITION. Barriers: arrival and completion of BAR, GBAR, PHASE and REGROUP (R142, R143, R216 to R218).
-/
namespace Sys2Proof.Machine

/-- Every wave of the block that has a live lane has arrived (R142). -/
def barrierDone (b : Block) (br : Barrier) : Bool :=
  b.waves.all fun w => w.live == 0 || br.arrived.contains w.wave

/-- A BAR has followed the completion of the STMAPs: every wave sees their windows from now on (R154). -/
def showWindows (s : State) (blk : Nat) : State :=
  s.mapBlock blk fun b =>
    let due (w : Window) : Bool := b.waves.any fun x => x.wave == w.owner && x.ops.any fun o => o.id == w.op
    { b with windows := b.windows.map fun w => if due w then w else { w with shown := true } }

/-- Releases the entries held at the block's barrier (R142, R143). -/
def releaseHeld (s : State) (blk : Nat) : State :=
  match s.block? blk with
  | none => s
  | some b =>
    let freed (e : Entry) : Entry := if e.hold = .barrier then { e with hold := .none } else e
    let go (w : Wave) : Wave := settleWave s b { w with frontier := w.frontier.map freed }
    s.mapBlock blk fun x => { x with barrier := none, waves := x.waves.map go }

/-- The gang of a block, when it has two or more members. -/
def gangOf (s : State) (blk : Nat) : Option Gang :=
  match s.phase? blk with
  | none => none
  | some p => match p.gang with
    | none => none
    | some g => match s.gang? g with
      | some x => if 2 ≤ x.members.length then some x else none
      | none => none

/-- Marks the block's barrier complete within the block. -/
def fillBarrier (s : State) (blk : Nat) : State :=
  s.mapBlock blk fun b => { b with barrier := b.barrier.map fun br => { br with full := true } }

/-- A block arrives at its gang's barrier (R217, R218); false when another member has recorded another kind or address. -/
def gangArrive (s : State) (g : Gang) (blk : Nat) (kind : BarKind) (addr : Nat) : State × Bool :=
  let put (u : Gang → Gang) : State := { s with gangs := updWhere (fun x => x.uid == g.uid) u s.gangs }
  match g.kind with
  | none => (put fun x => { x with kind := some kind, addr := addr, arrived := [blk] }, true)
  | some k => if k = kind ∧ g.addr = addr then (put fun x => { x with arrived := blk :: x.arrived }, true) else (s, false)

/-- A block's resource-protocol fault at its barrier: the entry of the wave that arrived last names the clause. -/
def barrierFault (s : State) (b : Block) : State :=
  let last : Option (Wave × Entry) := b.waves.findSome? fun w =>
    if (b.barrier.any fun br => br.arrived.head? == some w.wave) then (w.frontier.find? fun e => e.hold == .barrier).map fun e => (w, e)
    else none
  match last with
  | some (w, e) => fatalFault s b (some w) 11 0 0 (16 * e.hdr.toNat) (e.idx - 1) e.mask
  | none => fatalFault s b none 11 0 0 0 0 0

/-- The block's last wave has arrived: BAR releases it; GBAR and PHASE of a gang go on to the gang; PHASE and REGROUP wait for
their own steps (R142, R144, R147, R217, R218). -/
def barrierFull (s : State) (b : Block) (br : Barrier) : State :=
  match br.kind with
  | .bar => showWindows (releaseHeld s b.uid) b.uid
  | .regroup => fillBarrier s b.uid
  | .gbar =>
    match gangOf s b.uid with
    | none => showWindows (releaseHeld (drainCore s b.die b.core) b.uid) b.uid
    | some g =>
      let (s1, ok) := gangArrive (drainCore s b.die b.core) g b.uid .gbar br.addr
      if ok then fillBarrier s1 b.uid else barrierFault s b
  | .phase =>
    match gangOf s b.uid with
    | none => fillBarrier s b.uid
    | some g =>
      let (s1, ok) := gangArrive s g b.uid .phase br.addr
      if ok then fillBarrier s1 b.uid else barrierFault s b

/-- The arrivals of the waves have taken effect: for BAR and GBAR, their earlier loads and atomics have completed, and for GBAR no
store of the core waits to be performed (R143, R218). -/
def loadsDone (s : State) (b : Block) (br : Barrier) : Bool :=
  let read : Bool := b.waves.all fun w => !br.arrived.contains w.wave || !w.ops.any fun o => o.access
  match br.kind with
  | .bar => read
  | .gbar => read && !pathStuck s b.die b.core
  | _ => true

/-- Completes a block's barrier when its last wave has arrived, exited or ended (R142). -/
def checkBarrier (s : State) (blk : Nat) : State :=
  match s.block? blk with
  | none => s
  | some b =>
    match b.barrier with
    | none => s
    | some br => if !br.full && barrierDone b br && loadsDone s b br && b.waves.any (fun w => w.live != 0) then barrierFull s b br else s

/-- Barriers that have come to their end without an arrival complete: a load has landed, or a store has been performed (R143, R218). -/
def settleBarriers (s : State) : State :=
  (s.blocks.filter fun b => b.barrier.any fun br => !br.full).foldl (fun s b => checkBarrier s b.uid) s

/-- Completes the barriers of a core's blocks, after one of its stores has been performed. -/
def checkBarriers (s : State) (die core : Nat) : State :=
  (s.blocks.filter fun b => b.die == die && b.core == core && b.barrier.isSome).foldl (fun s b => checkBarrier s b.uid) s

/-- The entry is blocked in CLAIM. -/
def inClaim (s : State) (blk wave : Nat) (e : Entry) : Bool :=
  e.hold == .request && s.requests.any fun r => r.blk == blk && r.wave == wave && r.kind == 3 && e.has r.lane

/-- The spare pool of a half. -/
def Block.spare (b : Block) (half : Nat) : List (Sparse W32) := if half = 0 then b.spare0 else b.spare1

/-- R138: a CLAIM while every wave of the block that has a live lane is blocked in CLAIM or at a barrier is a
resource-protocol fault. A wave is blocked there when an entry of it is and no other entry of it is open, since its next round waits for
that entry (R12); R138 speaks of waves alone: log entry 52. A CLAIM that the spare pool can serve by now is blocked no longer. -/
def checkClaims (s : State) (blk : Nat) : State :=
  match s.block? blk with
  | none => s
  | some b =>
    let held (w : Wave) (e : Entry) : Bool := e.hold == .barrier || inClaim s blk w.wave e
    let stuck (w : Wave) : Bool := w.live == 0 || (w.frontier.any (held w) && w.frontier.all fun e => held w e || !e.opn)
    let claims := s.requests.filter fun r => r.blk == blk && r.kind == 3
    let served (r : Request) : Bool := (b.wave? r.wave).any fun w => decide (r.count ≤ (b.spare w.half).length)
    if b.waves.all stuck && !claims.any served then
      match claims.findSome? fun r => (b.wave? r.wave).bind fun w => (w.entry? r.lane).map fun e => (w, e) with
      | none => s
      | some (w, e) => fatalFault s b (some w) 11 0 0 (16 * e.hdr.toNat) e.idx e.mask
    else s

/-- The blocks with a pending CLAIM are looked at again: an entry of theirs may have parked or ended its clause. -/
def settleClaims (s : State) : State :=
  ((s.requests.filter fun r => r.kind == 3).map fun r => r.blk).eraseDups.foldl checkClaims s

/-- The address of the issuing instruction. -/
def Ctx.iaddr (c : Ctx) : Nat := c.caddr + 16 * (c.e.idx + 1)

/-- A wave arrives at a barrier (R142): its entry must hold every live lane, and kind and address must be those recorded. -/
def arrive (s : State) (c : Ctx) (f : Fields) (kind : BarKind) (tmpl : Nat) (key : Operand) : Except Stop Go :=
  let old := c.b.barrier
  let same : Bool := match old with
    | none => true
    | some br => br.kind == kind && br.addr == c.iaddr
  if c.e.mask != c.w.live || !same then c.resource
  else
    let br : Barrier := match old with
      | none => { kind := kind, addr := c.iaddr, arrived := [c.ref.wave], tmpl := tmpl, full := false, key := key }
      | some br => { br with arrived := c.ref.wave :: br.arrived }
    let s1 := s.mapBlock c.ref.blk fun b => { b with barrier := some br }
    let s2 := s1.mapEntry c.ref fun e => { e with idx := e.idx + 1, hold := .barrier, notBefore := max e.notBefore (nextClk c f) }
    .ok (.placed (checkClaims (checkBarrier s2 c.ref.blk) c.ref.blk))

end Sys2Proof.Machine
end

