-- ==== Sys2Proof/Machine/Forester.lean ====
section
/-!
DEFINITION. The Forester: pools, allocations, maxima and needs, the safety test, admission, and the decision on a request
(R123, R125 to R132).
-/
namespace Sys2Proof.Machine

/-- Units of the four pools (Table 6.2): register bundles of each half, stash ways and matrix slots. -/
structure Units where
  r0    : Nat
  r1    : Nat
  ways  : Nat
  slots : Nat
  deriving DecidableEq, Repr

def Units.add (a b : Units) : Units := { r0 := a.r0 + b.r0, r1 := a.r1 + b.r1, ways := a.ways + b.ways, slots := a.slots + b.slots }
def Units.sub (a b : Units) : Units := { r0 := a.r0 - b.r0, r1 := a.r1 - b.r1, ways := a.ways - b.ways, slots := a.slots - b.slots }
def Units.le (a b : Units) : Bool := decide (a.r0 ≤ b.r0) && decide (a.r1 ≤ b.r1) && decide (a.ways ≤ b.ways) && decide (a.slots ≤ b.slots)
def Units.zero : Units := { r0 := 0, r1 := 0, ways := 0, slots := 0 }
/-- The capacities of Table 6.2. -/
def Units.capacity : Units := { r0 := 128, r1 := 128, ways := 10, slots := 4 }
/-- `k` units of a kind: registers of a half, ways or slots. -/
def Units.of (kind half k : Nat) : Units :=
  match kind with
  | 0 => if half = 0 then { Units.zero with r0 := k } else { Units.zero with r1 := k }
  | 1 => { Units.zero with ways := k }
  | _ => { Units.zero with slots := k }

/-- The launch record of a block, as a number; 0 where the launch is gone. -/
def recordOf (s : State) (b : Block) : Nat :=
  match s.launch? b.launch with
  | some l => l.record.toNat
  | none => 0

/-- Bundles that a block holds on a half, its spare pool included (R129). -/
def Block.bundles (b : Block) (half : Nat) : Nat :=
  (b.waves.filter fun w => w.half == half && !w.ended).foldl (fun a w => a + w.claim) 0 + (b.spare half).length

def Block.alloc (b : Block) : Units := { r0 := b.bundles 0, r1 := b.bundles 1, ways := b.ways, slots := b.mslots }

/-- The block's maxima (R126). -/
def blockMax (s : State) (b : Block) : Units :=
  let r := recordOf s b
  let on (h : Nat) : Nat := (b.waves.filter fun w => w.half == h).length
  { r0 := lRm r * on 0, r1 := lRm r * on 1, ways := lSm r, slots := lMm r }

/-- The blocks resident on a core. -/
def onCore (s : State) (die core : Nat) : List Block := s.blocks.filter fun b => b.die == die && b.core == core

def freeUnits (bs : List Block) : Units := bs.foldl (fun a b => a.sub b.alloc) Units.capacity

/-- R129: repeatedly completes a block whose need fits; what it holds is added to the free part. -/
def safeFrom : Nat → List (Units × Units) → Units → Bool
  | 0, l, _ => l.isEmpty
  | n + 1, l, free =>
    match l.find? fun x => x.1.le free with
    | none => l.isEmpty
    | some x => safeFrom n (l.erase x) (free.add x.2)

/-- Whether a state given by (need, allocation) pairs is safe. -/
def safeState (l : List (Units × Units)) (free : Units) : Bool := safeFrom l.length l free

def needs (s : State) (bs : List Block) : List (Units × Units) := bs.map fun b => ((blockMax s b).sub b.alloc, b.alloc)

/-- The outcome of a request (R131). -/
inductive Verdict where
  | protocol
  | busy
  | risky
  | granted
  deriving DecidableEq, Repr

/-- Whether an allocation stays within a maximum in the pool of a kind, for registers that of one half. -/
def Units.within (kind half : Nat) (a m : Units) : Bool :=
  match kind with
  | 0 => if half = 0 then decide (a.r0 ≤ m.r0) else decide (a.r1 ≤ m.r1)
  | 1 => decide (a.ways ≤ m.ways)
  | _ => decide (a.slots ≤ m.slots)

/-- Decides a request of `k` units (R131). -/
def decideRequest (s : State) (b : Block) (w : Wave) (kind k : Nat) : Verdict :=
  let u := Units.of kind w.half k
  let bs := onCore s b.die b.core
  let free := freeUnits bs
  if !Units.within kind w.half (b.alloc.add u) (blockMax s b) || (kind == 0 && decide (80 < w.claim + k)) then .protocol
  else if !u.le free then .busy
  else
    let rest := bs.filter fun x => x.uid != b.uid
    let mine := b.alloc.add u
    if safeState (((blockMax s b).sub mine, mine) :: needs s rest) (free.sub u) then .granted else .risky

/-! ## Admission (R123, R130) -/

/-- The half that admission would start on: the one with more free bundles, or 0. -/
def startHalf (bs : List Block) : Nat :=
  let f := freeUnits bs
  if f.r0 < f.r1 then 1 else 0

/-- The waves of a record that a set of WAVE values places on a half. -/
def wavesOn (waves : List Nat) (h0 h : Nat) : Nat := (waves.filter fun w => (h0 + w) % 2 == h).length

/-- Whether a core admits a block of a record with these waves and this allocation (R130). `base` tells the bundles, ways and
slots that it takes at once. -/
def admits (s : State) (die core : Nat) (r : Nat) (waves : List Nat) (base : Units) : Bool :=
  let bs := onCore s die core
  let h0 := startHalf bs
  let used (h : Nat) : Nat := (bs.flatMap fun b => b.waves.filter fun w => w.half == h && !w.ended).length
  let max0 : Units := { r0 := lRm r * wavesOn waves h0 0, r1 := lRm r * wavesOn waves h0 1, ways := lSm r, slots := lMm r }
  let free := freeUnits bs
  decide (used 0 + wavesOn waves h0 0 ≤ 16) && decide (used 1 + wavesOn waves h0 1 ≤ 16) && base.le free &&
    (lMm r == 0 || decide ((bs.filter fun b => b.mend.isSome).length < 2)) &&
    safeState ((max0.sub base, base) :: needs s bs) (free.sub base)

/-- The base allocation of a record's waves (R126). -/
def baseUnits (r : Nat) (waves : List Nat) (h0 : Nat) : Units :=
  { r0 := lRb r * wavesOn waves h0 0, r1 := lRb r * wavesOn waves h0 1, ways := 0, slots := 0 }

/-- The end of the slot range given at admission (R128): false for the low end. -/
def slotEnd (bs : List Block) (r : Nat) : Option Bool :=
  if lMm r = 0 then none
  else match bs.findSome? fun b => b.mend with
    | none => some false
    | some h => some (!h)

/-! ## Slots that take effect (R181) -/

def Plane.empty : Plane :=
  { loaded := false, fmt := 0, sparse := false, tpl := 0, scales := [], rows := [], metas := [], replay := [], torn := false }

def Tenant.new (high : Bool) (n : Nat) : Tenant :=
  { high := high, slots := n, p0 := Plane.empty, p1 := Plane.empty, active := false, acc := [], ovf := 0, queue := [],
    ctr := [0, 0, 0, 0, 0], quiesced := false, faulted := false }

/-- Makes a tenant's slot count what the block holds: both planes empty, rows kept where they existed before, new rows zero, and
the overflow bits kept. -/
def effectSlots (b : Block) : Block :=
  let n := b.mslots
  match b.tenant with
  | none => if n = 0 then b else { b with tenant := some (Tenant.new (b.mend.getD false) n) }
  | some t =>
    if n = 0 then { b with tenant := none }
    else
      { b with tenant := some { t with slots := n, p0 := Plane.empty, p1 := Plane.empty,
                                       acc := t.acc.filter fun p => decide (p.1 < 32 * (128 * n)) } }

/-- The tenant's queue holds no incomplete command. -/
def Block.queueEmpty (b : Block) : Bool :=
  match b.tenant with
  | none => true
  | some t => t.queue.isEmpty

/-- The slots in effect. -/
def Block.slotsNow (b : Block) : Nat :=
  match b.tenant with
  | none => 0
  | some t => t.slots

end Sys2Proof.Machine
end

