-- ==== Sys2Proof/Machine/Pool.lean ====
section
/-!
DEFINITION. The ready pool: the check and acceptance of a launch (R236 to R241), work numbering (R237, R238), blaze tables
(R253 to R256), gating (R248, R255), and the choice among phases (R247).
-/
namespace Sys2Proof.Machine

/-! ## The owner's memory, reached by the hardware -/

/-- The keys of a range of the owner's space, or the fault of its first bad line with that line's address. -/
def ownerKeys (s : State) (oid : Nat) (need : Need) (va n : Nat) : Except (AccFault × Nat) (List Nat) :=
  (pieceList va n).foldl (fun acc p =>
    match acc with
    | .error e => .error e
    | .ok l => match place s (s.hw oid) (p.1 % 2 ^ 64) need with
      | .error e => .error (e, p.1 % 2 ^ 64)
      | .ok q => .ok (l ++ (List.range p.2).map fun i => q.tgt.key + i)) (.ok [])

def ownerRead (s : State) (oid va n : Nat) : Except (AccFault × Nat) (List Byte) :=
  match ownerKeys s oid { rd := true, wr := false } va n with
  | .ok l => .ok (l.map (coreByte s 0 hwCore))
  | .error e => .error e

def ownerWrite (s : State) (oid va : Nat) (l : List Byte) : Except (AccFault × Nat) State :=
  match ownerKeys s oid { rd := false, wr := true } va l.length with
  | .ok ks => .ok (hwWrite s oid ks l)
  | .error e => .error e

/-- A fault's class, and its detail (Tables 13.2 and 20.4). -/
def AccFault.cls : AccFault → Nat
  | .align => 4
  | .page => 5
  | .prot _ => 6
def AccFault.detail : AccFault → Nat
  | .prot d => d
  | _ => 0

/-- Whether something waits on a page fault. -/
def State.waitsOnPage (s : State) (who : PfWho) : Bool := s.pfs.any fun p => p.who == who

/-- A page fault of the distributor or the trail engine goes to the leader (R244, R265, R291). -/
def postPage (s : State) (oid va : Nat) (who : PfWho) : State :=
  let (id, s1) := s.fresh
  { s1 with pfs := s1.pfs ++ [{ id := id, oid := oid, glade := s.ctxGlade oid, va := va, who := who, lanes := 0 }] }

/-! ## The record (R236 to R241) -/

def lBlocks (l : Launch) : Nat := lNb l.record.toNat
/-- Every block of the launch has reached done (R245). -/
def Launch.ovr (l : Launch) : Bool := l.dead || decide (lBlocks l ≤ l.doneN)

/-- Table 11.3's check 64: reserved fields. -/
def reservedBad (r : Nat) : Bool :=
  bitsOf r 1792 256 != 0 || bitsOf r 542 34 != 0 || bitsOf r 480 32 != 0 || bitsOf r 278 42 != 0 || bitAt r 239 != 0 ||
  bitsOf (lOutt r) 116 11 != 0 || (List.range 8).any fun t => bitsOf (lItpl r t) 116 11 != 0

/-- Check 65 (R237). -/
def hierarchyBad (r : Nat) : Bool :=
  let top := lTop r
  let dom (i : Nat) : Nat := lDom r i
  let first := if lGang r then 4 else 3
  decide (top < 2) || dom 2 != 2 ||
  ((List.range 8).any fun i => decide (3 ≤ i) && decide (i ≤ top) &&
    (decide (dom i < 3) || decide (5 < dom i) || (decide (4 ≤ i) && (decide (dom i < dom (i - 1)) || dom i == 3)))) ||
  ((List.range 8).any fun i => decide (3 ≤ i) && decide (top < i) && (dom i != 0 || lCount r i != 0)) ||
  (decide (3 ≤ top) && lCount r top != 0) ||
  (lGang r && lCount r 3 != 0) ||
  ((List.range 8).any fun i => decide (first ≤ i) && decide (i < top) && lCount r i == 0) ||
  (!lGang r && (lGp r != 1 || lGf r != 1))

/-- Check 66 (R125). -/
def claimBad (r : Nat) : Bool :=
  let rb := lRb r
  let rm := lRm r
  decide (rb < 1) || decide (80 < rb) || decide (rm < rb) || decide (80 < rm) || decide (10 < lSm r) || decide (4 < lMm r) ||
  decide (8 < lCb r) || decide (rb < lCb r) || decide (128 < (lNw r + 1) / 2 * rm) || decide (16 < (lNw r + 1) / 2)

/-- A template with V = 1 that is malformed (R239). -/
def templateBad (r t : Nat) : Bool :=
  let la := bitsOf t 48 3
  let lb := bitsOf t 67 3
  tV t && (la == 1 || lb == 1 || decide (lTop r < la) || decide (lTop r < lb) || (la == 0 && bitsOf t 51 16 != 0) ||
    (lb == 0 && bitsOf t 70 16 != 0))

/-- Check 68; a CNT in a valid input template makes it malformed (R239). -/
def templatesBad (r : Nat) : Bool :=
  templateBad r (lOutt r) || ((List.range 8).any fun t => templateBad r (lItpl r t) || (tV (lItpl r t) && tCnt (lItpl r t) != 0)) ||
   decide (9 ≤ lTfirst r) ||
  (decide (lTfirst r < 8) && !tV (lItpl r (lTfirst r)))

/-- The lowest detail of Table 11.3 that a record fails. -/
def launchCheck (r : Nat) : Option Nat :=
  if reservedBad r then some 64
  else if hierarchyBad r then some 65
  else if claimBad r then some 66
  else if lGang r ∧ lGp r < lGf r then some 67
  else if templatesBad r then some 68
  else if lEntry r % 16 ≠ 0 ∨ lPrec r % 256 ≠ 0 ∨ lParam r % 64 ≠ 0 ∨ lNb r = 0 then some 69
  else none

/-- Whether a die's ready pool has room for another launch (R246). -/
def poolRoom (s : State) (die : Nat) : Bool := decide ((s.launches.filter fun l => l.die == die && !l.ovr).length < 64)

/-- What asks for a launch: where from, for whom, and what completes it. -/
structure Submission where
  die    : Nat
  oid    : Nat
  glade  : Nat
  cap    : Nat
  gen    : W16
  addr   : Nat
  cwAddr : Nat
  cwVal  : W32
  node   : Option (Nat × Nat)
  tinit  : Nat
  qid    : Option Nat
  producers : List Nat
  preds  : List (Nat × Nat × Nat)
  /-- The queue entry has a reserved field that is not 0 (check 64). -/
  odd    : Bool := false
  deriving DecidableEq, Repr

/-- A launch made from a submission. -/
def Submission.launch (q : Submission) (uid : Nat) (record : Nat) (param : List W32) (dead : Bool) : Launch :=
  { uid := uid, die := q.die, record := BitVec.ofNat 2048 record, recVa := q.addr, oid := q.oid, glade := q.glade,
    pcls := min (lPcls record) q.cap, gen := q.gen, cwAddr := q.cwAddr, cwVal := q.cwVal, param := param, next := 0, doneN := 0,
    gangs := 0, units := [], producers := q.producers, preds := q.preds, node := q.node, tinit := q.tinit, qid := q.qid, dead := dead }

/-- A refused launch: one record, and the completion word still to be written (R241). -/
def refuseLaunch (s : State) (q : Submission) (cls detail entry vaddr : Nat) : State :=
  let s1 := raiseRecord s (Record.plain cls q.oid q.glade q.die entry vaddr 0 detail)
  if q.cwAddr = 0 then s1
  else
    let (uid, s2) := s1.fresh
    { s2 with launches := s2.launches ++ [q.launch uid 0 [] true] }

/-- The record of a submission, or its PARAM line, is held by a command (R363). -/
def recordHeld (s : State) (q : Submission) : Bool :=
  anyHeld s && (pinsHeld s q.oid [(q.addr, 256)] false || match ownerRead s q.oid q.addr 256 with
    | .ok l => lParam (natLE l) != 0 && pinsHeld s q.oid [(lParam (natLE l), 64)] false
    | .error _ => false)

/-- Acceptance of a launch (R241, R246): the record and the PARAM lines are read, checked and copied. An error names the page to
be resolved first; a page that the executive has denied refuses the launch. The answer tells whether it was accepted. -/
def submit (s : State) (q : Submission) (denied : Option Nat) : Except Nat (State × Bool) :=
  let bad (e : AccFault) (va entry : Nat) : Except Nat (State × Bool) :=
    if e = .page ∧ denied ≠ some va then .error va else .ok (refuseLaunch s q e.cls e.detail entry va, false)
  match ownerRead s q.oid q.addr 256 with
  | .error (e, va) => bad e va 0
  | .ok l =>
    let r := natLE l
    match if q.odd then some 64 else launchCheck r with
    | some d => .ok (refuseLaunch s q 11 d (lEntry r) q.addr, false)
    | none =>
      let param : Except (AccFault × Nat) (List Byte) :=
        if lParam r = 0 then .ok (List.replicate 64 0) else ownerRead s q.oid (lParam r) 64
      match param with
      | .error (e, va) => bad e va (lEntry r)
      | .ok p =>
        let (uid, s1) := s.fresh
        .ok ({ s1 with launches := s1.launches ++ [q.launch uid r (bytesWords p) false] }, true)

/-! ## The work hierarchy (R237, R238) -/

/-- The loop of R238 from level `i`. -/
def lvlLoop (r : Nat) : Nat → Nat → Nat → List (Nat × Nat)
  | 0, _, _ => []
  | fuel + 1, i, u =>
    if lTop r ≤ i then []
    else if i = lTop r - 1 then [(i, u)]
    else (i, u % lCount r (i + 1)) :: lvlLoop r fuel (i + 1) (u / lCount r (i + 1))

/-- LVL2 to LVL7 of a block: number n, or its gang's number and its rank (R238). -/
def blockLvl (r n : Nat) (gang : Option (Nat × Nat)) (level : Nat) : Nat :=
  let l := match gang with
    | some (num, rank) => [(2, rank), (3, num)] ++ lvlLoop r 8 4 num
    | none => lvlLoop r 8 2 n
  ((l.find? fun p => p.1 == level).map fun p => p.2).getD 0

/-- The number of a block's unit at each level from 2 (R237): COUNTi units of level i - 1 make one of level i. -/
def unitLoop (r : Nat) : Nat → Nat → Nat → List (Nat × Nat)
  | 0, _, _ => []
  | fuel + 1, i, u =>
    if lTop r < i then []
    else
      let v := if i = lTop r then 0 else u / lCount r i
      (i, v) :: unitLoop r fuel (i + 1) v

/-- The units of .die-bound levels that a block lies in. -/
def dieUnits (r n : Nat) (gang : Option Nat) : List (Nat × Nat) :=
  (match gang with
    | some num => unitLoop r 8 4 num
    | none => unitLoop r 8 3 n).filter fun p => lDom r p.1 == 4

/-- The gang number and rank of a phase, in a launch with a .gng level. -/
def gangPlace (s : State) (p : Phase) : Option (Nat × Nat) :=
  match p.gang with
  | none => none
  | some g => (s.gang? g).map fun x => (x.num, x.members.findIdx fun u => u == p.uid)

/-- Whether R237 lets a phase run on a die. -/
def boundOk (s : State) (l : Launch) (p : Phase) (die : Nat) : Bool :=
  (dieUnits l.record.toNat p.n ((gangPlace s p).map fun g => g.1)).all fun u =>
    l.units.all fun t => t.1 != u.1 || t.2.1 != u.2 || t.2.2 == die

/-- MODE.ILK of a launch's waves (R240). -/
def Launch.interlocked (l : Launch) : Bool := lIlk l.record.toNat || lStep l.record.toNat != Config.stepping.toNat

/-- The 256 bytes of a phase record header (Table 6.7). -/
def headerBytes (s : State) (l : Launch) (p : Phase) (st : PState) (reason ntile xsave : Nat) : List Byte :=
  let r := l.record.toNat
  let lvl := blockLvl r p.n (gangPlace s p)
  bytesLE 256 (xsave + ntile * 2 ^ 922 + reason * 2 ^ 926 + st.code * 2 ^ 928 + (lNw r - 1) * 2 ^ 931 + lCb r * 2 ^ 936 +
    l.interlocked.toNat * 2 ^ 940 + l.pcls * 2 ^ 941 + l.glade * 2 ^ 944 + l.oid * 2 ^ 948 + l.gen.toNat * 2 ^ 960 +
    p.phno.toNat * 2 ^ 976 + p.wlive.toNat * 2 ^ 992 + l.recVa * 2 ^ 1024 +
    ((List.range 6).foldl (fun a i => a + lvl (i + 2) % 2 ^ 32 * 2 ^ (1088 + 32 * i)) 0))

/-! ## Blaze tables (R253 to R256) -/

/-- Generation a is newer than b (R254). -/
def newer (a b : W16) : Bool := decide (1 ≤ (a - b).toNat) && decide ((a - b).toNat ≤ 32767)

def isBlaze (oid key : Nat) (b : Blaze) : Bool := b.oid == oid && b.key.toNat == key
/-- The owner's entry for a key. -/
def State.blaze? (s : State) (oid key : Nat) : Option Blaze := s.blazes.find? (isBlaze oid key)

/-- The keys that gate a phase. -/
def gateKeys (s : State) (l : Launch) (p : Phase) : List Nat :=
  if 8 ≤ p.ntile then []
  else
    let t := lItpl l.record.toNat p.ntile
    (List.range (tKeys t)).map (tKey t (blockLvl l.record.toNat p.n (gangPlace s p)))

/-- The tile-edge predecessors of a graph node have completed (R264), as far as its counter, when no command owns it (R363), tells; or the
address at which its pinned counter cannot be read (R263). -/
def nodeReady (s : State) (oid : Nat) (x : Nat × Nat × Nat) : Except Nat Bool :=
  if x.2.2 = 0 then .ok true
  else match s.runs.find? fun r => r.uid == x.1 with
    | none => .ok true
    | some r =>
      let a := r.ctr + 8 * x.2.1
      if pinsHeld s oid [(a, 8)] false then .ok false
      else match pinRead s oid a 8 with
      | none => .error (pinBad s oid false [(a, 8)])
      | some b => .ok (bitsOf (natLE b) 0 16 == r.gen.toNat && bitsOf (natLE b) 32 16 == 0)

/-- The graph nodes that a launch's producers hang on: its own, and those of the launches that it comes from. -/
def Launch.nodes (l : Launch) : List (Nat × Nat × Nat) :=
  (match l.node with
    | some (run, j) => [(run, j, l.tinit)]
    | none => []) ++ l.preds

/-- Every producer of a launch's phases has completed (R255, R264); an error for a fault on a pinned counter. -/
def producersDone (s : State) (l : Launch) : Except Nat Bool :=
  let gone (u : Nat) : Bool := match s.launch? u with
    | some x => x.ovr
    | none => true
  l.nodes.foldl (fun a x => match a, nodeReady s l.oid x with
    | .error e, _ => .error e
    | _, .error e => .error e
    | .ok p, .ok q => .ok (p && q)) (.ok (l.producers.all gone))

/-- How the keys of a phase stand: satisfied, not yet, stale with the key and the entry's generation (R255), or not to be told for a
fault on a pinned counter, which is a double fault (R263). -/
inductive Gate where
  | opened
  | shut
  | broken (va : Nat)
  | stale (key : Nat) (gen : W16)
  deriving DecidableEq, Repr

def gateOf (s : State) (l : Launch) (p : Phase) : Gate :=
  let keys := gateKeys s l p
  match keys.findSome? fun k => match s.blaze? l.oid k with
    | some b => if newer b.gen l.gen then some (k, b.gen) else none
    | none => none with
  | some (k, g) => .stale k g
  | none =>
    let here (k : Nat) : Bool := match s.blaze? l.oid k with
      | some b => b.gen == l.gen
      | none => false
    if keys.all here then .opened
    else match producersDone s l with
      | .error va => .broken va
      | .ok true => .opened
      | .ok false => .shut

/-- A fault that ends the block of a phase on no core: one fatal record, and the phase is done. -/
def phaseFault (s : State) (l : Launch) (p : Phase) (cls detail vaddr : Nat) : State :=
  let (s1, ok) := removePhase (raiseRecord s (phaseRecord l p l.die cls detail vaddr)) p
  if ok then s1 else phaseDouble s1 l p l.die (stateAt s p.uid)

/-- The stale-blaze fault of a phase that is on no core (R255): fatal to its block. -/
def stalePhase (s : State) (l : Launch) (p : Phase) (key : Nat) (gen : W16) : State :=
  phaseFault s l p 9 (l.gen.toNat * 2 ^ 16 + gen.toNat) key

/-- A phase enters ready: its count restarts (R247, R248). -/
def readyPhase (s : State) (uid : Nat) : State :=
  let (k, s1) := s.fresh
  (setPhase s1 uid .ready).mapPhase uid fun p => { p with order := k, age := 0, ageClk := 0, waitedSince := none }

/-- A phase after its creation or after a PHASE goes to ready or gated, or ends stale once gated (Table 11.6). -/
def gatePhase (s : State) (l : Launch) (p : Phase) : State :=
  match gateOf s l p with
  | .opened => readyPhase s p.uid
  | .broken va => phaseDouble s l p l.die va
  | _ => setPhase s p.uid .gated

/-! ## Choice among phases (R247) -/

/-- The quota key of an owner on a die. -/
def quotaKey (die oid : Nat) : Nat := 4096 * die + oid
def quotaOff (die oid : Nat) : Nat := 0x80000 + 32 * oid + 8 * die
def budgetOf (s : State) (die oid : Nat) : Nat := s.regBits (quotaOff die oid) 0 32
def usedOf (s : State) (die oid : Nat) : Nat := spGet 0 s.used (quotaKey die oid)
/-- R252. -/
def exhausted (s : State) (die oid : Nat) : Bool :=
  budgetOf s die oid != 0xFFFFFFFF && decide (budgetOf s die oid ≤ usedOf s die oid)

/-- Nothing kept, as of a new block and after a PHASE. -/
def Kept.empty : Kept :=
  { ways := 0, slots := 0, spareE := 0, spareO := 0, claims := [], frames := [], slot := none, tenant := none, copies := [],
    ops := [], pushes := [], barrier := none, windows := [], moved := [] }

/-- The waves of a phase. -/
def Phase.waves (p : Phase) : List Nat := lanesOf p.wlive

/-- What a phase takes at once on a core (R126, R130): its base, or the allocation it was saved with. -/
def phaseBase (p : Phase) (r h0 : Nat) : Units :=
  match p.kept.slot with
  | none => baseUnits r p.waves h0
  | some _ =>
    let on (h : Nat) : Nat := (p.kept.claims.filter fun c => (h0 + c.1) % 2 == h).foldl (fun a c => a + c.2) 0
    let even := p.kept.spareE
    let odd := p.kept.spareO
    { r0 := on 0 + (if h0 = 0 then even else odd), r1 := on 1 + (if h0 = 0 then odd else even), ways := p.kept.ways,
      slots := p.kept.slots }

/-- A grove of the owner's glade (R247, R374). -/
def groveOf (s : State) (glade die grove : Nat) : Bool := s.gldBits glade (116 + 12 * die + grove) 1 == 1

/-- A core can admit a phase (R130). -/
def coreAdmits (s : State) (l : Launch) (p : Phase) (die core : Nat) : Bool :=
  groveOf s l.glade die (core / 16) &&
    admits s die core l.record.toNat p.waves (phaseBase p l.record.toNat (startHalf (onCore s die core)))

/-- Distinct cores for several phases, each the first that admits it (R214). -/
def seatAll (s : State) (l : Launch) (die : Nat) : List Phase → List Nat → Option (List (Nat × Nat))
  | [], _ => some []
  | p :: t, cores =>
    match cores.find? fun c => coreAdmits s l p die c with
    | none => none
    | some c => (seatAll s l die t (cores.erase c)).map fun r => (p.uid, c) :: r

/-- The cores of a grove. -/
def groveCores (grove : Nat) : List Nat := (List.range 16).map fun i => 16 * grove + i

/-- The phases dispatched together with a phase: itself, or its gang's members that have not ended. -/
def together (s : State) (p : Phase) : List Phase :=
  match p.gang with
  | none => [p]
  | some g => match s.gang? g with
    | none => [p]
    | some x => (x.members.filter fun u => !x.ended.contains u).filterMap s.phase?

/-- Where a phase, or its whole gang, is seated when `core` takes it (R214, R216). -/
def seating (s : State) (l : Launch) (p : Phase) (die core : Nat) : Option (List (Nat × Nat)) :=
  match p.gang with
  | none => if coreAdmits s l p die core then some [(p.uid, core)] else none
  | some _ =>
    match seatAll s l die (together s p) (groveCores (core / 16)) with
    | none => none
    | some t => if t.any fun x => x.2 == core then some t else none

/-- All conditions of R247 but the core: ready with its gang, quota left, and not bound elsewhere. -/
def mayDispatch (s : State) (l : Launch) (p : Phase) (die : Nat) : Bool :=
  !l.dead && ((together s p).all fun x => x.st == .ready && !s.waitsOnPage (.phase x.uid)) && !exhausted s die l.oid && boundOk s l p die

/-- Some core, or grove, of the die can take the phase. -/
def someCore (s : State) (l : Launch) (p : Phase) (die : Nat) : Bool :=
  (List.range 12).any fun g => groveOf s l.glade die g &&
    (match p.gang with
      | none => (groveCores g).any fun c => coreAdmits s l p die c
      | some _ => (seatAll s l die (together s p) (groveCores g)).isSome)

/-- R247. -/
def dispatchable (s : State) (l : Launch) (p : Phase) (die : Nat) : Bool := mayDispatch s l p die && someCore s l p die

/-- A candidate of the distributor, with what R247 orders it by. -/
structure Cand where
  p    : Phase
  l    : Launch
  pass : Nat
  deriving DecidableEq, Repr

/-- The first candidate goes before the second. -/
def Cand.before (a b : Cand) : Bool :=
  let aa := decide (16 ≤ a.p.age)
  let ab := decide (16 ≤ b.p.age)
  if aa != ab then aa
  else if aa && a.p.age != b.p.age then decide (b.p.age < a.p.age)
  else if a.l.pcls != b.l.pcls then decide (b.l.pcls < a.l.pcls)
  else if a.pass != b.pass then decide (a.pass < b.pass)
  else if a.l.oid != b.l.oid then decide (a.l.oid < b.l.oid)
  else decide (a.p.order < b.p.order)

/-- The best of a list of candidates. -/
def bestCand : List Cand → Option Cand
  | [] => none
  | a :: t => match bestCand t with
    | none => some a
    | some b => if b.before a then some b else some a

/-- The dispatchable phases of die `pool`'s ready pool, on die `die`. -/
def candidates (s : State) (pool die : Nat) : List Cand :=
  s.phases.filterMap fun p =>
    if p.st = .ready then
      match s.launch? p.launch with
      | some l => if l.die == pool && dispatchable s l p die then
          some { p := p, l := l, pass := spGet 0 s.pass (quotaKey die l.oid) } else none
      | none => none
    else none

/-- The phase that a die's distributor chooses: of its own pool, else of the other pools from the next die on (R247). -/
def chosen (s : State) (die : Nat) : Option Cand :=
  [die, (die + 1) % 4, (die + 2) % 4, (die + 3) % 4].findSome? fun d => bestCand (candidates s d die)

/-- Each dispatch adds 2^24 div w to the owner's pass value (R247). -/
def chargePass (s : State) (die oid : Nat) : State :=
  let k := quotaKey die oid
  { s with pass := spSet 0 k (spGet 0 s.pass k + 2 ^ 24 / max 1 (budgetOf s die oid / 2 ^ 16)) s.pass }

/-- The owners that have become eligible on a die take the lowest pass value among their class's eligible owners (R247). -/
def noteEligible (s : State) (die : Nat) : State :=
  let cs := ([0, 1, 2, 3].flatMap fun d => candidates s d die)
  let now := (cs.map fun c => c.l.oid).eraseDups
  let was (oid : Nat) : Bool := s.eligible.contains (quotaKey die oid)
  let join (m : Sparse Nat) (oid : Nat) : Sparse Nat :=
    if was oid then m
    else
      let classes := (cs.filter fun c => c.l.oid == oid).map fun c => c.l.pcls
      let peers := (cs.filter fun c => c.l.oid != oid && was c.l.oid && classes.contains c.l.pcls).map fun c => c.pass
      match peers with
      | [] => m
      | x :: t => spSet 0 (quotaKey die oid) (t.foldl min x) m
  { s with pass := now.foldl join s.pass,
           eligible := (s.eligible.filter fun k => k / 4096 != die) ++ now.map (quotaKey die) }

end Sys2Proof.Machine
end

