-- ==== Sys2Proof/Machine/Pixels.lean ====
section
/-!
DEFINITION. Group 13: PXST, PXLD, TEX, TEXF and RAST (R336 to R340, R350 to R355), with layers, maps, grants and pixels
(R333, R335, R341, R346).
-/
namespace Sys2Proof.Machine

/-- Frame a is not later than frame b (R331). -/
def notLater (a b : Nat) : Bool := decide ((b + 2 ^ 32 - a % 2 ^ 32) % 2 ^ 32 < 2 ^ 31)

/-! ## Layer records (Table 16.4), as a number -/

def yBack (y : Nat) : Nat := bitsOf y 896 64
def yQbuf (y i : Nat) : Nat := bitsOf y (640 + 64 * i) 64
def yQtgt (y i : Nat) : Nat := bitsOf y (512 + 32 * i) 32
def yCwaddr (y : Nat) : Nat := bitsOf y 448 64
def yTint (y i : Nat) : Nat := bitsOf y (400 + 16 * i) 16
def yCalpha (y : Nat) : Nat := bitsOf y 384 16
def yPitch (y : Nat) : Nat := bitsOf y 352 32
def yHgt (y : Nat) : Nat := bitsOf y 336 16
def yWid (y : Nat) : Nat := bitsOf y 320 16
def yOrgY (y : Nat) : Int := toSigned 16 (bitsOf y 304 16)
def yOrgX (y : Nat) : Int := toSigned 16 (bitsOf y 288 16)
def yBlur (y : Nat) : Nat := bitsOf y 261 3 + 1
def yFmt (y : Nat) : Nat := bitsOf y 259 2
def yQtail (y : Nat) : Nat := bitsOf y 224 32
def yQhead (y : Nat) : Nat := bitsOf y 192 32

/-- Bytes of a pixel of a surface format. -/
def pixelSize (fmt : Nat) : Nat := if fmt = 2 then 8 else 4

/-- A record that makes its layer absent (R335). -/
def recordAbsent (y : Nat) : Bool :=
  yFmt y == 3 || bitsOf y 264 24 != 0 || bitsOf y 256 3 != 0 || bitsOf y 0 160 != 0 || yWid y == 0 || yHgt y == 0 ||
  yPitch y % 64 != 0 || decide (yPitch y < yWid y * pixelSize (yFmt y))

/-- An entry of a display's layer table. -/
def layerEntry (s : State) (d oid : Nat) : Nat := natLE (s.physBytes (layerBase s d + 8 * oid) 8)

/-- The address of an owner's layer record on a display, as of the start of its frame in progress (R356); 0 for none. -/
def layerAt (s : State) (d oid : Nat) : Nat :=
  match s.layers.find? fun l => l.1 == d with
  | some l => spGet 0 l.2 oid
  | none => layerEntry s d oid

/-- An owner's layer record: `none` is a fault on the pinned structure, an inner `none` is no layer. -/
def layerRecord (s : State) (d oid : Nat) : Option (Option Nat) :=
  let a := layerAt s d oid
  if a = 0 then some none else (pinRead s oid a 128).map fun l => some (natLE l)

/-- The layer record that a wave's PXST or PXLD reads as plain loads do (R337): its core's own stores first (R177), after commands that
own it (R363) and flips of its frame (R325). -/
def Ctx.layerRecord (c : Ctx) (s : State) (d : Nat) : Except Stop (Option Nat) :=
  let a := layerAt s d c.b.oid
  if a = 0 then .ok none
  else if pinsHeld s c.b.oid [(a, 128)] false then c.wait s
  else match rangeKeys s (s.hw c.b.oid) { rd := true, wr := false, pin := true } a 128 with
    | .error _ => .error (.double (pinBad s c.b.oid false [(a, 128)]) c.e.mask)
    | .ok ks => .ok (some (natLE (ks.map (coreByte s c.b.die c.b.core))))

/-- Surface coordinates of a screen pixel, when it lies in the layer rectangle. -/
def surfaceXY (y : Nat) (px py : Nat) : Option (Nat × Nat) :=
  let u := (px : Int) - yOrgX y
  let v := (py : Int) - yOrgY y
  if 0 ≤ u ∧ u < (yWid y : Int) ∧ 0 ≤ v ∧ v < (yHgt y : Int) then some (u.toNat, v.toNat) else none

/-- The address of surface pixel (u, v) from a base. -/
def pixelAddr (y base u v : Nat) : Nat := (base + v * yPitch y + u * pixelSize (yFmt y)) % 2 ^ 64

/-! ## Pixels (R339 to R341) -/

/-- Four channels. -/
structure Px where
  r : Nat
  g : Nat
  b : Nat
  a : Nat
  deriving DecidableEq, Repr

def f16Val (x : Nat) : FVal := decodeF (fmtOf .f16) x

/-- A value clamped to [0, 1], a NaN giving 0, times `m`, rounded to nearest-even. -/
def unitTimes (v : FVal) (m : Nat) : Nat :=
  match v with
  | .nan => 0
  | .inf s => if s then 0 else m
  | .fin s k e =>
    if s ∨ k = 0 then 0
    else if !ltV false (.fin false k e) (.fin false 1 0) then m
    else (roundToInt 0 false (k * m) e).1.toNat

/-- The raw channels of a pixel word of a format: bytes, 10-bit fields, or f16 patterns. -/
def rawPx (fmt x : Nat) : Px :=
  match fmt with
  | 1 => { r := bitsOf x 0 10, g := bitsOf x 10 10, b := bitsOf x 20 10, a := bitsOf x 30 2 }
  | 2 => { r := bitsOf x 0 16, g := bitsOf x 16 16, b := bitsOf x 32 16, a := bitsOf x 48 16 }
  | _ => { r := bitsOf x 0 8, g := bitsOf x 8 8, b := bitsOf x 16 8, a := bitsOf x 24 8 }

/-- The pixel word of raw channels. -/
def packPx (fmt : Nat) (p : Px) : Nat :=
  match fmt with
  | 1 => p.r + p.g * 2 ^ 10 + p.b * 2 ^ 20 + p.a * 2 ^ 30
  | 2 => p.r + p.g * 2 ^ 16 + p.b * 2 ^ 32 + p.a * 2 ^ 48
  | _ => p.r + p.g * 2 ^ 8 + p.b * 2 ^ 16 + p.a * 2 ^ 24

/-- The largest value of a channel: colour, and alpha. -/
def chMax (fmt : Nat) (alpha : Bool) : Nat := if fmt = 1 then (if alpha then 3 else 1023) else 255

def Px.map (p : Px) (c a : Nat → Nat) : Px := { r := c p.r, g := c p.g, b := c p.b, a := a p.a }

/-- Pixel16: 16-bit channels of a surface pixel (R341). -/
def pixel16 (fmt x : Nat) : Px :=
  let p := rawPx fmt x
  match fmt with
  | 1 => p.map (fun c => c * 64 + c / 16) (fun a => a * 0x5555)
  | 2 => p.map (fun h => unitTimes (f16Val h) 65535) (fun h => unitTimes (f16Val h) 65535)
  | _ => p.map (fun c => c * 257) (fun c => c * 257)

/-- Encode16: a pixel of 16-bit channels in a surface format (R341). -/
def encode16 (fmt : Nat) (p : Px) : Nat :=
  let half (c : Nat) : Nat := (deliver (fmtOf .f16) 0 false (ratE false c 65535 0)).bits
  if fmt = 2 then packPx 2 (p.map half half)
  else packPx fmt (p.map (fun c => (c * chMax fmt false + 32767) / 65535) (fun a => (a * chMax fmt true + 32767) / 65535))

/-- PXST.f32's encoding (R340). -/
def encodeF32 (fmt : Nat) (p : Px) : Nat :=
  let half (x : Nat) : Nat := encodeV (fmtOf .f16) (f32Val x)
  if fmt = 2 then packPx 2 (p.map half half)
  else packPx fmt (p.map (fun x => unitTimes (f32Val x) (chMax fmt false)) (fun x => unitTimes (f32Val x) (chMax fmt true)))

/-- PXLD's f32 channels (R339). -/
def loadF32 (fmt x : Nat) : Px :=
  let widen (h : Nat) : Nat := encodeV (fmtOf .f32) (f16Val h)
  let part (m c : Nat) : Nat := f32Of (ratE false c m 0)
  if fmt = 2 then (rawPx 2 x).map widen widen else (rawPx fmt x).map (part (chMax fmt false)) (part (chMax fmt true))

/-- Mul and Over (R341). -/
def mul16 (a b : Nat) : Nat := (a * b + 32767) / 65535
def over16 (s d : Px) : Px :=
  let f (x y : Nat) : Nat := min 65535 (x + mul16 y (65535 - s.a))
  { r := f s.r d.r, g := f s.g d.g, b := f s.b d.b, a := f s.a d.a }

/-! ## PXST and PXLD -/

/-- A display operand. -/
def dispOperand (o : Operand) : Option Nat :=
  match o with
  | .int n => if n.val < 4 then some n.val else none
  | _ => none

/-- A coordinate operand: v, q or s. -/
def coordOperand (s : State) (c : Ctx) (o : Operand) (act : W32) : Except Stop (List Nat × Wave) :=
  match o with
  | .v _ | .q _ | .s _ => readRaw s c c.w o .b32 false act
  | _ => c.illegalOp

/-- Registers that a pixel takes: four, one, or an even pair. -/
def pixelRegs (t : Ty) : Nat := if t = .f32 then 4 else if is64 t then 2 else 1

/-- A v operand of a pixel. -/
def pixelRange (c : Ctx) (t : Ty) (o : Operand) : Option Nat :=
  match o with
  | .v n => if n.val + pixelRegs t ≤ 8 * c.w.claim ∧ !(is64 t && n.val % 2 == 1) then some n.val else none
  | _ => none

/-- The width check of R337. -/
def widthBad (t : Ty) (rec : Option Nat) : Bool :=
  match rec with
  | none => false
  | some y => (t == .b32 && decide (2 ≤ yFmt y)) || (t == .b64 && yFmt y != 2)

/-- The layer that a pixel instruction uses: its record unless the layer is absent. -/
def usable (rec : Option Nat) : Option Nat :=
  match rec with
  | some y => if recordAbsent y then none else some y
  | none => none

/-- The pixel that a lane's PXST writes, unless it is discarded (R337). -/
def pxstTarget (s : State) (oid d : Nat) (rec : Option Nat) (xy : Nat) : Option Nat :=
  let px := xy % 2 ^ 16
  let py := xy / 2 ^ 16 % 2 ^ 16
  match usable rec with
  | none => none
  | some y =>
    if mapLets s d oid px py = false then none
    else (surfaceXY y px py).map fun uv => pixelAddr y (yBack y) uv.1 uv.2

/-- The channels of a lane's f32 value. -/
def lanePx (c : Ctx) (n l : Nat) : Px :=
  { r := (c.readV n l).toNat, g := (c.readV (n + 1) l).toNat, b := (c.readV (n + 2) l).toNat, a := (c.readV (n + 3) l).toNat }

/-- What a lane's PXST writes over an old pixel word. -/
def pxstValue (c : Ctx) (t : Ty) (ovr : Bool) (fmt n l old : Nat) : Nat :=
  if t = .f32 then
    let v := lanePx c n l
    if ovr then
      let p := v.map (fun x => unitTimes (f32Val x) 65535) (fun x => unitTimes (f32Val x) 65535)
      encode16 fmt (over16 p (pixel16 fmt old))
    else encodeF32 fmt v
  else if is64 t then joinPair (c.readV n l) (c.readV (n + 1) l)
  else (c.readV n l).toNat

/-- The pixel address that a lane of PXLD reads (R339). -/
def pxldTarget (rec : Option Nat) (k : Nat) : Option Nat :=
  match usable rec with
  | none => none
  | some y => (surfaceXY y (k % 2 ^ 16) (k / 2 ^ 16 % 2 ^ 16)).map fun uv => pixelAddr y (yBack y) uv.1 uv.2

/-- The accesses of the lanes that have a pixel address. -/
def pixelAccesses (act : W32) (tgt : Nat → Option Nat) (need : Need) : List (Nat × Nat × Need) :=
  (lanesOf act).filterMap fun l => (tgt l).map fun a => (l, a, need)

/-- A lane of a PXST stores its pixel; to the control block it asks for the register write. -/
def storePixel (s : State) (c : Ctx) (at0 : Nat × Nat × Nat) (hint va : Nat) (l : List Byte) (q : Spot) : State :=
  let s1 := storeAt s c (some at0) hint va l q
  match q with
  | .mem p => match p.tgt with
    | .dcb off => dcbWrite s1 (bytesAt off l)
    | _ => s1
  | _ => s1

/-- The state after the lanes of a PXST have stored their pixels, whose coordinates are `xy`. -/
def pixelsStored (s : State) (c : Ctx) (f : Fields) (d fmt n : Nat) (xy : List Nat) (tgt : Nat → Option Nat) (sp : List (Nat × Spot)) : State :=
  let ovr := f.op4 == .int 1
  let size := pixelSize fmt
  sp.foldl (fun s p =>
    let old := if ovr then natLE (spotBytes s c.b size p.2) else 0
    let q := (xy[p.1]?).getD 0
    storePixel s c (d, q % 2 ^ 16, q / 2 ^ 16 % 2 ^ 16) f.hint.toNat ((tgt p.1).getD 0) (bytesLE size (pxstValue c f.ty ovr fmt n p.1 old)) p.2) s

/-- The words that a PXLD delivers (R339). -/
def pixelWords (s : State) (c : Ctx) (f : Fields) (fmt : Nat) (sp : List (Nat × Spot)) : List (List W32) :=
  let word (l : Nat) : Option Nat := (sp.find? fun p => p.1 == l).map fun p => natLE (spotBytes s c.b (pixelSize fmt) p.2)
  let col (g : Nat → Nat) : List W32 := lanes32.map fun l => BitVec.ofNat 32 (((word l).map g).getD 0)
  if f.ty = .f32 then
    [col fun x => (loadF32 fmt x).r, col fun x => (loadF32 fmt x).g, col fun x => (loadF32 fmt x).b, col fun x => (loadF32 fmt x).a]
  else if is64 f.ty then [col fun x => x, col fun x => x / 2 ^ 32]
  else [col fun x => x]

/-- PXST (R337, R338). A PXST or a PXLD in which no lane participates is taken to read its layer record too, and can fault on it: log entry
52. -/
def execPxst (f : Fields) (s : State) : Host.Outcome State Fault Refusal :=
  issue 0x340 f s fun s c =>
    let act := c.parts f
    match coordOperand s c f.op1 act, pixelRange c f.ty f.op2, dispOperand f.op3 with
    | .error e, _, _ => .error e
    | .ok (xy, w), some n, some d =>
      match c.layerRecord s d with
      | .error e => .error e
      | .ok rec =>
        if widthBad f.ty rec then c.illegalOp
        else
          let fmt := (rec.map yFmt).getD 0
          let tgt (l : Nat) : Option Nat := pxstTarget s c.b.oid d rec ((xy[l]?).getD 0)
          let lost := (lanesOf act).filter fun l => (tgt l).isNone
          match checkAccesses s c false (pixelAccesses act tgt { rd := f.op4 == .int 1, wr := true }) (pixelSize fmt) false with
          | .error e => .error e
          | .ok sp =>
            let s1 := pixelsStored (s.withWave c w) c f d fmt n xy tgt sp
            match lost with
            | [] => .ok (.seq s1)
            | l :: _ => .ok (.seq (noteFault s1 c 7 (lost.length + 2 ^ 8 * d) ((xy[l]?).getD 0) (maskOf fun i => lost.contains i)))
    | .ok _, _, _ => c.illegalOp

/-- PXLD (R339). -/
def execPxld (f : Fields) (s : State) : Host.Outcome State Fault Refusal :=
  issue 0x341 f s fun s c =>
    let act := c.parts f
    match pixelRange c f.ty f.op0, dispOperand f.op2, coordOperand s c f.op1 act with
    | _, _, .error e => .error e
    | some _, some d, .ok (xy, w) =>
      match c.layerRecord s d with
      | .error e => .error e
      | .ok rec =>
        if widthBad f.ty rec then c.illegalOp
        else
          let fmt := (rec.map yFmt).getD 0
          let tgt (l : Nat) : Option Nat := pxldTarget rec ((xy[l]?).getD 0)
          match checkAccesses s c false (pixelAccesses act tgt { rd := true, wr := false }) (pixelSize fmt) false with
          | .error e => .error e
          | .ok sp =>
            let s1 := sp.foldl (fun s p => noteRead s c.b f.hint.toNat ((tgt p.1).getD 0) p.2) (s.withWave c w)
            let s2 := result s1 c (c.now s1) f f.op0 false true act 0 (pixelWords s c f fmt sp) 0
            .ok (.seq (inFlight s2 c (lanes32.map fun l => (tgt l).getD 0) sp))
    | _, _, .ok _ => c.illegalOp

/-! ## Grants (R346) -/

def grantRecord (s : State) (i : Nat) : Nat := natLE (s.physBytes (grantBase s + 32 * i) 32)
def gBase (g : Nat) : Nat := bitsOf g 192 64
def gSize (g : Nat) : Nat := bitsOf g 160 32
def gExp (g : Nat) : Nat := bitsOf g 128 32
def gScope (g : Nat) : Nat := bitsOf g 61 2
def gDisp (g : Nat) : Nat := bitsOf g 59 2
def gGrantee (g : Nat) : Nat := bitsOf g 12 12
def gGrantor (g : Nat) : Nat := bitsOf g 0 12
/-- A grant holds at a frame. -/
def grantHolds (g frame : Nat) : Bool :=
  bitAt g 63 == 1 && bitsOf g 24 34 == 0 && (bitAt g 58 == 1 || notLater frame (gExp g))

/-! ## Texture (R350 to R352) -/

def xBase (t : Nat) : Nat := bitsOf t 0 64
def xW (t : Nat) : Nat := bitsOf t 96 16 + 1
def xH (t : Nat) : Nat := bitsOf t 112 16 + 1
def xNlm1 (t : Nat) : Nat := bitsOf t 128 4
def xFmt (t : Nat) : Nat := bitsOf t 132 2
def xWrapU (t : Nat) : Bool := bitAt t 134 == 1
def xWrapV (t : Nat) : Bool := bitAt t 135 == 1
def xGidx (t : Nat) : Nat := bitsOf t 138 16
/-- Bytes of a texel: SC32F and RGBA8 4, RGBA16F 8. -/
def xSize (t : Nat) : Nat := if xFmt t = 1 then 8 else 4

/-- A descriptor that is an illegal operand (R350). -/
def descriptorBad (t : Nat) : Bool :=
  bitsOf t 154 102 != 0 || bitsOf t 136 2 != 0 || bitsOf t 64 32 != 0 || xFmt t == 3 || xBase t % 64 != 0 ||
  decide (bitLen (max (xW t) (xH t)) ≤ xNlm1 t)

/-- Width, height and pitch of a level. -/
def levelW (t i : Nat) : Nat := max 1 (xW t / 2 ^ i)
def levelH (t i : Nat) : Nat := max 1 (xH t / 2 ^ i)
def levelPitch (t i : Nat) : Nat := (levelW t i * xSize t + 63) / 64 * 64
/-- The address where level `i` starts. -/
def levelBase (t : Nat) : Nat → Nat
  | 0 => xBase t
  | i + 1 => levelBase t i + levelPitch t i * levelH t i

/-- Clamp(RoundEven(λ), 0, NLM1); a NaN gives 0 (R351). -/
def levelOf (t lam : Nat) : Nat :=
  match f32Val lam with
  | .nan => 0
  | .inf s => if s then 0 else xNlm1 t
  | .fin s m e => min (xNlm1 t) (roundToInt 0 s m e).1.toNat

/-- One axis of R351: the two texel indices and the fraction of 256. -/
def axisOf (coord n : Nat) (wrap : Bool) : Nat × Nat × Nat :=
  let tv := f32Val (f32Of (fmaE 0 (f32Val coord) (.fin false n 0) (.fin true 1 (-1))))
  let (fl, y) : Int × Int := match tv with
    | .fin s m e => (floorV s m e, (roundToInt 0 s m (e + 8)).1)
    | _ => (0, 0)
  let a0 := y - 256 * fl
  let (i0, a) : Int × Nat := if a0 = 256 then (fl + 1, 0) else (fl, a0.toNat)
  let fix (i : Int) : Nat := if wrap then (i % (n : Int)).toNat else (max 0 (min i ((n : Int) - 1))).toNat
  (fix i0, fix (i0 + 1), a)

/-- The four texels of a sample, in the order 00, 10, 01, 11: address and weight. -/
def texels (t lvl u v : Nat) : List (Nat × Nat) :=
  let (u0, u1, a) := axisOf u (levelW t lvl) (xWrapU t)
  let (v0, v1, e) := axisOf v (levelH t lvl) (xWrapV t)
  let at0 (x y : Nat) : Nat := (levelBase t lvl + y * levelPitch t lvl + x * xSize t) % 2 ^ 64
  [(at0 u0 v0, (256 - a) * (256 - e)), (at0 u1 v0, a * (256 - e)), (at0 u0 v1, (256 - a) * e), (at0 u1 v1, a * e)]

/-- A texel as f32 channels. -/
def texelF32 (t x : Nat) : Px :=
  match xFmt t with
  | 0 => loadF32 0 x
  | 1 => loadF32 2 x
  | _ => { r := x, g := 0, b := 0, a := 0x3F800000 }

/-- One channel of the weighted sum. -/
def texSum (l : List (Nat × Nat)) : Nat :=
  l.foldl (fun acc p => f32Of (addE 0 (f32Val acc) (f32Val (f32Of (mulE (f32Val p.1) (.fin false p.2 (-16))))))) 0

/-- The gated page that a texel lies on: the leaf's GG, and the owner of the frame. -/
def gatedOwner (s : State) (b : Block) (a : Nat) : Option Nat :=
  match b.winOfVa a with
  | some _ => none
  | none => match translate s b.who a with
    | .leaf w l _ => if leafGG w then some (s.frame (frameOf (leafPhys w l a) (leafLin w) (leafMsh w))).oid.toNat else none
    | _ => none

/-- The grant check of a lane (R352). -/
def consents (s : State) (b : Block) (t : Nat) (tx : List (Nat × Nat)) : Bool :=
  let g := grantRecord s (xGidx t)
  grantHolds g (frame32 s (gDisp g)) && gScope g == 1 && gGrantee g == b.oid &&
    (tx.all fun p => match gatedOwner s b p.1 with
      | some o => gGrantor g == o
      | none => true) &&
    tx.all fun p => decide (gBase g ≤ p.1) && decide (p.1 < gBase g + gSize g)

/-- The texels of each lane's sample, at its level of detail (R351). -/
def laneTexels (c : Ctx) (t cv : Nat) (lam : Nat → Nat) (l : Nat) : List (Nat × Nat) :=
  texels t (levelOf t (lam l)) (c.readV cv l).toNat (c.readV (cv + 1) l).toNat

/-- The gated texel addresses of a lane (R352). -/
def gatedTexels (s : State) (c : Ctx) (tx : Nat → List (Nat × Nat)) (l : Nat) : List Nat :=
  ((tx l).filter fun p => (gatedOwner s c.b p.1).isSome).map fun p => p.1

/-- The lanes that fail the grant check (R352). -/
def lostLanes (s : State) (c : Ctx) (t : Nat) (act : W32) (tx : Nat → List (Nat × Nat)) : List Nat :=
  (lanesOf act).filter fun l => !(gatedTexels s c tx l).isEmpty && !consents s c.b t (tx l)

/-- The texel accesses of the lanes that pass it. -/
def texelAccesses (s : State) (c : Ctx) (t : Nat) (act : W32) (tx : Nat → List (Nat × Nat)) : List (Nat × Nat × Need) :=
  ((lanesOf act).filter fun l => !(lostLanes s c t act tx).contains l).flatMap fun l =>
    (tx l).map fun p => (l, p.1, ({ rd := true, wr := false, gate := true } : Need))

/-- The four channels that a TEX or TEXF delivers (R351): each the weighted sum of a lane's four texels. -/
def sampledWords (s : State) (c : Ctx) (t : Nat) (act : W32) (tx : Nat → List (Nat × Nat)) (sp : List (Nat × Spot)) : List (List W32) :=
  let goes := (lanesOf act).filter fun l => !(lostLanes s c t act tx).contains l
  let vals (l : Nat) : List (Px × Nat) :=
    ((sp.filter fun p => p.1 == l).zip (tx l)).map fun p => (texelF32 t (natLE (spotBytes s c.b (xSize t) p.1.2)), p.2.2)
  let col (g : Px → Nat) : List W32 := lanes32.map fun l =>
    if goes.contains l then BitVec.ofNat 32 (texSum ((vals l).map fun p => (g p.1, p.2))) else 0
  [col fun p => p.r, col fun p => p.g, col fun p => p.b, col fun p => p.a]

/-- TEX and TEXF from the level of each lane (R351, R352). -/
def sampling (s : State) (c : Ctx) (w : Wave) (f : Fields) (act : W32) (t cv : Nat) (lam : Nat → Nat) : Except Stop Go :=
  let tx := laneTexels c t cv lam
  let acc := texelAccesses s c t act tx
  match checkAccesses s c false acc (xSize t) false with
  | .error e => .error e
  | .ok sp =>
    let s1 := (sp.zip acc).foldl (fun s p => noteRead s c.b f.hint.toNat p.2.2.1 p.1.2) (s.withWave c w)
    let first (l : Nat) : Nat := match acc.find? fun a => a.1 == l with
      | some a => a.2.1
      | none => 0
    let s2 := inFlight (result s1 c (c.now s1) f f.op0 false true act 0 (sampledWords s c t act tx sp) 0) c (lanes32.map first) sp
    match lostLanes s c t act tx with
    | [] => .ok (.seq s2)
    | l :: m => .ok (.seq (noteFault s2 c 8 (xGidx t) ((gatedTexels s c tx l).headD 0) (maskOf fun i => (l :: m).contains i)))

/-- The number of s(T) to s(T + 7). -/
def descriptor (c : Ctx) (o : Operand) : Option Nat :=
  match o with
  | .s n => if n.val ≤ 120 then some ((List.range 8).foldl (fun a i => a + (c.readS false (n + i)).toNat * 2 ^ (32 * i)) 0) else none
  | _ => none

/-- The destination of four registers and the coordinate pair of TEX and TEXF. -/
def texRegs (c : Ctx) (f : Fields) : Option Nat :=
  match f.op0, f.op1 with
  | .v d, .v n => if d.val + 4 ≤ 8 * c.w.claim ∧ n.val + 2 ≤ 8 * c.w.claim then some n.val else none
  | _, _ => none

/-- TEX (R351). -/
def execTex (f : Fields) (s : State) : Host.Outcome State Fault Refusal :=
  issue 0x342 f s fun s c =>
    let act := c.parts f
    let levelOk : Bool := match f.op3 with
      | .v _ | .q _ | .flt _ | .zero => true
      | .s _ => f.op3 == f.op2
      | _ => false
    match texRegs c f, descriptor c f.op2 with
    | some cv, some t =>
      if !levelOk || descriptorBad t then c.illegalOp
      else match readRaw s c c.w f.op3 .f32 false act with
        | .error e => .error e
        | .ok (lam, w) => sampling s c w f act t cv fun l => (lam[l]?).getD 0
    | _, _ => c.illegalOp

/-- One axis pair of TEXF's level: the squared length of a derivative in texels. -/
def gradient (t du dv : Nat) : Nat :=
  let sq (d n : Nat) : FVal :=
    let x := f32Val (f32Of (mulE (f32Val d) (.fin false n 0)))
    f32Val (f32Of (mulE x x))
  f32Of (addE 0 (sq du (xW t)) (sq dv (xH t)))

/-- λ of TEXF (R351). Max is FMAX, so that one NaN passes through and the level is 0: log entry 52. -/
def texfLevel (t : Nat) (d : Px) : Nat :=
  let m := minMaxF (fmtOf .f32) true false (f32Val (gradient t d.r d.g)) (f32Val (gradient t d.b d.a))
  let k := specialF .flog2 (fmtOf .f32) (64 * (fmtOf .f32).eb + (fmtOf .f32).fb) false m
  f32Of (mulE (.fin false 1 (-1)) (f32Val k.bits))

/-- TEXF (R351). -/
def execTexf (f : Fields) (s : State) : Host.Outcome State Fault Refusal :=
  issue 0x343 f s fun s c =>
    let act := c.parts f
    match texRegs c f, descriptor c f.op2, f.op3 with
    | some cv, some t, .v g =>
      if descriptorBad t ∨ 8 * c.w.claim < g.val + 4 then c.illegalOp
      else sampling s c c.w f act t cv fun l => texfLevel t (lanePx c g l)
    | _, _, _ => c.illegalOp

/-! ## RAST (R353, R355) -/

/-- The triangles that a RAST captures (R353). -/
def rastOf (c : Ctx) (a : Nat) (n : Nat) (vis : List Nat) (act : W32) : Rast :=
  { tile := (c.readS false n).toNat, ox := (c.readS false (n + 1)).toNat % 2 ^ 16, oy := (c.readS false (n + 1)).toNat / 2 ^ 16,
    tris := (lanesOf act).map fun l => (List.range 9).map fun i => c.readV (a + i) l,
    words := (lanesOf act).map fun l => BitVec.ofNat 32 ((vis[l]?).getD 0) }

/-- A flip holds a frame that the tile lies in, through a window (R325). -/
def tileFlips (s : State) (b : Block) (wave tile : Nat) : Bool :=
  !s.flips.isEmpty && (enginePieces b wave (tile, 8192)).any fun p => p.blk.isNone && !(s.flipsOf p.lo).isEmpty

/-- RAST: the triangles are captured, and the raster engine owns the tile until it has finished. -/
def execRast (f : Fields) (s : State) : Host.Outcome State Fault Refusal :=
  issue 0x344 f s fun s c =>
    let act := c.parts f
    match f.op1, f.op2, f.op3 with
    | .v a, o, .s n =>
      let ok : Bool := match o with
        | .v _ | .q _ => true
        | _ => false
      if !ok || n.val % 2 = 1 || 8 * c.w.claim < a.val + 9 then c.illegalOp
      else match readRaw s c c.w o .b32 false act with
        | .error e => .error e
        | .ok (vis, w) =>
          let tile := (c.readS false n).toNat
          if act = 0 then .ok (.seq (s.withWave c w))                         -- R30: it completes at issue
          else if tile % 128 ≠ 0 then c.align tile
          else if c.b.z < tile + 8192 then c.protection tile
          else match fillRanges s c.b c.ref.wave true [(tile, 8192)] with
            | .error (off, d) => .error (.fault 6 d off c.e.mask)
            | .ok s0 =>
              if pathStuck s c.b.die c.b.core || tileFlips s c.b c.ref.wave tile then c.wait s
              else
                let (id, s1) := (drainCore s0 c.b.die c.b.core).fresh
                .ok (.seq (takeLines (s1.withWave c (startLong c w f id .none true act true [] 0 (some (rastOf c a n vis act)))) c.b id))
    | _, _, _ => c.illegalOp

end Sys2Proof.Machine
end

