-- ==== Sys2Proof/Machine/Canopy.lean ====
section
/-!
DEFINITION. Canopy and the displays: FRAME_START, MAP_COMMAND, CAPTURE_START, DISPLAY_ENABLE and DISPLAY_DISABLE (R330 to R334,
R341 to R349, R368).
-/
namespace Sys2Proof.Machine

/-! ## Map commands (R334) -/

/-- The bounds of a rectangle register: X0, Y0, X1, Y1. -/
def rectOf (r : Nat) : Nat × Nat × Nat × Nat := (bitsOf r 0 16, bitsOf r 16 16, bitsOf r 32 16, bitsOf r 48 16)

/-- The pixels of a rectangle, row by row. -/
def rectPixels (r : Nat) : List (Nat × Nat) :=
  let (x0, y0, x1, y1) := rectOf r
  (List.range (y1 - y0)).flatMap fun j => (List.range (x1 - x0)).map fun i => (x0 + i, y0 + j)

/-- The summary word of a 16 × 16 block: its common entry, or class 15 in slot 0. -/
def blockWord (s : State) (d bx yb : Nat) : Nat :=
  let es := (List.range 16).flatMap fun j => (List.range 16).filterMap fun i =>
    let x := 16 * bx + i
    let y := 16 * yb + j
    if x < dispW s d ∧ y < dispH s d then some (mapEntry s d x y) else none
  match es with
  | [] => 0
  | e :: t => if t.all fun x => x == e then e else 0xF000

/-- The 16 × 16 blocks that a rectangle meets. -/
def rectBlocks (r : Nat) : List (Nat × Nat) :=
  let (x0, y0, x1, y1) := rectOf r
  (List.range ((y1 + 15) / 16 - y0 / 16)).flatMap fun j => (List.range ((x1 + 15) / 16 - x0 / 16)).map fun i => (x0 / 16 + i, y0 / 16 + j)

/-- The address of a block's summary word. -/
def sumAddr (s : State) (d : Nat) (b : Nat × Nat) : Nat := sumBase s d + 8 * (b.2 * ((dispW s d + 15) / 16) + b.1)

/-- Brings the summary in step for the blocks of a rectangle. -/
def summarise (s : State) (d r : Nat) : State :=
  (rectBlocks r).foldl (fun s b => writePhys s (sumAddr s d b) (bytesLE 8 (blockWord s d b.1 b.2))) s

/-- A map entry or a summary word that a map command writes is held by a command (R363). -/
def mapHeld (s : State) (m : MapCmd) : Bool :=
  let held (a : Nat) : Bool := heldKeys s (owners s) (targetOf a false 0).key 8 true
  anyHeld s && ((rectPixels m.rect.toNat).any (fun p => held (mapAddr s m.d p.1 p.2)) || (rectBlocks m.rect.toNat).any fun b => held (sumAddr s m.d b))

/-- A map command takes effect: slot SLOT of every pixel of the rectangle takes VALUE, and BUSY clears. The screen's width and MAPBASE are
those that then stand, and the rectangle is not checked again: log entry 52. -/
def applyMap (s : State) (m : MapCmd) : State :=
  let r := m.rect.toNat
  let s1 := (rectPixels r).foldl (fun s p => writePhys s (mapAddr s m.d p.1 p.2 + 2 * m.slot) (bytesLE 2 m.value.toNat)) s
  (summarise s1 m.d r).setRegBits (dispOff m.d + 0x38) 21 1 0

/-- Stores of a core's path to lines that a PXST to display `d` has a store to. -/
def pixelLine (s : State) (d : Nat) (p : Pending) : Bool :=
  s.path.any fun q => (q.disp.any fun x => x.1 == d) && q.die == p.die && q.core == p.core && q.key / 128 == p.key / 128

/-- A store of a PXST to the display waits for a command. -/
def pixelsStuck (s : State) (d : Nat) : Bool := !s.path.isEmpty && !(stuckStores s (pixelLine s d) s.path).isEmpty

/-- The pending map commands of a display wait. -/
def mapsWait (s : State) (d : Nat) : Bool := pixelsStuck s d || s.mapCmds.any fun m => m.d == d && mapHeld s m

/-- A display's pending map commands take effect. The lanes that PXSTs have in flight were checked against the old entries: they are
performed before the boundary (R337, R356). -/
def applyMaps (s : State) (d : Nat) : State :=
  let s0 := drainPath s (pixelLine s d)
  let s1 := (s0.mapCmds.filter fun m => m.d == d).foldl applyMap s0
  { s1 with mapCmds := s1.mapCmds.filter fun m => m.d != d }

/-- The status with which a map command is refused, or 0: the lowest where several apply, log entry 52. -/
def mapStatus (s : State) (d slot value r : Nat) : Nat :=
  let (x0, y0, x1, y1) := rectOf r
  let cls := value / 2 ^ 12
  if 6 ≤ cls then 1
  else if x1 ≤ x0 ∨ y1 ≤ y0 ∨ dispW s d < x1 ∨ dispH s d < y1 then 2
  else if cls ≠ 0 ∧ ((rectPixels r).any fun p =>
      let e := mapEntry s d p.1 p.2
      [0, 1, 2, 3].any fun j => j != slot && slotFull e j && slotOid e j == value % 2 ^ 12) then 3
  else 0

/-- A write of MAPOP (Table 16.3). While BUSY the whole write is dropped: log entry 52. -/
def writeMapop (s : State) (d v : Nat) : State :=
  let off := dispOff d + 0x38
  if s.regBits off 21 1 = 1 then s
  else
    let s1 := (s.setRegBits off 16 2 (bitsOf v 16 2)).setRegBits off 0 16 (bitsOf v 0 16)
    if bitAt v 20 = 0 then s1
    else
      let rect := s.reg (dispOff d + 0x30)
      let st := mapStatus s d (bitsOf v 16 2) (bitsOf v 0 16) rect.toNat
      let s2 := s1.setRegBits off 24 4 st
      if st ≠ 0 then s2
      else
        let m : MapCmd := { d := d, rect := rect, slot := bitsOf v 16 2, value := BitVec.ofNat 16 v }
        if dispOn s d || pixelsStuck s2 d || mapHeld s2 m then { s2.setRegBits off 21 1 1 with mapCmds := s2.mapCmds ++ [m] }
        else applyMap (drainPath s2 (pixelLine s2 d)) m

/-- MAP_COMMAND (R334). -/
def execMapCommand (d : Nat) (v : W32) (s : State) : Host.Outcome State Fault Refusal :=
  if 4 ≤ d ∨ v.getLsbD 20 = false then .next s else .next (writeMapop s d v.toNat)

/-! ## Captures (R348) -/

def capOff (d : Nat) : Nat := dispOff d + 0x50

/-- A capture ends: ERR as told, BUSY 0. -/
def endCapture (s : State) (d err : Nat) : State :=
  let s1 := (s.setRegBits (capOff d) 15 1 err).setRegBits (capOff d) 14 1 0
  { s1 with captures := s1.captures.filter fun x => x != d }

/-- A write of CAPCTL (Table 16.8). Without GO, FILL and COID are taken while BUSY too: log entry 52. -/
def writeCapctl (s : State) (d v : Nat) : State :=
  let off := capOff d
  if bitAt v 13 = 1 ∧ s.regBits off 14 1 = 1 then s
  else
    let s1 := (s.setRegBits off 16 32 (bitsOf v 16 32)).setRegBits off 0 12 (bitsOf v 0 12)
    if bitAt v 13 = 0 then s1
    else if !dispOn s d then endCapture s1 d 1
    else
      let s2 := (s1.setRegBits off 15 1 0).setRegBits off 14 1 1
      { s2 with captures := s2.captures ++ [d] }

/-- CAPTURE_START (R332, R348). -/
def execCaptureStart (d : Nat) (v : W64) (s : State) : Host.Outcome State Fault Refusal :=
  if 4 ≤ d ∨ v.getLsbD 13 = false then .next s else .next (writeCapctl s d v.toNat)

/-! ## Enabling and disabling (R330, R332) -/

/-- A write of DCTL. -/
def writeDctl (s : State) (d v : Nat) : State :=
  let off := dispOff d
  let fields := bitsOf v 0 3 + bitsOf v 32 32 * 2 ^ 32
  if bitAt v 0 = 1 then
    if 7679 < bitsOf v 32 16 ∨ 4319 < bitsOf v 48 16 ∨ !Config.linkCarries d (BitVec.ofNat 64 fields) then s.setRegBits off 3 1 1
    else s.setReg off (BitVec.ofNat 64 fields)
  else
    let s1 := if mapsWait s d then s else applyMaps s d
    let s2 := if s1.captures.contains d then endCapture s1 d 1 else s1
    { s2.setReg off (BitVec.ofNat 64 fields) with layers := s2.layers.filter fun l => l.1 != d }

/-- DISPLAY_ENABLE (R330). -/
def execDisplayEnable (d : Nat) (v : W64) (s : State) : Host.Outcome State Fault Refusal :=
  if 4 ≤ d ∨ v.getLsbD 0 = false then .next s else .next (writeDctl s d v.toNat)

/-- Map commands of a display without frames take effect once no earlier PXST store to it waits (R332, R337). -/
def settleMaps (s : State) : State :=
  if s.mapCmds.isEmpty then s
  else [0, 1, 2, 3].foldl (fun s d => if dispOn s d || mapsWait s d then s else applyMaps s d) s

/-- DISPLAY_DISABLE (R332): pending map commands take effect, and a pending capture ends with ERR. -/
def execDisplayDisable (d : Nat) (v : W64) (s : State) : Host.Outcome State Fault Refusal :=
  if 4 ≤ d ∨ v.getLsbD 0 = true then .next s else .next (writeDctl s d v.toNat)

/-! ## Frame pacing (R345) -/

/-- A layer that Canopy uses for a frame: its owner, its record, and the latched buffer. -/
structure Used where
  oid  : Nat
  y    : Nat
  addr : Option Nat
  deriving DecidableEq, Repr

/-- The newest queued buffer whose target is not later than F. -/
def eligible (y f : Nat) : Option Nat :=
  let n := (yQtail y + 2 ^ 32 - yQhead y) % 2 ^ 32
  if 4 < n then none
  else (List.range n).foldl (fun b i => if notLater (yQtgt y ((yQhead y + i) % 4)) f then some i else b) none

/-- The layer table as the frame that starts finds it (R356). -/
def latchTable (s : State) (d : Nat) : State :=
  let tab := ((List.range 4096).map fun o => (o, layerEntry s d o)).filter fun p => p.2 != 0
  { s with layers := (d, tab) :: s.layers.filter fun l => l.1 != d }

def dropLatch (s : State) (d oid : Nat) : State := { s with latches := s.latches.filter fun l => !(l.d == d && l.oid == oid) }

/-- Writes several pinned ranges of an owner in order. -/
def pinAll (s : State) (oid : Nat) (l : List (Nat × List Byte)) : Option State :=
  l.foldl (fun a p => match a with
    | none => none
    | some s => pinWrite s oid p.1 p.2) (some s)

/-- What the latch of a layer at frame F leaves: its latched buffer, and the ranges that Canopy writes, in order. -/
structure Latched where
  cur : Option Nat
  out : List (Nat × List Byte)
  deriving DecidableEq, Repr

def latched (s : State) (d f oid y : Nat) : Latched :=
  let best := eligible y f
  let cur := match best with
    | some i => some (yQbuf y ((yQhead y + i) % 4))
    | none => (s.latches.find? fun l => l.d == d && l.oid == oid).map fun l => l.addr.toNat
  let at0 := layerAt s d oid
  let front := match cur with
    | some x => [(at0 + 120, bytesLE 8 x)]
    | none => []
  let latch := match best with
    | some _ => [(at0 + 20, bytesLE 4 f)]
    | none => []
  let head := match best with
    | some i => yQhead y + i + 1
    | none => yQhead y
  let cw := if yCwaddr y = 0 then [] else [(yCwaddr y, bytesLE 4 f)]
  { cur := cur, out := front ++ latch ++ [(at0 + 24, bytesLE 4 head)] ++ cw }

/-- A layer of a glade in reset: its record is out of reach, so it stands as it was last latched, and its surface reads as zeros (R394). -/
def resetLayer (s : State) (d oid : Nat) : List Used :=
  (s.latches.filter fun l => l.d == d && l.oid == oid).map fun l => { oid := oid, y := l.record.toNat, addr := some l.addr.toNat }

/-- One layer at the start of frame F: the latch, and what Canopy writes; a fault on a pinned structure is a double fault. What then stands
of the latch, no rule says: none of FRONT, LATCHF, QHEAD and the completion word is written, and the layer is left out of the frame, log
entry 52. -/
def latchLayer (d f : Nat) (a : State × List Used) (oid : Nat) : State × List Used :=
  let (s, us) := a
  if 2 ≤ s.rstep (s.ctxGlade oid) ∧ layerAt s d oid ≠ 0 then (s, us ++ resetLayer s d oid)
  else match layerRecord s d oid with
  | none => (doubleFault (dropLatch s d oid) oid 0 (pinBad s oid false [(layerAt s d oid, 128)]), us)
  | some none => (dropLatch s d oid, us)
  | some (some y) =>
    if recordAbsent y then (dropLatch s d oid, us)
    else
      let n := latched s d f oid y
      let s1 := dropLatch s d oid
      let s2 : State := match n.cur with
        | some x => { s1 with latches := s1.latches ++ [{ d := d, oid := oid, addr := BitVec.ofNat 64 x, record := BitVec.ofNat 1024 y }] }
        | none => s1
      match pinAll s2 oid n.out with
      | none => (doubleFault s2 oid 0 (pinBad s2 oid true (n.out.map fun x => (x.1, x.2.length))), us)
      | some s3 => (s3, us ++ [{ oid := oid, y := y, addr := n.cur }])

/-! ## Composition (R342, R343) -/

/-- A surface pixel of a layer; a read that fails reads as (0, 0, 0, 0). -/
def surfacePx (s : State) (u : Used) (base x v : Nat) : Px :=
  let n := pixelSize (yFmt u.y)
  match ownerRead s u.oid (pixelAddr u.y base x v) n with
  | .ok l => pixel16 (yFmt u.y) (natLE l)
  | .error _ => { r := 0, g := 0, b := 0, a := 0 }

/-- C(n, i). -/
def choose : Nat → Nat → Nat
  | _, 0 => 1
  | 0, _ + 1 => 0
  | n + 1, i + 1 => choose n i + choose n (i + 1)

/-- One pass of the blur's weights over 2k + 1 values, channel by channel. -/
def blurPass (k : Nat) (g : Nat → Px) : Px :=
  let sum (ch : Px → Nat) : Nat :=
    ((List.range (2 * k + 1)).foldl (fun a i => a + choose (2 * k) i * ch (g i)) (2 ^ (2 * k - 1))) / 2 ^ (2 * k)
  { r := sum fun p => p.r, g := sum fun p => p.g, b := sum fun p => p.b, a := sum fun p => p.a }

/-- A coordinate moved by i - k and clamped to the screen. -/
def clampTo (n x k i : Nat) : Nat := min (x + i - k) (n - 1)

/-- The layer that a slot shows. -/
def slotLayer (us : List Used) (e j : Nat) : Option (Used × Nat) :=
  match us.find? fun u => u.oid == slotOid e j with
  | some u => u.addr.map fun a => (u, a)
  | none => none

/-- The value of d at a pixel from slots 0 to j - 1 of its entry (R342). -/
def composeTo (s : State) (d : Nat) (us : List Used) : Nat → Nat → Nat → Px
  | 0, _, _ =>
    let b := (s.reg (dispOff d + 0x10)).toNat
    { r := bitsOf b 0 16, g := bitsOf b 16 16, b := bitsOf b 32 16, a := 65535 }
  | j + 1, x, y =>
    let p := composeTo s d us j x y
    let e := mapEntry s d x y
    if !slotFull e j then p
    else match slotLayer us e j with
      | none => p
      | some (u, base) =>
        let cls := slotCls e j
        if cls = 5 then { p with r := mul16 p.r (yTint u.y 0), g := mul16 p.g (yTint u.y 1), b := mul16 p.b (yTint u.y 2) }
        else match surfaceXY u.y x y with
          | none => p
          | some (a, b) =>
            let src := surfacePx s u base a b
            match cls with
            | 1 => { src with a := 65535 }
            | 2 => over16 src p
            | 3 =>
              let al := yCalpha u.y
              let mix (c k : Nat) : Nat := min 65535 (mul16 c al + mul16 k (65535 - al))
              { r := mix src.r p.r, g := mix src.g p.g, b := mix src.b p.b, a := min 65535 (al + mul16 p.a (65535 - al)) }
            | _ =>
              let k := yBlur u.y
              over16 src (blurPass k fun m => blurPass k fun i =>
                composeTo s d us j (clampTo (dispW s d) x k i) (clampTo (dispH s d) y k m))

/-- The composed value of a pixel. -/
def composed (s : State) (d : Nat) (us : List Used) (x y : Nat) : Px := composeTo s d us 4 x y

/-- R344: the scanout value of a channel. -/
def scanValue (bpc10 : Bool) (c : Nat) : Nat := if bpc10 then (c * 1023 + 32767) / 65535 else (c * 255 + 32767) / 65535

/-- Every pixel of the screen. -/
def screenPixels (s : State) (d : Nat) : List (Nat × Nat) :=
  (List.range (dispH s d)).flatMap fun y => (List.range (dispW s d)).map fun x => (x, y)

/-- The frame that a display sends. -/
def scanOf (s : State) (d : Nat) (us : List Used) : List (Nat × Nat × Nat) :=
  let ten := s.regBits (dispOff d) 1 1 == 1
  (screenPixels s d).map fun q =>
    let p := composed s d us q.1 q.2
    (scanValue ten p.r, scanValue ten p.g, scanValue ten p.b)

/-! ## Captures written (R349) -/

/-- The contributors of a pixel. Pixels that only the blur of a slot nested below reads, at a pixel that this blur reads, are taken not to
count: log entry 52. -/
def contributors (s : State) (d : Nat) (us : List Used) (x y : Nat) : List Nat :=
  let e := mapEntry s d x y
  let full (e n : Nat) : List Nat := (List.range n).filterMap fun j => if slotFull e j then some (slotOid e j) else none
  full e 4 ++ (List.range 4).flatMap fun j =>
    if slotCls e j ≠ 4 then []
    else match slotLayer us e j with
      | none => []
      | some (u, _) =>
        let k := yBlur u.y
        if (surfaceXY u.y x y).isNone then []                     -- R342: the slot is skipped there
        else (List.range (2 * k + 1)).flatMap fun m => (List.range (2 * k + 1)).flatMap fun i =>
          full (mapEntry s d (clampTo (dispW s d) x k i) (clampTo (dispH s d) y k m)) j

/-- A contributor consents to a capture of a pixel by owner `coid`. -/
def captureConsent (s : State) (d coid f x y o : Nat) : Bool :=
  let gs := bitsOf ((s.reg (dispOff d + 0x60)).toNat + (s.reg (dispOff d + 0x68)).toNat * 2 ^ 64) 0 128
  let ok (i : Nat) : Bool :=
    let n := bitsOf gs (16 * i) 16
    let g := grantRecord s n
    n != 0xFFFF && grantHolds g f && gScope g == 2 && gGrantor g == o && gGrantee g == coid && gDisp g == d &&
      decide (bitsOf g 64 16 ≤ x) && decide (x < bitsOf g 96 16) && decide (bitsOf g 80 16 ≤ y) && decide (y < bitsOf g 112 16)
  o == coid || o == 0 || (List.range 8).any ok

/-- The RGBA8 word captured for a pixel. -/
def capturePx (s : State) (d coid fill f : Nat) (us : List Used) (x y : Nat) : Nat :=
  if (contributors s d us x y).all (captureConsent s d coid f x y) then
    let p := composed s d us x y
    packPx 0 (p.map (scanValue false) (scanValue false))
  else fill

/-- Writes the captured pixels in order; `none` after a failed write, with the bytes written before it kept. -/
def captureAll (coid base pitch x0 y0 : Nat) : List (Nat × Nat × Nat) → State → State × Bool
  | [], s => (s, true)
  | (x, y, v) :: t, s =>
    match ownerWrite s coid ((base + (y - y0) * pitch + 4 * (x - x0)) % 2 ^ 64) (bytesLE 4 v) with
    | .ok s1 => captureAll coid base pitch x0 y0 t s1
    | .error _ => (s, false)

/-- The capture pending on a display is performed with the frame (R348), with its registers as they stand then: log entry 52. -/
def performCapture (s : State) (d f : Nat) (us : List Used) : State :=
  if !s.captures.contains d then s
  else
    let ctl := (s.reg (capOff d)).toNat
    let coid := bitsOf ctl 0 12
    let rect := (s.reg (dispOff d + 0x40)).toNat
    let pv := (s.reg (dispOff d + 0x58)).toNat
    let on := (rectPixels rect).filter fun p => p.1 < dispW s d && p.2 < dispH s d
    let px := on.map fun p => (p.1, p.2, capturePx s d coid (bitsOf ctl 16 32) f us p.1 p.2)
    let (s1, ok) := captureAll coid (s.reg (dispOff d + 0x48)).toNat (bitsOf pv 0 32) (bitsOf rect 0 16) (bitsOf rect 16 16) px s
    if !ok then endCapture s1 d 1
    else match ownerWrite s1 coid (s.reg (dispOff d + 0x70)).toNat (bytesLE 4 (pv / 2 ^ 32)) with
      | .ok s2 => endCapture s2 d 0
      | .error _ => endCapture s1 d 1

/-! ## What a frame touches (R325, R363, R365, R368) -/

/-- The pixels of layer surfaces that a frame reads (R342): of each full slot of a pixel, where its layer has the pixel. -/
def surfaceReads (s : State) (d : Nat) (us : List Used) : List (Nat × Nat × Nat) :=
  (screenPixels s d).flatMap fun q =>
    let e := mapEntry s d q.1 q.2
    [0, 1, 2, 3].filterMap fun j =>
      if !slotFull e j || slotCls e j == 5 then none
      else match slotLayer us e j with
        | none => none
        | some (u, base) => (surfaceXY u.y q.1 q.2).map fun p => (u.oid, pixelAddr u.y base p.1 p.2, pixelSize (yFmt u.y))

/-- The ranges that a pending capture writes. -/
def captureRanges (s : State) (d : Nat) : List (Nat × Nat) :=
  let (x0, y0, x1, y1) := rectOf (s.reg (dispOff d + 0x40)).toNat
  let pitch := bitsOf (s.reg (dispOff d + 0x58)).toNat 0 32
  ((s.reg (dispOff d + 0x70)).toNat, 4) ::
    (List.range (min y1 (dispH s d) - y0)).map fun i => ((s.reg (dispOff d + 0x48)).toNat + i * pitch, 4 * (min x1 (dispW s d) - x0))

/-- A layer's record, or what Canopy would write for it, is held. -/
def layerHeld (s : State) (d f oid : Nat) : Bool :=
  layerAt s d oid != 0 && (pinsHeld s oid [(layerAt s d oid, 128)] false || match layerRecord s d oid with
    | some (some y) => !recordAbsent y && pinsHeld s oid ((latched s d f oid y).out.map fun x => (x.1, x.2.length)) true
    | _ => false)

/-- The machine when a frame has begun: FRAME has advanced, map commands have taken effect, and the layer table stands for the frame. -/
def frameBegun (s : State) (d : Nat) : State := latchTable (applyMaps (s.setReg (dispOff d + 8) (frameCount s d + 1)) d) d

/-- Every layer latched for the frame that has begun. -/
def latchAll (s : State) (d : Nat) : State × List Used := (List.range 4096).foldl (latchLayer d (frame32 s d)) (s, [])

/-- The next frame waits for PXST stores that wait, and where it would read or write what a command owns, write what one has still to read
(R363, R365, R368), or reach a frame that flips (R325). -/
def canopyWaits (s : State) (d : Nat) : Bool :=
  mapsWait s d || (anyHeld s &&
    let s1 := frameBegun s d
    (List.range 4096).any (layerHeld s1 d (frame32 s1 d)) ||
      (surfaceReads s1 d (latchAll s1 d).2).any (fun r => pinsHeld s1 r.1 [(r.2.1, r.2.2)] false) ||
      (s.captures.contains d && pinsHeld s1 (bitsOf (s.reg (capOff d)).toNat 0 12) (captureRanges s1 d) true))

/-- FRAME_START (R331, R342 to R349): FRAME advances, pending map commands take effect, layers are latched, the frame is composed
and sent, and a pending capture is written. -/
def execFrameStart (d : Nat) (s : State) : Host.Outcome State Fault Refusal :=
  if 4 ≤ d ∨ dispOn s d = false ∨ canopyWaits s d then .next s
  else
    let s1 := frameBegun s d
    let f := frame32 s1 d
    let (s2, us) := latchAll s1 d
    let s3 : State := { s2 with scans := { d := d, frame := frameCount s2 d, rgb := scanOf s2 d us } ::
                                           s2.scans.filter fun x => x.d != d }
    .next (performCapture s3 d f us)

end Sys2Proof.Machine
end

