-- ==== Sys2Proof/Machine/FloatArith.lean ====
section
/-!
DEFINITION. Groups 2 and 3: float arithmetic and the special functions (R86 to R96).
-/
namespace Sys2Proof.Machine

/-- What a float operation needs to know: the format, the rounding and whether it flushes. -/
structure FEnv where
  ty    : Ty
  fmt   : Fmt
  rnd   : Nat
  flush : Bool
  deriving DecidableEq, Repr

def fenv (f : Fields) (mode : W32) : FEnv :=
  { ty := f.ty, fmt := fmtOf f.ty, rnd := roundingOf mode f, flush := flushes mode f.ty }

/-- Reads an element (R63, R87). -/
def FEnv.read (e : FEnv) (x : Nat) : FVal := readF e.fmt e.flush x
/-- Delivers an exact result (R62 to R64). -/
def FEnv.deliver (e : FEnv) (x : Exact) : Res := (Machine.deliver e.fmt e.rnd e.flush x).res

/-- Applies an operation to the elements of one to three sources; the elements' flags are ORed (R74). -/
def floatOp (f : Fields) (g : FEnv → List Nat → Res) (mode : W32) (xs : List Nat) : Res :=
  let e := fenv f mode
  let rs := (List.range (elemCount f.ty)).map fun i => g e (xs.map fun x => elemAt (elemWidth f.ty) i x)
  (packResult f.ty (rs.map fun r => r.1), allFlags rs)

/-- The latency of group 2 (Table 4.2). -/
def floatLat (t : Ty) : Nat := if is64 t then 16 else 4

/-- A group 2 or 3 instruction whose result has its type's width. -/
def floatInstr (opc : Nat) (ks : List Nat) (long : Bool) (g : FEnv → List Nat → Res) (f : Fields) (s : State) :
    Host.Outcome State Fault Refusal :=
  computing opc ks (is64 f.ty) (floatLat f.ty) long true (floatOp f g) f s

/-- FADD (R88). -/
def execFadd (f : Fields) (s : State) : Host.Outcome State Fault Refusal :=
  floatInstr 0x080 [1, 2] false (fun e x => e.deliver (addE e.rnd (e.read (arg x 0)) (e.read (arg x 1)))) f s
/-- FSUB (R88). -/
def execFsub (f : Fields) (s : State) : Host.Outcome State Fault Refusal :=
  floatInstr 0x081 [1, 2] false (fun e x => e.deliver (addE e.rnd (e.read (arg x 0)) (negV (e.read (arg x 1))))) f s
/-- FMUL (R88). -/
def execFmul (f : Fields) (s : State) : Host.Outcome State Fault Refusal :=
  floatInstr 0x082 [1, 2] false (fun e x => e.deliver (mulE (e.read (arg x 0)) (e.read (arg x 1)))) f s
/-- FFMA (R88): one rounding. -/
def execFfma (f : Fields) (s : State) : Host.Outcome State Fault Refusal :=
  floatInstr 0x083 [1, 2, 3] false
    (fun e x => e.deliver (fmaE e.rnd (e.read (arg x 0)) (e.read (arg x 1)) (e.read (arg x 2)))) f s

/-- A minimum or maximum of two elements (R89). -/
def FEnv.pick (e : FEnv) (isMax num : Bool) (a b : FVal) : Nat := minMaxF e.fmt isMax num a b
/-- FMIN (R89). -/
def execFmin (f : Fields) (s : State) : Host.Outcome State Fault Refusal :=
  floatInstr 0x084 [1, 2] false (fun e x => quiet (e.pick false false (e.read (arg x 0)) (e.read (arg x 1)))) f s
/-- FMAX (R89). -/
def execFmax (f : Fields) (s : State) : Host.Outcome State Fault Refusal :=
  floatInstr 0x085 [1, 2] false (fun e x => quiet (e.pick true false (e.read (arg x 0)) (e.read (arg x 1)))) f s
/-- FMINN (R89). -/
def execFminn (f : Fields) (s : State) : Host.Outcome State Fault Refusal :=
  floatInstr 0x086 [1, 2] false (fun e x => quiet (e.pick false true (e.read (arg x 0)) (e.read (arg x 1)))) f s
/-- FMAXN (R89). -/
def execFmaxn (f : Fields) (s : State) : Host.Outcome State Fault Refusal :=
  floatInstr 0x087 [1, 2] false (fun e x => quiet (e.pick true true (e.read (arg x 0)) (e.read (arg x 1)))) f s
/-- FABS (R87). -/
def execFabs (f : Fields) (s : State) : Host.Outcome State Fault Refusal :=
  floatInstr 0x088 [1] false (fun e x => quiet (encodeV e.fmt (absV (e.read (arg x 0))))) f s
/-- FCLAMP (R89): FMinN(FMaxN(A, B), C). -/
def execFclamp (f : Fields) (s : State) : Host.Outcome State Fault Refusal :=
  floatInstr 0x089 [1, 2, 3] false
    (fun e x => quiet (e.pick false true (decodeF e.fmt (e.pick true true (e.read (arg x 0)) (e.read (arg x 1))))
      (e.read (arg x 2)))) f s
/-- FRND (R90). -/
def execFrnd (f : Fields) (s : State) : Host.Outcome State Fault Refusal :=
  floatInstr 0x08A [1] false (fun e x => quiet (frndF e.fmt e.rnd (e.read (arg x 0)))) f s
/-- FFRAC (R90): the subtraction is rounded toward zero. -/
def execFfrac (f : Fields) (s : State) : Host.Outcome State Fault Refusal :=
  floatInstr 0x08B [1] false (fun e x => (deliver e.fmt 1 e.flush (ffracE (e.read (arg x 0)))).res) f s

/-- FSCL's operation: B is one i32 that scales every element (R91). A NaN gives the canonical NaN (R53, R87), although R91 says that
NaNs pass through unchanged: log entry 52. -/
def fsclOp (f : Fields) (mode : W32) (xs : List Nat) : Res :=
  floatOp f (fun e x => e.deliver (fsclE (toSigned 32 (arg xs 1)) (e.read (arg x 0)))) mode [arg xs 0]
/-- FSCL (R91). -/
def execFscl (f : Fields) (s : State) : Host.Outcome State Fault Refusal :=
  computing 0x08C [1, 2] (is64 f.ty) (floatLat f.ty) false true (fsclOp f) f s

/-- FEXPN's operation: an i32 result. -/
def fexpnOp (f : Fields) (mode : W32) (xs : List Nat) : Res :=
  let e := fenv f mode
  fexpnF (e.read (arg xs 0 % 2 ^ elemWidth f.ty))
/-- FEXPN (R91). -/
def execFexpn (f : Fields) (s : State) : Host.Outcome State Fault Refusal :=
  computing 0x08D [1] false (floatLat f.ty) false true (fexpnOp f) f s
/-- FMANT (R91). -/
def execFmant (f : Fields) (s : State) : Host.Outcome State Fault Refusal :=
  floatInstr 0x08E [1] false (fun e x => quiet (fmantF e.fmt (e.read (arg x 0)))) f s
/-- FDIV (R92): long-latency. -/
def execFdiv (f : Fields) (s : State) : Host.Outcome State Fault Refusal :=
  floatInstr 0x08F [1, 2] true (fun e x => e.deliver (divE (e.read (arg x 0)) (e.read (arg x 1)))) f s
/-- FSQRT (R92): long-latency. -/
def execFsqrt (f : Fields) (s : State) : Host.Outcome State Fault Refusal :=
  floatInstr 0x090 [1] true (fun e x => e.deliver (sqrtE (e.read (arg x 0)))) f s

/-- A special function (R93): MODE.RND has no effect, and the result lies within its bound. -/
def specialInstr (opc : Nat) (fn : SpecialFn) (f : Fields) (s : State) : Host.Outcome State Fault Refusal :=
  floatInstr opc [1] true (fun e x => (specialF fn e.fmt (64 * e.fmt.eb + e.fmt.fb) e.flush (arg x 0)).res) f s

/-- FRCP (R93). -/
def execFrcp (f : Fields) (s : State) : Host.Outcome State Fault Refusal := specialInstr 0x0C0 .frcp f s
/-- FRSQ (R93). -/
def execFrsq (f : Fields) (s : State) : Host.Outcome State Fault Refusal := specialInstr 0x0C1 .frsq f s
/-- FEXP2 (R93). -/
def execFexp2 (f : Fields) (s : State) : Host.Outcome State Fault Refusal := specialInstr 0x0C2 .fexp2 f s
/-- FLOG2 (R93). -/
def execFlog2 (f : Fields) (s : State) : Host.Outcome State Fault Refusal := specialInstr 0x0C3 .flog2 f s
/-- FSIN (R95). -/
def execFsin (f : Fields) (s : State) : Host.Outcome State Fault Refusal := specialInstr 0x0C4 .fsin f s
/-- FCOS (R95). -/
def execFcos (f : Fields) (s : State) : Host.Outcome State Fault Refusal := specialInstr 0x0C5 .fcos f s
/-- FTANH (R93). -/
def execFtanh (f : Fields) (s : State) : Host.Outcome State Fault Refusal := specialInstr 0x0C6 .ftanh f s

end Sys2Proof.Machine
end

