-- ==== Sys2Proof/Machine/Convert.lean ====
section
/-!
DEFINITION. Group 4: conversion and packing (R66 to R70).
-/
namespace Sys2Proof.Machine

/-- Reads a float or tapered element (R54, R63). -/
def readNumber (t : Ty) (mode : W32) (x : Nat) : FVal :=
  if isTapered t then decodeT t (x % 2 ^ elemWidth t) else readF (fmtOf t) (flushes mode t) (x % 2 ^ elemWidth t)

/-- A float or tapered value as an integer: rounded, then saturated (Table 3.5, R64). -/
def toInteger (t : Ty) (rnd : Nat) : FVal → Res
  | .nan => (0, 1)
  | .inf s => (satTo (isSigned t) (elemWidth t) (if s then -(2 ^ 80 : Nat) else (2 ^ 80 : Nat)), 1)
  | .fin s m e =>
    let (x, inexact) := roundToInt rnd s m e
    let r := satTo (isSigned t) (elemWidth t) x
    if intVal t r = x then (r, if inexact then 16 else 0) else (r, 1)

/-- A value delivered in a float format (Table 3.5). -/
def toFloat (t : Ty) (rnd : Nat) (mode : W32) : FVal → Res
  | .nan => (nanBits (fmtOf t), 0)
  | .inf s => (deliver (fmtOf t) rnd (flushes mode t) (.inf s 0)).res
  | .fin s m e => (roundF (fmtOf t) rnd (flushes mode t) s m e false).res

/-- An integer as a finite value. -/
def intToF (x : Int) : FVal := .fin (decide (x < 0)) x.natAbs 0

/-- The source type of a CVT (R66). -/
def cvtSource (f : Fields) : Ty := readTy 0x100 f 1

/-- CVT's operation (Table 3.5). -/
def cvtOp (f : Fields) (mode : W32) (xs : List Nat) : Res :=
  let src := cvtSource f
  let dst := f.ty
  let rnd := roundingOf mode f
  let x := arg xs 0
  let sat := f.op3 == .int 1
  let r : Res :=
    if isInteger src && isInteger dst then
      (if sat then satTo (isSigned dst) (elemWidth dst) (intVal src x) else wrapTo (elemWidth dst) (intVal src x), 0)
    else
      let v := if isInteger src then intToF (intVal src x) else readNumber src mode x
      if isInteger dst then toInteger dst rnd v
      else if isTapered dst then (encodeT dst v).res
      else toFloat dst rnd mode v
  (packResult dst [r.1], r.2)

/-- CVT (R66). Its result is readable after 8 clk when either type is 64-bit: R43 speaks of 64-bit types, and no rule of the case in
which only one of the two is (log entry 52). -/
def execCvt (f : Fields) (s : State) : Host.Outcome State Fault Refusal :=
  computing 0x100 [1] (is64 f.ty) (if is64 f.ty || is64 (cvtSource f) then 8 else 4) false true (cvtOp f) f s

/-- The element type of a packed type. -/
def elemTy : Ty → Ty
  | .i16x2 => .i16 | .n16x2 => .n16 | .f16x2 => .f16 | .bf16x2 => .bf16 | .i8x4 => .i8 | .n8x4 => .n8
  | t => t

/-- PACK's operation (R67): floats are read as f32 and rounded, integers saturate. -/
def packOp (f : Fields) (mode : W32) (xs : List Nat) : Res :=
  let e := elemTy f.ty
  let one (x : Nat) : Res :=
    if isFloat e then toFloat e (roundingOf mode f) mode (readNumber .f32 mode x)
    else quiet (satTo (isSigned e) (elemWidth e) (intVal (if isSigned e then .i32 else .n32) x))
  let rs := xs.map one
  (joinElems (elemWidth e) (rs.map fun r => r.1), allFlags rs)

/-- PACK (R67). -/
def execPack (f : Fields) (s : State) : Host.Outcome State Fault Refusal :=
  computing 0x101 (if elemCount f.ty = 4 then [1, 2, 3, 4] else [1, 2]) false 4 false true (packOp f) f s

/-- UNPK's operation (R68): element k, widened to f32 or extended. -/
def unpkOp (f : Fields) (k : Nat) (mode : W32) (xs : List Nat) : Res :=
  let e := elemTy f.ty
  let x := elemAt (elemWidth e) k (arg xs 0)
  quiet (if isFloat e then encodeV (fmtOf .f32) (readNumber e mode x) else extendElem e x)

/-- UNPK (R68). -/
def execUnpk (f : Fields) (s : State) : Host.Outcome State Fault Refusal :=
  match f.op2 with
  | .int k =>
    if k.val < elemCount f.ty then computing 0x102 [1] false 4 false true (unpkOp f k) f s
    else issue 0x102 f s fun _ c => c.illegalOp
  | _ => issue 0x102 f s fun _ c => c.illegalOp

/-! ## Bit-plane groups (R69, R70) -/

/-- An integer as an element of a p type: saturated, or its sign for i1p. -/
def planeElem (t : Ty) (x : Nat) : Nat :=
  if t = .i1p then (if 0 ≤ toSigned 32 x then 1 else 0)
  else satTo (isSigned t) (elemWidth t) (intVal (if isSigned t then .i32 else .n32) x)

/-- The value of an element read from its top `p` planes (R59, R60), as a 32-bit result. -/
def planeVal (t : Ty) (p x : Nat) : Nat :=
  if t = .i1p then (if x = 1 then 1 else 2 ^ 32 - 1)
  else
    let n := elemWidth t
    let y := x / 2 ^ (n - p) * 2 ^ (n - p)
    if isSigned t then wrapTo 32 (toSigned n y) else y

/-- Plane `i` of 64 elements. -/
def planeWord (i : Nat) (l : List Nat) : Nat := joinElems 1 (l.map fun x => bitAt x i)

/-- BPACK (R69). -/
def execBpack (f : Fields) (s : State) : Host.Outcome State Fault Refusal :=
  issue 0x103 f s fun s c =>
    let act := c.parts f
    let isV (o : Operand) : Bool := match o with
      | .v _ => true
      | _ => false
    if !destOk c f.op0 false true false || !isV f.op1 || !isV f.op2 then c.illegalOp
    else match readSrcs s c 0x103 f false act [1, 2] c.w with
      | .error e => .error e
      | .ok (ls, w) =>
        let es := (((ls[0]?).getD []) ++ ((ls[1]?).getD [])).map (planeElem f.ty)
        let n := elemWidth f.ty
        let vals := lanes32.map fun l =>
          if l < 2 * n then planeWord (l / 2) es / 2 ^ (32 * (l % 2)) % 2 ^ 32 else 0
        .ok (.seq (result s c w f f.op0 false false act 8 (wordsOf false vals) 0))

/-- BUNPK (R70). -/
def execBunpk (f : Fields) (s : State) : Host.Outcome State Fault Refusal :=
  issue 0x104 f s fun s c =>
    let act := c.parts f
    let isV : Bool := match f.op1 with
      | .v _ => true
      | _ => false
    if !destOk c f.op0 false true false || !isV then c.illegalOp
    else match f.op2, f.op3 with
      | .int h, .int p =>
        if 2 ≤ h.val ∨ p.val = 0 ∨ elemWidth f.ty < p.val then c.illegalOp
        else match readSrcs s c 0x104 f false act [1] c.w with
          | .error e => .error e
          | .ok (ls, w) =>
            let v := (ls[0]?).getD []
            let n := elemWidth f.ty
            let word (i : Nat) : Nat := arg v (2 * i) % 2 ^ 32 + 2 ^ 32 * (arg v (2 * i + 1) % 2 ^ 32)
            let vals := lanes32.map fun l =>
              planeVal f.ty p (joinElems 1 ((List.range n).map fun i => bitAt (word i) (32 * h.val + l)))
            .ok (.seq (result s c w f f.op0 false false act 8 (wordsOf false vals) 0))
      | _, _ => c.illegalOp

end Sys2Proof.Machine
end

