-- ==== Sys2Proof/Machine/Compare.lean ====
section
/-!
DEFINITION. Group 5: compares, predicates and select (R99 to R102).
-/
namespace Sys2Proof.Machine

/-- A test of the values of its sources: its flags, and the bit it writes to a predicate, or 1 or 0 to a scalar (R99). -/
def testing (opc : Nat) (lat : Nat) (code : Fields → Bool) (fn : W32 → List Nat → Bool × Nat) (f : Fields) (s : State) :
    Host.Outcome State Fault Refusal :=
  issue opc f s fun s c =>
    let scalar := isScalar opc f
    let act := c.parts f
    let dst : Bool := match f.op0 with
      | .p _ => true
      | .s _ => scalar
      | _ => false
    if !dst || !code f || (!scalar && !oneScalar f 0b00110) then c.illegalOp
    else match readSrcs s c opc f scalar act [1, 2] c.w with
      | .error e => .error e
      | .ok (ls, w) =>
        let at0 (l : Nat) : List Nat := ls.map fun v => (v[l]?).getD 0
        let rs : List (Bool × Nat) := lanes32.map fun l =>
          if scalar then fn c.w.mode (at0 0) else if act.getLsbD l then fn c.w.mode (at0 l) else (false, 0)
        .ok (.seq (result s c w f f.op0 scalar (popsQueue f 0b00110) act lat
          [rs.map fun r => if r.1 then 1 else 0] (allFlags (rs.map fun r => (0, r.2)))))

/-- The condition code of an ISETP or FSETP, if OP3 holds one (Table 5.2). -/
def condOf (lim : Nat) (f : Fields) : Option Nat :=
  match f.op3 with
  | .int n => if n.val < lim then some n.val else none
  | _ => none

/-- Whether a condition holds of an unordered pair, or of an ordered one that is less or equal (Table 5.2). -/
def condHolds (cc : Nat) (unord lt eq : Bool) : Bool :=
  match cc with
  | 0 => !unord && eq
  | 1 => !unord && !eq
  | 2 => !unord && lt
  | 3 => !unord && (lt || eq)
  | 4 => !unord && !(lt || eq)
  | 5 => !unord && !lt
  | 6 => unord || eq
  | 7 => unord || !eq
  | 8 => unord || lt
  | 9 => unord || lt || eq
  | 10 => unord || !(lt || eq)
  | 11 => unord || !lt
  | 12 => !unord
  | _ => unord

/-- ISETP (R100): cc 0 to 5. -/
def execIsetp (f : Fields) (s : State) : Host.Outcome State Fault Refusal :=
  testing 0x140 (intLat f.ty) (fun f => (condOf 6 f).isSome)
    (fun _ xs =>
      let a := intVal f.ty (arg xs 0)
      let b := intVal f.ty (arg xs 1)
      (condHolds ((condOf 6 f).getD 0) false (decide (a < b)) (decide (a = b)), 0)) f s

/-- FSETP (R100): NV when unordered and cc is 2 to 5. -/
def execFsetp (f : Fields) (s : State) : Host.Outcome State Fault Refusal :=
  testing 0x141 (if is64 f.ty then 8 else 4) (fun f => (condOf 14 f).isSome)
    (fun mode xs =>
      let a := readNumber f.ty mode (arg xs 0)
      let b := readNumber f.ty mode (arg xs 1)
      let un := isNanV a || isNanV b
      let cc := (condOf 14 f).getD 0
      (condHolds cc un (ltV false a b) (eqV a b), if un && 2 ≤ cc && cc ≤ 5 then 1 else 0)) f s

/-- FCLASS (R101): the raw pattern's class against the mask. -/
def execFclass (f : Fields) (s : State) : Host.Outcome State Fault Refusal :=
  testing 0x142 4 (fun _ => true)
    (fun _ xs => (bitAt (arg xs 1) (classBit (fmtOf f.ty) (arg xs 0 % 2 ^ elemWidth f.ty)) == 1, 0)) f s

/-- SEL (R102). -/
def execSel (f : Fields) (s : State) : Host.Outcome State Fault Refusal :=
  issue 0x143 f s fun s c =>
    let act := c.parts f
    let pair := is64 f.ty
    if !oneScalar f 0b01100 || f.op0 == .none || !destOk c f.op0 false true pair then c.illegalOp
    else match predNum f.op1 with
      | none => c.illegalOp
      | some n =>
        match readSrcs s c 0x143 f false act [2, 3] c.w with
        | .error e => .error e
        | .ok (ls, w) =>
          let p := c.readP n
          let vals := lanes32.map fun l => arg ((ls[if p.getLsbD l then 0 else 1]?).getD []) l
          .ok (.seq (result s c w f f.op0 false (popsQueue f 0b01100) act (intLat f.ty) (wordsOf pair vals) 0))

/-- A PLOP operation on whole predicates (Table 5.3). -/
def plopBits (op : Nat) (a b : W32) : W32 :=
  match op with
  | 0 => a &&& b
  | 1 => a ||| b
  | 2 => a ^^^ b
  | 3 => a &&& ~~~b
  | 4 => a ||| ~~~b
  | 5 => ~~~(a ^^^ b)
  | 6 => ~~~(a &&& b)
  | 7 => ~~~(a ||| b)
  | 8 => a
  | _ => ~~~a

/-- PLOP (R102). -/
def execPlop (f : Fields) (s : State) : Host.Outcome State Fault Refusal :=
  issue 0x144 f s fun s c =>
    let act := c.parts f
    match predNum f.op0, predNum f.op1, f.op3 with
    | some d, some a, .int op =>
      let two := decide (op.val < 8)
      match if two then predNum f.op2 else if f.op2 = .none then some 15 else none with
      | none => c.illegalOp
      | some b =>
        if 9 < op.val then c.illegalOp
        else
          .ok (.seq (s.withWave c (c.w.write c.clk 4 false
            { reg := .p d, mask := act, vals := [plopBits op (c.readP a) (c.readP b)] })))
    | _, _, _ => c.illegalOp

/-- PTOV (R102). -/
def execPtov (f : Fields) (s : State) : Host.Outcome State Fault Refusal :=
  issue 0x145 f s fun s c =>
    let act := c.parts f
    if f.op0 == .none || !destOk c f.op0 false true false then c.illegalOp
    else match predNum f.op1 with
      | none => c.illegalOp
      | some n =>
        let p := c.readP n
        let one : Nat := if f.ty = .b32 then 2 ^ 32 - 1 else 1
        .ok (.seq (result s c c.w f f.op0 false false act 4
          (wordsOf false (lanes32.map fun l => if p.getLsbD l then one else 0)) 0))

/-- VTOP (R102). -/
def execVtop (f : Fields) (s : State) : Host.Outcome State Fault Refusal :=
  issue 0x146 f s fun s c =>
    let act := c.parts f
    match predNum f.op0 with
    | none => c.illegalOp
    | some _ =>
      match readSrcs s c 0x146 f false act [1] c.w with
      | .error e => .error e
      | .ok (ls, w) =>
        .ok (.seq (result s c w f f.op0 false (popsQueue f 0b00010) act 4
          [((ls[0]?).getD []).map fun x => if x = 0 then 0 else 1] 0))

end Sys2Proof.Machine
end

