-- ==== Sys2Proof/Machine/Lanes.lean ====
section
/-!
DEFINITION. Group 6: moving data between lanes and the collectives (R103 to R112).
-/
namespace Sys2Proof.Machine

/-- Whether an operand is a v or q register, or also an s register or a constant of R38 (R103). -/
def laneKind (scalars : Bool) (o : Operand) : Bool :=
  match o with
  | .v _ | .q _ => true
  | .s _ | .int _ | .flt _ => scalars
  | _ => false

/-- A vector destination of `n` registers from `o` inside the claim (R18). -/
def vectorsOk (c : Ctx) (o : Operand) (n : Nat) : Bool :=
  match o with
  | .v d => decide (d.val + n ≤ 8 * c.w.claim)
  | _ => false

/-- SHFL (R104). -/
def execShfl (f : Fields) (s : State) : Host.Outcome State Fault Refusal :=
  issue 0x180 f s fun s c =>
    let act := c.parts f
    let pair := is64 f.ty
    if f.op0 == .none || !destOk c f.op0 false true pair || !laneKind false f.op1 || !laneKind true f.op2 then c.illegalOp
    else match readSrc s c c.w 0x180 f false act 2 with
      | .error e => .error e
      | .ok (ix, w) =>
        let src (l : Nat) : Nat := arg ix l % 32
        match readLanes s c w 0x180 f false ((lanesOf act).map fun l => (l, src l)) 1 with
        | .error e => .error e
        | .ok (a, w1) =>
          .ok (.seq (result s c w1 f f.op0 false false act (if pair then 8 else 4)
            (wordsOf pair (lanes32.map fun l => arg a (src l))) 0))

/-- TLU's result in one lane (R105). -/
def tluLane (tbl : Nat → Nat) (n idx fill : Nat) : Nat :=
  joinElems 8 ((List.range 4).map fun j =>
    let i := elemAt 8 j idx
    if i < 4 * n then elemAt 8 (i % 4) (tbl (i / 4)) else fill % 256)

/-- TLU (R105). -/
def execTlu (f : Fields) (s : State) : Host.Outcome State Fault Refusal :=
  issue 0x181 f s fun s c =>
    let act := c.parts f
    match f.op2, f.op3 with
    | .v t, .int n =>
      if n.val = 0 ∨ 8 < n.val ∨ 8 * c.w.claim < t.val + n.val then c.illegalOp
      else if f.op0 == .none || !destOk c f.op0 false true false || !laneKind true f.op1 || !laneKind true f.op4 ||
          !oneScalar f 0b10010 then c.illegalOp
      else match readSrcs s c 0x181 f false act [1, 4] c.w with
        | .error e => .error e
        | .ok (ls, w) =>
          let vals := lanes32.map fun l =>
            tluLane (fun i => (c.readV (t.val + i) l).toNat) n.val (arg ((ls[0]?).getD []) l) (arg ((ls[1]?).getD []) l)
          .ok (.seq (result s c w f f.op0 false false act 8 (wordsOf false vals) 0))
    | _, _ => c.illegalOp

/-- The source and lane that output register `j`, lane `l` takes: ZIPk interleaves, UNZk is its inverse (R106). -/
def zipFrom (unz : Bool) (k j l : Nat) : Nat × Nat :=
  if unz then ((k * l + j) / 32, (k * l + j) % 32) else ((32 * j + l) % k, (32 * j + l) / k)

/-- The lanes of source `i` that the lanes of `act` read. -/
def zipReads (unz : Bool) (k : Nat) (act : W32) (i : Nat) : Reads :=
  (lanesOf act).flatMap fun l => (List.range k).filterMap fun j =>
    if (zipFrom unz k j l).1 = i then some (l, (zipFrom unz k j l).2) else none

/-- ZIPk and UNZk. -/
def zipping (opc : Nat) (unz : Bool) (k : Nat) (f : Fields) (s : State) : Host.Outcome State Fault Refusal :=
  issue opc f s fun s c =>
    let act := c.parts f
    let srcs := (List.range k).map fun i => i + 1
    if !vectorsOk c f.op0 k || !srcs.all (fun i => laneKind false (f.op i)) then c.illegalOp
    else
      let vs := srcs.map fun i => readLanes s c c.w opc f false (zipReads unz k act (i - 1)) i
      match vs.find? (fun r => match r with
          | .error _ => true
          | .ok _ => false) with
      | some (.error e) => .error e
      | _ =>
        let val (i l : Nat) : Nat := match vs[i]? with
          | some (.ok (v, _)) => arg v l
          | _ => 0
        let ws := (List.range k).map fun j => lanes32.map fun l =>
          BitVec.ofNat 32 (val (zipFrom unz k j l).1 (zipFrom unz k j l).2)
        .ok (.seq (result s c c.w f f.op0 false false act 8 ws 0))

/-- ZIP2 (R106). -/
def execZip2 (f : Fields) (s : State) : Host.Outcome State Fault Refusal := zipping 0x182 false 2 f s
/-- ZIP3 (R106). -/
def execZip3 (f : Fields) (s : State) : Host.Outcome State Fault Refusal := zipping 0x183 false 3 f s
/-- ZIP4 (R106). -/
def execZip4 (f : Fields) (s : State) : Host.Outcome State Fault Refusal := zipping 0x184 false 4 f s
/-- UNZ2 (R106). -/
def execUnz2 (f : Fields) (s : State) : Host.Outcome State Fault Refusal := zipping 0x185 true 2 f s
/-- UNZ3 (R106). -/
def execUnz3 (f : Fields) (s : State) : Host.Outcome State Fault Refusal := zipping 0x186 true 3 f s
/-- UNZ4 (R106). -/
def execUnz4 (f : Fields) (s : State) : Host.Outcome State Fault Refusal := zipping 0x187 true 4 f s

/-! ## Collectives -/

/-- The result of a vote over the participating lanes (Table 5.5). -/
def voteOp (op : Nat) (p parts : W32) : W32 :=
  let x := p &&& parts
  match op with
  | 0 => if x = parts then 1 else 0
  | 1 => if x = 0 then 0 else 1
  | 2 => if x = parts ∨ x = 0 then 1 else 0
  | _ => x

/-- VOTE (R107); when no lane participates nothing is written. -/
def execVote (f : Fields) (s : State) : Host.Outcome State Fault Refusal :=
  issue 0x188 f s fun s c =>
    let act := c.parts f
    match predNum f.op1, f.op2 with
    | some n, .int op =>
      if 3 < op.val then c.illegalOp
      else if op.val = 3 ∧ !destOk c f.op0 false true false then c.illegalOp
      else
        let x := voteOp op (c.readP n) act
        .ok (.seq (result s c c.w f f.op0 false false act 4 [List.replicate 32 x] 0))
    | _, _ => c.illegalOp

/-- One combination of REDUCE or WSCAN (Table 5.6). -/
def combine (f : Fields) (mode : W32) (op a b : Nat) : Res :=
  let e := fenv f mode
  match op, f.ty with
  | 0, .f32 => e.deliver (addE e.rnd (e.read a) (e.read b))
  | 1, .f32 => quiet (e.pick false false (e.read a) (e.read b))
  | 2, .f32 => quiet (e.pick true false (e.read a) (e.read b))
  | 0, _ => quiet ((a + b) % 2 ^ 32)
  | 1, t => quiet (wrapTo 32 (minInt (intVal t a) (intVal t b)))
  | 2, t => quiet (wrapTo 32 (maxInt (intVal t a) (intVal t b)))
  | 3, _ => quiet (a &&& b)
  | 4, _ => quiet (a ||| b)
  | _, _ => quiet (a ^^^ b)

/-- The identity of a combination (Table 5.6). -/
def identityOf (op : Nat) (t : Ty) : Nat :=
  match op, t with
  | 1, .i32 => 0x7FFFFFFF
  | 1, .n32 => 0xFFFFFFFF
  | 1, _ => 0x7F800000
  | 2, .i32 => 0x80000000
  | 2, .n32 => 0
  | 2, _ => 0xFF800000
  | 3, _ => 0xFFFFFFFF
  | _, _ => 0

/-- One level of REDUCE's tree: neighbours combine, an absent one gives way (R109). -/
def treeLevel (g : Nat → Nat → Res) : List (Option Nat) → List (Option Nat) × Nat
  | a :: b :: t =>
    let (r, fl) := treeLevel g t
    match a, b with
    | none, x => (x :: r, fl)
    | x, none => (x :: r, fl)
    | some x, some y => (some (g x y).1 :: r, orFlags (g x y).2 fl)
  | l => (l, 0)

/-- REDUCE's tree over 32 lanes, by five levels: the result, if some lane is present, and the flags. -/
def treeReduce (g : Nat → Nat → Res) : Nat → List (Option Nat) → Nat → Option Nat × Nat
  | 0, l, fl => (l.headD none, fl)
  | n + 1, l, fl => let (r, f2) := treeLevel g l
    treeReduce g n r (orFlags fl f2)

/-- Where REDUCE and RDLANE take their lanes from: an element popped from e5 (R112), or OP1 as any value source of Table 4.1,
which R108 does not list (log entry 52). -/
def treeSource (s : State) (c : Ctx) (opc : Nat) (f : Fields) (need : W32) : Except Stop (List Nat × W32 × Wave) :=
  match f.op1 with
  | .e 5 => match c.w.e5 with
    | [] => c.wait s
    | x :: t => .ok (modify (absOf opc) (f.sm 1) (readTy opc f 1) (x.vals.map fun v => v.toNat), x.mask, { c.w with e5 := t })
  | _ => match readSrc s c c.w opc f false need 1 with
    | .error e => .error e
    | .ok (l, w) => .ok (l, 0xFFFFFFFF, w)

/-- Sends a result toward e6: the sequence number, 12 clk, and the flag it is counted on unless no lane participates (R25,
R109). -/
def towardE6 (s : State) (c : Ctx) (w : Wave) (f : Fields) (act : W32) (x : Nat) (fl : Nat) : State :=
  let (id, s1) := s.fresh
  let fly : Flight := { due := c.clk + 12, value := BitVec.ofNat 32 x, seq := w.seqS, raises := c.raises, sticky := BitVec.ofNat 5 fl,
                        op := id }
  let op : LongOp := { id := id, access := false, raises := false, flag := flagOf c f, ready := false, due := c.clk + 12, writes := [], qtags := [],
                       sticky := 0, ovr := [], rast := none, remote := none }
  s1.withWave c { w with seqS := w.seqS + 1, flights := w.flights ++ [fly],
                         ops := if act = 0 then w.ops else w.ops ++ [op] }

/-- e6 and its flights hold at most four elements (R25). -/
def e6Full (w : Wave) : Bool := decide (4 ≤ w.e6.length + w.flights.length)

/-- The operation code of a collective, if OP2 holds one (Table 5.6). -/
def collectiveOf (f : Fields) : Option Nat :=
  match f.op2 with
  | .int n => if n.val < 6 then some n.val else none
  | _ => none

/-- REDUCE (R109). -/
def execReduce (f : Fields) (s : State) : Host.Outcome State Fault Refusal :=
  issue 0x189 f s fun s c =>
    let act := c.parts f
    match collectiveOf f with
    | none => c.illegalOp
    | some op =>
      if e6Full c.w then c.wait s
      else match treeSource s c 0x189 f act with
        | .error e => .error e
        | .ok (v, present, w) =>
          let l := lanes32.map fun i => if (act &&& present).getLsbD i then some (arg v i) else none
          let (r, fl) := treeReduce (combine f c.w.mode op) 5 l 0
          .ok (.seq (towardE6 s c w f act (r.getD (identityOf op f.ty)) fl))

/-- WSCAN's prefix: the value each lane receives, and the flags (R110). -/
def scanLanes (g : Nat → Nat → Res) (excl : Bool) (ident : Nat) : List (Option Nat) → Option Nat → List Nat × Nat
  | [], _ => ([], 0)
  | none :: t, acc => let (r, fl) := scanLanes g excl ident t acc
    (0 :: r, fl)
  | some x :: t, acc =>
    let y : Res := match acc with
      | none => quiet x
      | some a => g a x
    let (r, fl) := scanLanes g excl ident t (some y.1)
    ((if excl then acc.getD ident else y.1) :: r, orFlags y.2 fl)

/-- WSCAN (R110); OP1 is any value source of Table 4.1 (log entry 52). -/
def execWscan (f : Fields) (s : State) : Host.Outcome State Fault Refusal :=
  issue 0x18A f s fun s c =>
    let act := c.parts f
    match collectiveOf f with
    | none => c.illegalOp
    | some op =>
      if f.op0 == .none || !destOk c f.op0 false true false then c.illegalOp
      else match readSrcs s c 0x18A f false act [1] c.w with
        | .error e => .error e
        | .ok (ls, w) =>
          let l := lanes32.map fun i => if act.getLsbD i then some (arg ((ls[0]?).getD []) i) else none
          let (r, fl) := scanLanes (combine f c.w.mode op) (f.op3 == .int 1) (identityOf op f.ty) l none
          .ok (.seq (result s c w f f.op0 false (popsQueue f 0b00010) act 8 (wordsOf false r) fl))

/-- RDLANE (R111): the guard does not affect the push. -/
def execRdlane (f : Fields) (s : State) : Host.Outcome State Fault Refusal :=
  issue 0x18B f s fun s c =>
    let act := c.parts f
    let lane : Option Nat := match f.op2 with
      | .int n => if n.val < 32 then some n.val else none
      | .s n => some ((c.readS false n).toNat % 32)
      | _ => none
    let src : Bool := match f.op1 with
      | .v _ | .q _ => true
      | .e n => n == 5
      | _ => false
    match lane with
    | none => c.illegalOp
    | some k =>
      if !src then c.illegalOp
      else if e6Full c.w then c.wait s
      else match treeSource s c 0x18B f (1#32 <<< k) with
        | .error e => .error e
        | .ok (v, present, w) => .ok (.seq (towardE6 s c w f act (if present.getLsbD k then arg v k else 0) 0))

end Sys2Proof.Machine
end

