-- ==== Sys2Proof/Machine/Control.lean ====
section
/-!
DEFINITION. Group 7: branches, exit, reconvergence masks, NOP and YIELD; MFSR and MTSR (R113 to R122).
-/
namespace Sys2Proof.Machine

/-! ## Branches -/

/-- The entries of lanes that go to their own targets: one per distinct target (R113, R114). -/
def targetEntries (s : State) (b : Block) (at0 : Nat) (lanes : W32) (tgt : Nat → BitVec 60) : List Entry :=
  (lanesOf lanes).foldl (fun l i =>
    if l.any fun e => e.hdr == tgt i then updWhere (fun e => e.hdr == tgt i) (fun e => { e with mask := e.mask ||| (1#32 <<< i) }) l
    else l ++ [entryAt s b (tgt i) (1#32 <<< i) at0]) []

/-- The entry of the lanes that fall through to the next header. -/
def fallEntry (s : State) (c : Ctx) (f : Fields) (lanes : W32) : Entry := entryAt s c.b c.e.nextHdr lanes (nextClk c f)

/-- Sends the lanes `act` to their targets and the rest of the entry to the next header. -/
def branch (s : State) (c : Ctx) (f : Fields) (act : W32) (tgt : Nat → BitVec 60) : State :=
  s.mapWave c.ref.blk c.ref.wave fun w => replaceEntry w c.ref.lane
    (targetEntries s c.b (nextClk c f) act tgt ++ [fallEntry s c f (c.e.mask &&& ~~~act)])

/-- The relative target of a BRA or CALL; none for an operand that is no literal half (R114). -/
def relTarget (c : Ctx) (o : Operand) : Option Nat :=
  let half : Option Nat := match o with
    | .litLo => some (c.lit % 2 ^ 32)
    | .litHi => some (c.lit / 2 ^ 32)
    | _ => none
  half.map fun h => wrapTo 64 ((c.caddr : Int) + toSigned 32 h)

/-- The absolute targets of a BRX, CALL or RET in each lane (R114). -/
def absTargets (s : State) (c : Ctx) (opc : Nat) (f : Fields) (act : W32) : Except Stop (List Nat) :=
  let ok : Bool := match f.op1 with
    | .v _ | .q _ | .s _ | .litLo => true
    | _ => false
  if !ok then c.illegalOp
  else match readSrcs s c opc f false act [1] c.w with
    | .error e => .error e
    | .ok (ls, _) =>
      let l := (ls[0]?).getD []
      match (lanesOf act).find? fun i => arg l i % 16 != 0 with
      | some i => c.align (arg l i)
      | none => .ok l

def hdrOf (a : Nat) : BitVec 60 := BitVec.ofNat 60 (a / 16)

/-- BRA (R114). -/
def execBra (f : Fields) (s : State) : Host.Outcome State Fault Refusal :=
  issue 0x1C0 f s fun s c =>
    match relTarget c f.op1 with
    | none => c.illegalOp
    | some t => if t % 16 ≠ 0 then c.align t else .ok (.placed (branch s c f (c.parts f) fun _ => hdrOf t))

/-- BRX (R114). -/
def execBrx (f : Fields) (s : State) : Host.Outcome State Fault Refusal :=
  issue 0x1C1 f s fun s c =>
    match absTargets s c 0x1C1 f (c.parts f) with
    | .error e => .error e
    | .ok l => .ok (.placed (branch s c f (c.parts f) fun i => hdrOf (arg l i)))

/-- RET (R114): BRX under another opcode. -/
def execRet (f : Fields) (s : State) : Host.Outcome State Fault Refusal :=
  issue 0x1C3 f s fun s c =>
    match absTargets s c 0x1C3 f (c.parts f) with
    | .error e => .error e
    | .ok l => .ok (.placed (branch s c f (c.parts f) fun i => hdrOf (arg l i)))

/-- Writes a CALL's return address in the branching lanes and sends them on (R114). -/
def calling (s : State) (c : Ctx) (f : Fields) (tgt : Nat → BitVec 60) : State :=
  let act := c.parts f
  let ret := 16 * c.e.nextHdr.toNat
  let s1 := s.withWave c (deliverNow c c.w f.op0 false act 8 (wordsOf true (List.replicate 32 ret)) 0)
  branch s1 c f act tgt

/-- A CALL's destination is a pair of v registers (R114). -/
def returnOk (c : Ctx) (f : Fields) : Bool := f.op0 != .none && destOk c f.op0 false true true

/-- CALL (R114). Its operands are checked before its target's alignment, which R42 does not order: log entry 52. -/
def execCall (f : Fields) (s : State) : Host.Outcome State Fault Refusal :=
  issue 0x1C2 f s fun s c =>
    match returnOk c f, relTarget c f.op1 with
    | true, some t => if t % 16 ≠ 0 then c.align t else .ok (.placed (calling s c f fun _ => hdrOf t))
    | _, _ => c.illegalOp

/-- CALL.b64 (R114), its checks in CALL's order. -/
def execCallB64 (f : Fields) (s : State) : Host.Outcome State Fault Refusal :=
  issue 0x1C2 f s fun s c =>
    if returnOk c f then match absTargets s c 0x1C2 f (c.parts f) with
      | .error e => .error e
      | .ok l => .ok (.placed (calling s c f fun i => hdrOf (arg l i)))
    else c.illegalOp

/-- EXIT (R115, R278). -/
def execExit (f : Fields) (s : State) : Host.Outcome State Fault Refusal :=
  issue 0x1C8 f s fun s c =>
    let act := c.parts f
    let r : WRef := { blk := c.ref.blk, wave := c.ref.wave }
    let s1 := s.mapWave r.blk r.wave fun w =>
      (replaceEntry w c.ref.lane [{ c.e with mask := act }, fallEntry s c f (c.e.mask &&& ~~~act)]).endLanes act
    if leaveHeld s c.w c.b.oid act then c.wait s
    else match leaveTrap s1 r c.b.oid act with
    | .error e => .error e
    | .ok s2 => .ok (.placed (checkClaims (checkBarrier (checkDeadlock (settleAt s2 r) r) c.ref.blk) c.ref.blk))

/-! ## Masks -/

/-- A mask operand's number. -/
def maskNum (o : Operand) : Option Nat :=
  match o with
  | .m n => some n.val
  | _ => none

/-- JOINM (R116). -/
def execJoinm (f : Fields) (s : State) : Host.Outcome State Fault Refusal :=
  issue 0x1C4 f s fun s c =>
    match maskNum f.op0 with
    | none => c.illegalOp
    | some m => .ok (.seq (s.withWave c (c.w.setM m (c.w.getM m ||| c.parts f))))

/-- LEAVEM (R116): the release rule is evaluated. -/
def execLeavem (f : Fields) (s : State) : Host.Outcome State Fault Refusal :=
  issue 0x1C5 f s fun s c =>
    match maskNum f.op0 with
    | none => c.illegalOp
    | some m => .ok (.seq (s.withWave c ((c.w.setM m (c.w.getM m &&& ~~~c.parts f)).checkMask m)))

/-- WAITM (R116, R117). -/
def execWaitm (f : Fields) (s : State) : Host.Outcome State Fault Refusal :=
  issue 0x1C6 f s fun s c =>
    match maskNum f.op0 with
    | none => c.illegalOp
    | some m =>
      let arr := c.parts f &&& c.w.getM m
      if arr = 0 then .ok (.seq s)
      else if c.w.maskDone m arr then .ok (.seq (s.withWave c (c.w.releaseMask m)))
      else
        let r : WRef := { blk := c.ref.blk, wave := c.ref.wave }
        let next : Entry := { c.e with idx := c.e.idx + 1, hold := .none, notBefore := max c.e.notBefore (nextClk c f) }
        let go : Entry := { next with mask := c.e.mask &&& ~~~arr }
        let park : Entry := { next with mask := arr, park := m + 1, opn := false }
        let s1 := s.withWave c (replaceEntry c.w c.ref.lane [go, park])
        .ok (.placed (checkDeadlock (settleAt s1 r) r))

/-- MSKMOV (R118). R118 says of mask destinations alone that an empty P writes nothing; an s destination follows them; and a
wide form reads what stood in the s register before for 3 clk, as after a scalar form (R24): log entry 52. -/
def execMskmov (f : Fields) (s : State) : Host.Outcome State Fault Refusal :=
  issue 0x1C7 f s fun s c =>
    let act := c.parts f
    match f.op0, f.op1 with
    | .m d, o =>
      let src : Option W32 := match o with
        | .s n => some (c.readS false n)
        | .int n => some (BitVec.ofNat 32 n.val)
        | .zero => some 0
        | .ones => some 0xFFFFFFFF
        | .litLo => some (BitVec.ofNat 32 c.lit)
        | .litHi => some (BitVec.ofNat 32 (c.lit / 2 ^ 32))
        | .m n => some (c.w.getM n)
        | _ => none
      match src with
      | none => c.illegalOp
      | some x =>
        if act = 0 then .ok (.seq s)
        else .ok (.seq (s.withWave c ((c.w.setM d (x &&& c.w.live)).checkMask d)))
    | .s d, .m n => .ok (.seq (if act = 0 then s else
        s.withWave c (c.w.write c.clk 1 true { reg := .s d, mask := 1, vals := [c.w.getM n] })))
    | .p d, .m n => .ok (.seq (s.withWave c (c.w.write c.clk 4 false { reg := .p d, mask := act, vals := [c.w.getM n] })))
    | .v _, .m n =>
      if !destOk c f.op0 false false false then c.illegalOp
      else .ok (.seq (result s c c.w f f.op0 false false act 4 [List.replicate 32 (c.w.getM n)] 0))
    | _, _ => c.illegalOp

/-! ## NOP, YIELD and the special registers -/

/-- NOP (R120). -/
def execNop (f : Fields) (s : State) : Host.Outcome State Fault Refusal := issue 0x1C9 f s fun s _ => .ok (.seq s)

/-- The issuing entry waits `k` clk, in which its half offers its slots to other waves first (R120). -/
def yieldFor (s : State) (c : Ctx) (k : Nat) : State :=
  (s.mapEntry c.ref fun e => { e with notBefore := max e.notBefore (c.clk + k) }).mapWave c.ref.blk c.ref.wave fun w =>
    { w with yieldTo := max w.yieldTo (c.clk + k) }

/-- YIELD (R120). -/
def execYield (f : Fields) (s : State) : Host.Outcome State Fault Refusal :=
  issue 0x1CA f s fun s c =>
    match f.op1 with
    | .int k =>
      if k.val = 0 then c.illegalOp
      else .ok (.seq (yieldFor s c k.val))
    | _ => c.illegalOp

/-- The owner's remaining time quota on a die (R251, Table 1.5). -/
def quotaOf (s : State) (die oid : Nat) : Nat :=
  let budget := s.regBits (0x80000 + 32 * oid + 8 * die) 0 32
  if budget = 0xFFFFFFFF then 0xFFFFFFFF else budget - spGet 0 s.used (4096 * die + oid)

/-- The value of special register `n` in a lane (Table 1.5). -/
def specialReg (s : State) (c : Ctx) (n lane : Nat) : Nat :=
  match n with
  | 0 => lane
  | 1 => c.w.wave
  | 2 => c.w.role.toNat
  | 3 => c.b.oid
  | 4 => c.b.gen.toNat
  | 5 => (c.w.modeAt c.clk).toNat
  | 6 => c.clk % 2 ^ 32
  | 7 => quotaOf s c.b.die c.b.oid
  | k => (spGet 0 c.w.lvl (32 * (k - 8) + lane)).toNat

/-- Earlier work of a wave that can raise a sticky bit has not completed (R23). -/
def stickyDue (c : Ctx) : Bool :=
  (c.w.late.any fun x => decide (c.clk < x.1)) || (c.w.ops.any fun o => o.raises) || c.w.flights.any fun x => x.raises

/-- MFSR (R121): MODE waits for earlier work that can raise a sticky bit (R23). A scalar form that names LVL1 to LVL7 reads
lane 0's value, also where REGROUP has made the lanes differ: log entry 52. -/
def execMfsr (f : Fields) (s : State) : Host.Outcome State Fault Refusal :=
  issue 0x384 f s fun s c =>
    let scalar := isScalar 0x384 f
    let act := c.parts f
    match f.op1 with
    | .int n =>
      if 16 ≤ n.val ∨ (scalar ∧ (n.val = 0 ∨ n.val = 8)) ∨ !destOk c f.op0 scalar false false then c.illegalOp
      else if n.val = 5 ∧ stickyDue c then c.wait s
      else .ok (.seq (result s c c.w f f.op0 scalar false act 4
        (wordsOf false (lanes32.map fun l => specialReg s c n.val l)) 0))
    | _ => c.illegalOp

/-- The bits of MODE that a program may write (Table 1.6). -/
def writeMode (old x : W32) : W32 := (x &&& 0x1F1F#32) ||| (old &&& 0x10000#32)

/-- MTSR (R122): always once for the entry. -/
def execMtsr (f : Fields) (s : State) : Host.Outcome State Fault Refusal :=
  issue 0x385 f s fun s c =>
    let src : Option W32 := match f.op2 with
      | .s n => some (c.readS true n)
      | .int n => some (BitVec.ofNat 32 n.val)
      | .zero => some 0
      | .ones => some 0xFFFFFFFF
      | .litLo => some (BitVec.ofNat 32 c.lit)
      | .litHi => some (BitVec.ofNat 32 (c.lit / 2 ^ 32))
      | _ => none
    match src with
    | none => c.illegalOp
    | some x =>
      if f.op1 ≠ .int 5 ∨ 5 ≤ x.toNat % 8 then c.illegalOp
      else .ok (.seq (s.withWave c (c.w.setMode c.clk (writeMode c.w.mode x))))

end Sys2Proof.Machine
end

