-- ==== Sys2Proof/Machine/MatrixMath.lean ====
section
/-!
DEFINITION. The arithmetic of the matrix engine: elements of rows (R59, R60, R184), products and chains (R61, R65, R185), and
Convert (R196).
-/
namespace Sys2Proof.Machine

/-- The type whose elements a float-class format code holds. -/
def mfTy : Nat → Ty
  | 0 => .f32
  | 1 => .f16
  | 2 => .bf16
  | 3 => .f8e4
  | 4 => .f8e5
  | 5 => .tf8a
  | 6 => .tf8b
  | 7 => .tf6a
  | _ => .tf6b

/-- Decodes a pattern of a float-class format; every value is exact, subnormals included (R58). -/
def mfDecode (code x : Nat) : FVal :=
  if mfTapered code then decodeT (mfTy code) x else readF (fmtOf (mfTy code)) false x

/-- The bits of element `k` of a row given as a little-endian number (R59, R184). -/
def elemBits (code row k : Nat) : Nat :=
  let b := mfBits code
  if mfPlanes code then
    let base := k / 64 * (64 * b) + k % 64
    ((List.range b).map fun i => bitAt row (base + 64 * i) * 2 ^ i).foldl (· + ·) 0
  else bitsOf row (b * k) b

/-- An element of an integer-class format, only its top `tpl` planes read when that is not 0 (R59, R60). -/
def elemInt (code tpl row k : Nat) : Int :=
  let b := mfBits code
  let x0 := elemBits code row k
  let x := if tpl = 0 then x0 else x0 / 2 ^ (b - tpl) * 2 ^ (b - tpl)
  if code = 15 then (if x = 1 then 1 else -1)
  else if code = 9 ∨ code = 11 ∨ code = 13 then toSigned b x
  else (x : Int)

/-- A finite value scaled by 2^σ. -/
def scaleV (sig : Int) : FVal → FVal
  | .fin s m e => .fin s m (e + sig)
  | v => v

/-- An exact result as a value. -/
def Exact.toV : Exact → FVal
  | .nan _ => .nan
  | .inf s _ => .inf s
  | .val s m e _ => .fin s m e

/-- The activation element that sub-element `i` of a cell meets (R185). -/
def actIndex (d : Nat) (sparse : Bool) (metaRow r c i : Nat) : Nat :=
  if sparse then 4 * d * (r / 2) + d * bitsOf metaRow (2 * c) 2 + i else d * r + i

/-- P(r, c) of a float-class format: the exact sum of the cell's scaled products (R65, R185). -/
def cellF (w : Nat → FVal) (a : Nat → FVal) : Nat → FVal
  | 0 => .fin false 0 0
  | n + 1 =>
    let p := (mulE (w n) (a n)).toV
    if n = 0 then p else (addE 0 (cellF w a n) p).toV

/-- P(r, c) of an integer-class format. -/
def cellI (w : Nat → Int) (a : Nat → Int) (d : Nat) : Int := (List.range d).foldl (fun s i => s + w i * a i) 0

/-- The f32 nearest-even rounding of the accumulation (R65). -/
def roundF32 (e : Exact) : Nat := (deliver (fmtOf .f32) 0 false e).bits

/-- s + P, rounded to f32. -/
def addF32 (s : Nat) (p : FVal) : Nat := roundF32 (addE 0 (readF (fmtOf .f32) false s) p)

/-- s + x in i32 with wrap-around, and whether the exact sum lies outside i32. -/
def addI32 (s : Nat) (x : Int) : Nat × Bool :=
  let y := toSigned 32 s + x
  (wrapTo 32 y, decide (y < -(2 ^ 31)) || decide (2 ^ 31 ≤ y))

/-- One pass of a column through the tenant's rows: the sum, and for integers whether an addition overflowed. -/
def chainOf (integer : Bool) (pf : Nat → FVal) (pi : Nat → Int) (nrw : Nat) : Nat × Bool :=
  (List.range nrw).foldl (fun acc r =>
    if integer then
      let (s, o) := addI32 acc.1 (pi r)
      (s, acc.2 || o)
    else (addF32 acc.1 (pf r), false)) (0, false)

/-- The operation of Convert (R196 step 1). -/
def convertOp (integer : Bool) (op clo chi x : Nat) : Nat :=
  let f := fmtOf .f32
  let rd (y : Nat) : FVal := readF f false y
  let imax (a b : Nat) : Nat := if toSigned 32 a < toSigned 32 b then b else a
  let imin (a b : Nat) : Nat := if toSigned 32 b < toSigned 32 a then b else a
  match op with
  | 1 => if integer then imax x 0 else minMaxF f true true (rd x) (rd 0)
  | 2 => if integer then imin (imax x clo) chi
    else minMaxF f false true (rd (minMaxF f true true (rd x) (rd clo))) (rd chi)
  | _ => x

/-- Convert(x, op, fmt) with the target a matrix format code or, for `raw`, x itself (R196). -/
def convertTo (integer raw : Bool) (op clo chi code x : Nat) : Nat :=
  let y := convertOp integer op clo chi x
  if raw then y
  else
    let v := readF (fmtOf .f32) false y
    if mfTapered code then (encodeT (mfTy code) v).bits
    else match v with
      | .nan => nanBits (fmtOf (mfTy code))
      | .inf s => infBits (fmtOf (mfTy code)) s
      | .fin s m e => (roundF (fmtOf (mfTy code)) 0 false s m e false).bits

/-- The format code of an output format (Table 8.4 OFMT). -/
def outCode : Nat → Nat
  | 1 => 1
  | 2 => 2
  | 3 => 5
  | _ => 6

end Sys2Proof.Machine
end

