-- ==== Sys2Proof/Machine/Resources.lean ====
section
/-!
DEFINITION. Group 10 and GBAR: requests, releases, GIVE and CLAIM, CARVE, and the arrivals at barriers (R134 to R147, R218); the
events PENDING_GRANT and SLOT_CHANGE_EFFECT.
-/
namespace Sys2Proof.Machine

/-! ## An entry completes outside its issue -/

/-- The context of an entry, whatever holds it. -/
def ctxAt (s : State) (r : ERef) : Option Ctx :=
  match s.wave? { blk := r.blk, wave := r.wave } with
  | none => none
  | some (b, w) =>
    (w.entry? r.lane).map fun e =>
      { b := b, w := w, e := e, hdr := e.clause.headD 0, ref := r, clk := s.clkOf b.die, seed := s.free }

/-- The held entry goes on to its next position. -/
def completeEntry (s : State) (r : ERef) : State :=
  match ctxAt s r with
  | none => s
  | some c => advance c c.e.fields s

/-! ## Counts (R134) -/

/-- A count: a constant from 1 to 63, or an s register. -/
def readCount (c : Ctx) (o : Operand) : Except Stop Nat :=
  match o with
  | .int n => if n.val = 0 then c.illegalOp else .ok n.val
  | .s n => .ok (c.readS true n).toNat
  | _ => c.illegalOp

/-! ## Requests -/

/-- The request of the issuing entry; it becomes pending after those of earlier clk, and among those of its clk in the order of
R132. Which slot of its half a wave has, no rule says: it is taken to be h0 + WAVE, and blocks with equal slots stand as they arrived, log
entry 52. -/
def pend (s : State) (c : Ctx) (kind k : Nat) : State :=
  let r : Request := { die := c.b.die, core := c.b.core, blk := c.ref.blk, wave := c.ref.wave, lane := c.ref.lane, kind := kind,
                       count := k, clk := c.clk, half := c.w.half, second := c.e.second, due := false }
  let slot (x : Request) : Nat := ((s.block? x.blk).map fun b => b.h0).getD 0 + x.wave
  let key (x : Request) : List Nat := [x.clk, x.half, slot x, x.second.toNat]
  let ahead (x : Request) : Bool := keysLe (key x) (key r)
  { s with requests := s.requests.takeWhile ahead ++ r :: s.requests.dropWhile ahead }

/-- Gives `k` units of a kind to a wave or its block; new registers and stash hold zeros (R135, R139, R140). -/
def giveUnits (s : State) (blk wave kind k : Nat) : State :=
  match kind with
  | 0 => s.mapWave blk wave fun w => { w with claim := w.claim + k }
  | 1 => s.mapBlock blk fun b => { b with ways := b.ways + k }
  | _ => s.mapBlock blk fun b =>
    let b1 := { b with mslots := b.mslots + k }
    if b1.queueEmpty then effectSlots b1 else b1

/-- After a grant of slots the entry is held until the change has taken effect (R136). -/
def slotsPending (s : State) (blk kind : Nat) : Bool :=
  kind == 2 && match s.block? blk with
    | some b => b.slotsNow != b.mslots
    | none => false

/-- A blocking request (R131, R132, R135, R139). -/
def request (opc kind : Nat) (cnt : Operand) (f : Fields) (s : State) : Host.Outcome State Fault Refusal :=
  issue opc f s fun s c =>
    match readCount c cnt with
    | .error x => .error x
    | .ok k =>
      if k = 0 then .ok (.seq s)
      else match decideRequest s c.b c.w kind k with
        | .protocol => c.resource
        | .granted =>
          let s1 := giveUnits s c.ref.blk c.ref.wave kind k
          if slotsPending s1 c.ref.blk kind then .error (.hold .slots s1) else .ok (.seq s1)
        | _ => .error (.hold .request (pend s c kind k))

/-- The kind operand: 0 registers, 2 matrix slots (R134). -/
def kindOf : Operand → Option Nat
  | .int n => if n.val = 0 ∨ n.val = 2 then some n.val else none
  | _ => none

/-- ACQ with its kind checked. -/
def acquire (f : Fields) (s : State) : Host.Outcome State Fault Refusal :=
  match kindOf f.op2 with
  | none => issue 0x280 f s fun _ c => c.illegalOp
  | some kind => request 0x280 kind f.op1 f s

/-- ACQ.reg. -/
def execAcqReg (f : Fields) (s : State) : Host.Outcome State Fault Refusal := acquire f s
/-- ACQ.mslot. -/
def execAcqMslot (f : Fields) (s : State) : Host.Outcome State Fault Refusal := acquire f s
/-- CARVE.get (R139); an unknown direction is an illegal operand. -/
def execCarveGet (f : Fields) (s : State) : Host.Outcome State Fault Refusal :=
  if f.op2 = .int 0 then request 0x285 1 f.op1 f s else issue 0x285 f s fun _ c => c.illegalOp

/-- Writes a request's status and outcome (Table 6.4). -/
def reportStatus (s : State) (c : Ctx) (f : Fields) (status : Nat) : State :=
  s.mapWave c.ref.blk c.ref.wave fun w =>
    let w1 := match f.op0 with
      | .s n => w.write c.clk 1 true { reg := .s n, mask := 1, vals := [BitVec.ofNat 32 status] }
      | _ => w
    match f.op3 with
    | .p n => w1.write c.clk 4 false { reg := .p n, mask := c.e.mask, vals := [if status = 0 then 0xFFFFFFFF#32 else 0] }
    | _ => w1

/-- A request that never waits for a grant (R136, R139). -/
def tryRequest (kind : Nat) (f : Fields) (s : State) (c : Ctx) : Except Stop Go :=
  let dest : Bool := (match f.op0 with
    | .s _ | .none => true
    | _ => false) && match f.op3 with
      | .p _ => true
      | _ => false
  if !dest then c.illegalOp
  else match readCount c f.op1 with
    | .error x => .error x
    | .ok k =>
      if k = 0 then .ok (.seq (reportStatus s c f 0))
      else match decideRequest s c.b c.w kind k with
        | .protocol => c.resource
        | .busy => .ok (.seq (reportStatus s c f 1))
        | .risky => .ok (.seq (reportStatus s c f 2))
        | .granted =>
          let s1 := reportStatus (giveUnits s c.ref.blk c.ref.wave kind k) c f 0
          if slotsPending s1 c.ref.blk kind then .error (.hold .slots s1) else .ok (.seq s1)

/-- ACQT. -/
def execAcqt (f : Fields) (s : State) : Host.Outcome State Fault Refusal :=
  issue 0x281 f s fun s c =>
    match kindOf f.op2 with
    | none => c.illegalOp
    | some kind => tryRequest kind f s c

/-- CARVE.try. -/
def execCarveTry (f : Fields) (s : State) : Host.Outcome State Fault Refusal := issue 0x285 f s (tryRequest 1 f)

/-! ## Releases -/

/-- An instruction has issued and has still to go on at its entry: a remote acquire under way, a page that it waits for, or queue
elements that it has moved in part (R203, R232, R291). -/
def Entry.underWay (e : Entry) : Bool :=
  decide (0 < e.done) || match e.hold with
    | .racq _ | .page _ => true
    | _ => false

/-- The vector registers that the instruction under way at an entry has still to write. -/
def Entry.owes (e : Entry) : List Reg :=
  let opc := match e.word with
    | some x => (fieldsOf x.toNat).1
    | none => 0
  if !e.underWay then []
  else match e.fields.op0 with
    | .v n => (List.range (spanOf opc e.fields 0)).map fun i => Reg.v (n + i)
    | _ => []

/-- Whether a write to one of the wave's bundles from `from0` on is still outstanding (R137), that of another entry's instruction
under way among them. -/
def Wave.writesFrom (w : Wave) (clk from0 : Nat) : Bool :=
  let hit (r : Reg) : Bool := match r with
    | .v n => decide (8 * from0 ≤ n)
    | _ => false
  (w.ops.any fun o => o.writes.any fun x => hit x.reg) || (w.recent.any fun x => hit x.reg && decide (clk < x.ready)) ||
    w.frontier.any fun e => e.owes.any hit

/-- The registers of bundle `i`, by 32 j + lane. -/
def Wave.bundle (w : Wave) (i : Nat) : Sparse W32 :=
  (w.v.filter fun p => decide (256 * i ≤ p.1) && decide (p.1 < 256 * (i + 1))).map fun p => (p.1 - 256 * i, p.2)

/-- A claim cut to `c` bundles; what lay above is gone. -/
def Wave.cutClaim (w : Wave) (c : Nat) : Wave := { w with claim := c, v := w.v.filter fun p => decide (p.1 < 256 * c) }

/-- REL (R137). -/
def execRel (f : Fields) (s : State) : Host.Outcome State Fault Refusal :=
  issue 0x282 f s fun s c =>
    match kindOf f.op2 with
    | none => c.illegalOp
    | some kind =>
      match readCount c f.op1 with
      | .error x => .error x
      | .ok k =>
        if k = 0 then .ok (.seq s)
        else if kind = 0 then
          if c.w.claim ≤ k then c.resource
          else if c.w.writesFrom c.clk (c.w.claim - k) then c.wait s
          else .ok (.seq (retest (s.withWave c (c.w.cutClaim (c.w.claim - k))) c.b.die c.b.core))
        else if c.b.mslots < k then c.resource
        else if !c.b.queueEmpty then c.wait s
        else .ok (.seq (retest (s.mapBlock c.ref.blk fun b => effectSlots { b with mslots := b.mslots - k }) c.b.die c.b.core))

/-- GIVE (R138): the top bundles go to the spare pool of the wave's half, lowest first. -/
def execGive (f : Fields) (s : State) : Host.Outcome State Fault Refusal :=
  issue 0x283 f s fun s c =>
    match readCount c f.op1 with
    | .error x => .error x
    | .ok k =>
      if k = 0 then .ok (.seq s)
      else if c.w.claim ≤ k then c.resource
      else if c.w.writesFrom c.clk (c.w.claim - k) then c.wait s
      else
        let given := (List.range k).map fun i => c.w.bundle (c.w.claim - k + i)
        let s1 := s.withWave c (c.w.cutClaim (c.w.claim - k))
        let s2 := s1.mapBlock c.ref.blk fun b =>
          if c.w.half = 0 then { b with spare0 := b.spare0 ++ given } else { b with spare1 := b.spare1 ++ given }
        .ok (.seq s2)

/-- Moves the top `k` bundles of the spare pool to the top of a wave's claim (R138). -/
def takeSpare (s : State) (blk wave half k : Nat) : State :=
  match s.block? blk with
  | none => s
  | some b =>
    let n := (b.spare half).length
    let top := (b.spare half).drop (n - k)
    let s1 := s.mapBlock blk fun b =>
      if half = 0 then { b with spare0 := b.spare0.take (n - k) } else { b with spare1 := b.spare1.take (n - k) }
    s1.mapWave blk wave fun w =>
      let placed := top.zipIdx.flatMap fun q => q.1.map fun p => (p.1 + 256 * (w.claim + q.2), p.2)
      { w with claim := w.claim + k, v := w.v ++ placed }

/-- CLAIM (R138). A CLAIM that the spare pool can serve takes its bundles when it issues, and blocked ones are served in the order
in which they blocked, which R138 does not state: log entry 52. -/
def execClaim (f : Fields) (s : State) : Host.Outcome State Fault Refusal :=
  issue 0x284 f s fun s c =>
    match readCount c f.op1 with
    | .error x => .error x
    | .ok k =>
      if k = 0 then .ok (.seq s)
      else if 80 < c.w.claim + k then c.resource
      else if k ≤ (c.b.spare c.w.half).length then .ok (.seq (takeSpare s c.ref.blk c.ref.wave c.w.half k))
      else
        .ok (.placed (checkClaims ((pend s c 3 k).mapEntry c.ref fun e => { e with hold := .request }) c.ref.blk))

/-- CARVE.put (R139): waits for the commands that may touch the ways, writes back and unmaps the windows in them. -/
def execCarvePut (f : Fields) (s : State) : Host.Outcome State Fault Refusal :=
  issue 0x285 f s fun s c =>
    match readCount c f.op1 with
    | .error x => .error x
    | .ok k =>
      if k = 0 then .ok (.seq s)
      else if c.b.ways < k then c.resource
      else if mayTouch s c.b then c.wait s
      else
        let lo := 32768 * (c.b.ways - k)
        let gone := (c.b.windows.filter fun w => decide (lo < w.off + w.len)).map fun w => w.win
        let s1 := gone.foldl (fun s w => unmapWindow s c.ref.blk w) s
        .ok (.seq (retest (s1.mapBlock c.ref.blk fun b =>
          { b with ways := b.ways - k, stash := b.stash.filter fun p => decide (p.1 < lo) }) c.b.die c.b.core))

/-! ## Grants -/

/-- What a test of a pending request finds (R131, R132); a CLAIM would still exceed 80 bundles, or finds its bundles (R138). -/
def Request.verdict (s : State) (r : Request) : Verdict :=
  match s.wave? { blk := r.blk, wave := r.wave } with
  | none => .busy
  | some (b, w) =>
    if r.kind = 3 then (if 80 < w.claim + r.count then .protocol else if r.count ≤ (b.spare w.half).length then .granted else .busy)
    else decideRequest s b w r.kind r.count

/-- A pending request that is to be tested: a unit has been returned, or a CLAIM's bundles are there. -/
def Request.test (s : State) (r : Request) : Bool :=
  r.due || (r.kind == 3 && (r.verdict s == .granted || r.verdict s == .protocol))

/-- PENDING_GRANT (R132): the first of a core's pending requests that is to be tested, in order of pending. -/
def execPendingGrant (die core : Nat) (s : State) : Host.Outcome State Fault Refusal :=
  match s.requests.find? fun r => r.die == die && r.core == core && r.test s with
  | none => .next s
  | some r =>
    let ref : ERef := { blk := r.blk, wave := r.wave, lane := r.lane }
    let s1 : State := { s with requests := s.requests.erase r }
    match r.verdict s, ctxAt s ref with
    | .busy, _ | .risky, _ =>
      .next { s with requests := updWhere (fun x => x == r) (fun x => { x with due := false }) s.requests }
    | .granted, some c =>
      if r.kind = 3 then .next (completeEntry (takeSpare s1 r.blk r.wave c.w.half r.count) ref)
      else
        let s2 := giveUnits s1 r.blk r.wave r.kind r.count
        if slotsPending s2 r.blk r.kind then .next (s2.mapEntry ref fun e => { e with hold := .slots })
        else .next (completeEntry s2 ref)
    | _, some c => .next (takeFault s1 c 11 0 0 c.e.mask)
    | _, none => .next s1

/-- SLOT_CHANGE_EFFECT (R181): the tenant's queue holds no incomplete command; entries held for the change complete (R136). -/
def execSlotChangeEffect (blk : Nat) (s : State) : Host.Outcome State Fault Refusal :=
  match s.block? blk with
  | none => .next s
  | some b =>
    let held := b.waves.flatMap fun w => w.frontier.filterMap fun e =>
      if e.hold = .slots then (lanesOf e.mask).head?.map fun l => ({ blk := blk, wave := w.wave, lane := l } : ERef) else none
    if b.queueEmpty && (b.slotsNow != b.mslots || !held.isEmpty) then
      .next (held.foldl completeEntry (if b.slotsNow = b.mslots then s else s.mapBlock blk effectSlots))
    else .next s

/-! ## Arrivals -/

/-- PHASE (R144, R278). -/
def execPhase (f : Fields) (s : State) : Host.Outcome State Fault Refusal :=
  issue 0x286 f s fun s c =>
    match f.op1 with
    | .int t =>
      if 9 ≤ t.val then c.illegalOp
      else if c.w.trap.isSome then c.illegalInstr
      else if c.b.waves.any fun w => w.trap.isSome then c.resource
      else if (t.val < 8 ∧ tV (lItpl (recordOf s c.b) t.val) = false) ∨ c.w.claim < lCb (recordOf s c.b) then c.resource
      else arrive s c f .phase t.val .none
    | _ => c.illegalOp

/-- BAR (R143). -/
def execBar (f : Fields) (s : State) : Host.Outcome State Fault Refusal := issue 0x287 f s fun s c => arrive s c f .bar 0 .none

/-- GBAR (R218). -/
def execGbar (f : Fields) (s : State) : Host.Outcome State Fault Refusal := issue 0x300 f s fun s c => arrive s c f .gbar 0 .none

/-- REGROUP (R147): the key's queue entry must be valid in every live lane at issue. -/
def execRegroup (f : Fields) (s : State) : Host.Outcome State Fault Refusal :=
  issue 0x288 f s fun s c =>
    match f.op1 with
    | .v n => if n < 8 * c.w.claim then arrive s c f .regroup 0 f.op1 else c.illegalOp
    | .q k =>
      match c.w.q[k.val]? with
      | none => c.illegalOp
      | some q => if c.e.mask &&& ~~~q.valid = 0 then arrive s c f .regroup 0 f.op1 else c.illegalOp
    | _ => c.illegalOp

end Sys2Proof.Machine
end

