-- ==== Sys2Proof/Machine/Matrix.lean ====
section
/-!
DEFINITION. Group 11, the matrix instructions (R186 to R205), and the execution of queued commands (R187, R188, R198, R201, R202,
R208): MWLD_EXECUTE, MSWAP_EXECUTE, MRUN_EXECUTE, MINIT_EXECUTE, MRDA_EXECUTE.
-/
namespace Sys2Proof.Machine

/-! ## Operands (R193) -/

/-- A stash offset: an s register, a literal half, a constant times the unit, or zero where that is an offset. -/
def offsetOperand (c : Ctx) (o : Operand) (unit : Nat) (zero : Bool) : Option Nat :=
  match o with
  | .s n => some (c.readS true n).toNat
  | .litLo => some (c.lit % 2 ^ 32)
  | .litHi => some (c.lit / 2 ^ 32)
  | .int k => some (k.val * unit)
  | .zero => if zero then some 0 else none
  | _ => none

/-- A row operand of a wide form or of one that executes once. -/
def rowOperand (c : Ctx) (scalar : Bool) (o : Operand) : Option Nat :=
  match o with
  | .s n => some (c.readS scalar n).toNat
  | o => offsetOperand c o 1 true

/-- Captures `n` bytes of the stash at issue, which lie in one line: alignment, then the stash's end (R194), then as a read of the wave
does (R155, R325, R363). -/
def capture (s : State) (c : Ctx) (off unit n : Nat) : Except Stop (List Byte × State) :=
  if off % unit ≠ 0 then c.align off
  else if c.b.z < off + n then c.protection off
  else match spotAt s c.b c.ref.wave true off { rd := true, wr := false } with
    | .error (.prot d) => .error (.fault 6 d off c.e.mask)
    | .error _ => c.protection off
    | .ok q =>
      if !(owners s).isEmpty && waitsFor (owners s) (q.piece c.b n) false then c.wait s
      else if !s.flips.isEmpty && !(s.flipsOf (q.piece c.b n).lo).isEmpty && (q.piece c.b n).blk.isNone then c.wait s
      else .ok (spotBytes s c.b n q, fillSpot s c.b q)

/-- R194: every group 11 instruction but MTEN needs a matrix slot. -/
def hasTenant (c : Ctx) : Except Stop Tenant :=
  match c.b.tenant with
  | none => c.engine 1
  | some t => .ok t

/-! ## Commands -/

/-- A command counted on its flag: it enters the queue with the number of the work it completes. -/
def enqueueCounted (s : State) (c : Ctx) (f : Fields) (kind : MKind) (data : List Byte) : State :=
  let (id, s1) := s.fresh
  countOnFlag (enqueue c s1 id kind data 0 0 (some id)) c f id false

/-- MWLD (R187). -/
def execMwld (f : Fields) (s : State) : Host.Outcome State Fault Refusal :=
  issue 0x2C1 f s fun s c =>
    match offsetOperand c f.op1 32 true, needTenant s c with
    | none, _ => c.illegalOp
    | _, .error e => .error e
    | some off, .ok _ =>
      match capture s c off 32 32 with
      | .error e => .error e
      | .ok (l, s1) => .ok (.seq (enqueueCounted s1 c f .mwld l))

/-- MSWAP (R188). -/
def execMswap (f : Fields) (s : State) : Host.Outcome State Fault Refusal :=
  issue 0x2C2 f s fun s c =>
    match needTenant s c with
    | .error e => .error e
    | .ok _ =>
      let (id, s1) := s.fresh
      .ok (.seq (enqueue c s1 id .mswap [] 0 0 none))

/-- MRUN (R195). -/
def execMrun (f : Fields) (s : State) : Host.Outcome State Fault Refusal :=
  issue 0x2C3 f s fun s c =>
    match offsetOperand c f.op1 64 true, needTenant s c with
    | none, _ => c.illegalOp
    | _, .error e => .error e
    | some off, .ok _ =>
      match capture s c off 64 64 with
      | .error e => .error e
      | .ok (l, s1) => .ok (.seq (enqueueCounted s1 c f .mrun l))

/-- MINIT (R201): a constant count of 0 is an illegal operand; the bias vector is captured at issue, and the faults of that capture come before
the engine fault of a block without a slot (log entry 52). -/
def execMinit (f : Fields) (s : State) : Host.Outcome State Fault Refusal :=
  issue 0x2C4 f s fun s c =>
    let isS : Bool := match f.op2 with
      | .s _ => true
      | _ => false
    match rowOperand c true f.op1, rowOperand c true f.op2 with
    | some a, some n =>
      if n = 0 ∧ !isS then c.illegalOp
      else
        let src : Except Stop (List Byte × State) :=
          if f.op3 = .zero then .ok ([], s)
          else match offsetOperand c f.op3 128 false with
            | none => c.illegalOp
            | some off => capture s c off 128 128
        match src, needTenant s c with
        | .error e, _ => .error e
        | _, .error e => .error e
        | .ok (l, s0), .ok _ =>
          let (id, s1) := s0.fresh
          .ok (.seq (enqueue c s1 id .minit l a n none))
    | _, _ => c.illegalOp

/-- A register count of 1 to 8. -/
def count8 : Operand → Option Nat
  | .int n => if 1 ≤ n.val ∧ n.val ≤ 8 then some n.val else none
  | _ => none

/-- MRDA of rows (R202): its registers wait for the command. -/
def execMrda (f : Fields) (s : State) : Host.Outcome State Fault Refusal :=
  issue 0x2C5 f s fun s c =>
    match rowOperand c false f.op1, count8 f.op2 with
    | some a, some n =>
      if !rangeOk c f.op0 false false n then c.illegalOp
      else match needTenant s c with
        | .error e => .error e
        | .ok _ =>
          let act := c.parts f
          let (id, s1) := s.fresh
          let s2 := enqueue c s1 id .mrda [] a n (some id)
          .ok (.seq (s2.mapWave c.ref.blk c.ref.wave fun w =>
            startLong c w f id f.op0 false act false (List.replicate n (List.replicate 32 0)) 0 none))
    | _, _ => c.illegalOp

/-- MRDA of the overflow bits (R202). -/
def execMrdaOvf (f : Fields) (s : State) : Host.Outcome State Fault Refusal :=
  issue 0x2C5 f s fun s c =>
    if !(match f.op0 with | .s d => decide (d.val < 128) | _ => false) then c.illegalOp
    else match needTenant s c with
      | .error e => .error e
      | .ok _ =>
        let (id, s1) := s.fresh
        let s2 := enqueue c s1 id .ovf [] 0 0 (some id)
        .ok (.seq (s2.mapWave c.ref.blk c.ref.wave fun w =>
          startLong c w f id f.op0 true c.e.mask false [List.replicate 32 0] 0 none))

/-- MSYNC (R204). -/
def execMsync (f : Fields) (s : State) : Host.Outcome State Fault Refusal :=
  issue 0x2C6 f s fun s c =>
    match hasTenant c with
    | .error e => .error e
    | .ok t => if t.queue.any fun q => q.wave == c.ref.wave then c.wait s else .ok (.seq s)

/-- ENQ to e0 (R199); any queue but e0 and e1 is an illegal operand (R194). -/
def execEnqE0 (f : Fields) (s : State) : Host.Outcome State Fault Refusal :=
  issue 0x2C7 f s fun s c =>
    match f.op0, f.op1, f.op2 with
    | .e q, .s n, .int k =>
      if q.val ≠ 0 ∨ k.val ≠ 16 ∨ 112 < n.val then c.illegalOp
      else match needTenant s c with
        | .error e => .error e
        | .ok _ =>
          let (id, s1) := s.fresh
          .ok (.seq (enqueue c s1 id .mrun (wordsBytes ((List.range 16).map fun i => c.readS true (n + i))) 0 0 none))
    | _, _, _ => c.illegalOp

/-- The elements that ENQ to e1 pushes (R203). -/
def enqElements (s : State) (c : Ctx) (o : Operand) (n : Nat) (act : W32) : Except Stop (List (List W32)) :=
  match o with
  | .v a =>
    if 8 * c.w.claim < a + n then c.illegalOp
    else .ok ((List.range n).map fun i => lanes32.map fun l => c.readV (a + i) l)
  | .q k =>
    if 16 < k + n then c.illegalOp
    else (List.range n).foldl (fun acc i =>
      match acc with
      | .error e => .error e
      | .ok l => match readQ s c (k + n - 1 - i) (ownReads act) with
        | .error e => .error e
        | .ok v => .ok (l ++ [v])) (.ok [])
  | _ => c.illegalOp

/-- A DEQ or an ENQ that has moved `k` more elements waits to move the rest (R203). -/
def movedSome {α : Type} (s : State) (c : Ctx) (k : Nat) : Except Stop α := c.wait (s.mapEntry c.ref fun e => { e with done := e.done + k })

/-- The operand `k` registers on. -/
def shifted (o : Operand) (k : Nat) : Operand :=
  match o with
  | .v n => if h : n.val + k < 640 then .v ⟨n.val + k, h⟩ else o
  | o => o

/-- ENQ to e1 (R203). -/
def execEnqE1 (f : Fields) (s : State) : Host.Outcome State Fault Refusal :=
  issue 0x2C7 f s fun s c =>
    match f.op0, count8 f.op2 with
    | .e q, some n =>
      if q.val ≠ 1 then c.illegalOp
      else
        let act := c.parts f
        match enqElements s c f.op1 n act, hasTenant c with
        | .error e, _ => .error e
        | _, .error e => .error e
        | .ok l, .ok _ =>
          let room := min (n - c.e.done) (16 - c.w.e1.length)
          if room = 0 then c.wait s
          else
            let present (v : List W32) : List W32 := lanes32.map fun i => if act.getLsbD i then (v[i]?).getD 0 else 0
            let s1 := s.withWave c { c.w with e1 := c.w.e1 ++ ((l.drop c.e.done).take room).map present }
            if c.e.done + room = n then .ok (.seq s1) else movedSome s1 c room
    | _, _ => c.illegalOp

/-- DEQ (R203). -/
def execDeq (f : Fields) (s : State) : Host.Outcome State Fault Refusal :=
  issue 0x2C8 f s fun s c =>
    match f.op1, count8 f.op2 with
    | .e q, some n =>
      if q.val ≠ 2 ∨ !rangeOk c f.op0 false false n then c.illegalOp
      else match hasTenant c with
        | .error e => .error e
        | .ok _ =>
          let more := min (n - c.e.done) c.w.e2.length
          if more = 0 then c.wait s
          else
            let s1 := result s c { c.w with e2 := c.w.e2.drop more } f (shifted f.op0 c.e.done) false true (c.parts f) 0 (c.w.e2.take more) 0
            if c.e.done + more = n then .ok (.seq s1) else movedSome s1 c more
    | _, _ => c.illegalOp

/-! ## MTEN (R205) -/

/-- The block that a tenant position names on the issuing core: one given that end that holds a slot. -/
def tenantAt (s : State) (c : Ctx) (high : Bool) : Option Block :=
  (onCore s c.b.die c.b.core).find? fun b => b.mend == some high && decide (0 < b.mslots) && b.tenant.isSome

/-- MTEN's checks: system code in trap mode, and sA. -/
def mten (f : Fields) (k : State → Ctx → W32 → Except Stop Go) (s : State) : Host.Outcome State Fault Refusal :=
  issue 0x2C0 f s fun s c =>
    if c.b.oid ≠ 0 ∨ c.w.trap.isNone then c.privileged
    else match f.op1, f.op2 with
      | .s n, .int op => if 4 ≤ op.val then c.illegalOp else k s c (c.readS true n)
      | _, _ => c.illegalOp

/-- Changes the tenant that sA names, if any. -/
def onTenant (s : State) (c : Ctx) (a : W32) (g : Tenant → Tenant) : State :=
  match tenantAt s c (a.getLsbD 0) with
  | none => s
  | some b => s.mapBlock b.uid fun b => { b with tenant := b.tenant.map g }

/-- MTEN.quiesce. -/
def execMtenQuiesce (f : Fields) (s : State) : Host.Outcome State Fault Refusal :=
  mten f (fun s c a => .ok (.seq (onTenant s c a fun t => { t with quiesced := true }))) s
/-- MTEN.resume. -/
def execMtenResume (f : Fields) (s : State) : Host.Outcome State Fault Refusal :=
  mten f (fun s c a => .ok (.seq (onTenant s c a fun t => { t with quiesced := false }))) s

/-- Long-latency work of discarded commands stops counting on its flags (R30, R208). -/
def dropOps (b : Block) (cmds : List MCmd) : Block :=
  let gone := cmds.filterMap fun q => q.op
  { b with waves := b.waves.map fun w => { w with ops := w.ops.filter fun o => !gone.contains o.id } }

/-- MTEN.reset. -/
def execMtenReset (f : Fields) (s : State) : Host.Outcome State Fault Refusal :=
  mten f (fun s c a =>
    match tenantAt s c (a.getLsbD 0) with
    | none => .ok (.seq s)
    | some b =>
      let s1 := s.mapBlock b.uid fun b => match b.tenant with
        | none => b
        | some t => { dropOps b t.queue with
                      tenant := some { Tenant.new t.high t.slots with ctr := t.ctr, quiesced := t.quiesced } }
      .ok (.seq (b.waves.foldl (fun s w => settleAt s { blk := b.uid, wave := w.wave }) s1))) s

/-- MTEN.ctr. -/
def execMtenCtr (f : Fields) (s : State) : Host.Outcome State Fault Refusal :=
  mten f (fun s c a =>
    if !rangeOk c f.op0 true false 1 then c.illegalOp
    else
      let x : W32 := match tenantAt s c (a.getLsbD 0) with
        | some b => match b.tenant with
          | some t => (t.ctr[bitsOf a.toNat 1 4]?).getD 0
          | none => 0
        | none => 0
      .ok (.seq (result s c c.w f f.op0 true false c.e.mask 1 [List.replicate 32 x] 0))) s

/-! ## Execution -/

/-- The head of a running block's queue, when its kind is `kind` and nothing that it needs is still owned (R190, R362). -/
def headCmd (s : State) (blk : Nat) (kind : MKind) : Option (Block × Tenant × MCmd) :=
  match s.block? blk with
  | none => none
  | some b =>
    match b.tenant with
    | none => none
    | some t =>
      match t.queue with
      | [] => none
      | q :: _ => if q.kind == kind && !t.quiesced && (b.halt != .halted || b.slotsHeld) && !commandWaits s q.id then some (b, t, q) else none

def bumpCtr (t : Tenant) (i n : Nat) : Tenant := { t with ctr := setAt t.ctr i ((t.ctr[i]?).getD 0 + BitVec.ofNat 32 n) }

/-- A tenant whose first command has completed. -/
def Tenant.pop (t : Tenant) : Tenant := bumpCtr { t with queue := t.queue.drop 1 } 0 1

def State.setTenant (s : State) (blk : Nat) (t : Tenant) : State := s.mapBlock blk fun b => { b with tenant := some t }

/-- The work that a command completes becomes ready, its register writes given by `vals` in order. -/
def finishOp (s : State) (b : Block) (q : MCmd) (vals : List (List W32)) : State :=
  match q.op with
  | none => s
  | some id =>
    let n := vals.length
    let done (o : LongOp) : LongOp :=
      { o with ready := true, due := s.clkOf b.die,
               writes := o.writes.zipIdx.map fun p => { p.1 with vals := if n = 0 then p.1.vals else (vals[p.2 % n]?).getD [] } }
    s.mapWave b.uid q.wave fun w => { w with ops := updWhere (fun o => o.id == id) done w.ops }

/-- R208: the engine fault of a command, fatal to its block; its tenant counts it (Table 8.6). -/
def engineFault (s : State) (b : Block) (q : MCmd) (detail : Nat) : State :=
  fatalFault (s.mapBlock b.uid fun b => { b with tenant := b.tenant.map fun t => { bumpCtr t 4 1 with faulted := true } }) b (b.wave? q.wave) 12 detail 0
    (16 * q.hdr.toNat) q.idx q.mask

/-- A command's access through a window that the firewall refuses (R155, R207): a protection fault, fatal to its block. -/
def commandRefused (s : State) (b : Block) (q : MCmd) (off detail : Nat) : State :=
  fatalFault s b (b.wave? q.wave) 6 detail off (16 * q.hdr.toNat) q.idx q.mask

/-- The first failing check's detail. -/
def firstDetail : List (Bool × Nat) → Option Nat
  | [] => none
  | (bad, d) :: t => if bad then some d else firstDetail t

/-- A plane count that a format allows (Table 8.5, detail 6). -/
def planesBad (code tpl : Nat) : Bool := tpl != 0 && (!mfPlanes code || decide (mfBits code < tpl))

/-- Table 8.5's checks of a weight header. -/
def mwldCheck (h nrw z : Nat) : Option Nat :=
  firstDetail [
    (bitsOf h 160 96 != 0 || bitsOf h 12 20 != 0 || bitsOf h 6 2 != 0, 2),
    (planesBad (wFmt h) (wTpl h), 6),
    (wData h % 16 != 0 || bitsOf h 64 32 % 16 != 0 || wMeta h % 16 != 0 || wSclo h % 16 != 0 ||
      (wSources h nrw).any fun r => decide (z < r.1 + r.2), 9)]

/-- The plane that a header loads from the stash (R187). -/
def loadPlane (s : State) (b : Block) (data : List Byte) (nrw : Nat) (torn : Bool) : Plane :=
  let h := natLE data
  let rd (off n : Nat) : List Byte := stashBytes s b off n
  { loaded := true, fmt := wFmt h, sparse := wSparse h, tpl := wTpl h,
    scales := if wScl h then rd (wSclo h) 32 else List.replicate 32 0,
    rows := (List.range nrw).map fun r => rd (wData h + r * wStride h) (wRowBytes h),
    metas := (List.range nrw).map fun r => if wSparse h then rd (wMeta h + 8 * r) 8 else [],
    replay := data, torn := torn }

/-- Replaces the shadow plane. -/
def Tenant.setShadow (t : Tenant) (p : Plane) : Tenant := if t.active then { t with p0 := p } else { t with p1 := p }

/-- MWLD_EXECUTE (R187). -/
def execMwldExecute (blk : Nat) (s : State) : Host.Outcome State Fault Refusal :=
  match headCmd s blk .mwld with
  | none => .next s
  | some (b, t, q) =>
    match mwldCheck (natLE q.data) (8 * t.slots) b.z with
    | some d => .next (engineFault s b q d)
    | none =>
      match fillRanges s b q.wave false (wSources (natLE q.data) (8 * t.slots)) with
      | .error (off, d) => .next (commandRefused s b q off d)
      | .ok s0 =>
        let p := loadPlane s0 (b.seenBy q.wave) q.data (8 * t.slots) false
        .next (finishOp (s0.setTenant blk (t.setShadow p).pop) b q [])

/-- MSWAP_EXECUTE (R188). -/
def execMswapExecute (blk : Nat) (s : State) : Host.Outcome State Fault Refusal :=
  match headCmd s blk .mswap with
  | none => .next s
  | some (_, t, _) => .next (s.setTenant blk ({ t with active := !t.active }).pop)

/-- The words of a row of 128 bytes, or zeros. -/
def biasWords (data : List Byte) : List W32 := if data = [] then List.replicate 32 0 else bytesWords data

/-- MINIT_EXECUTE (R201). -/
def execMinitExecute (blk : Nat) (s : State) : Host.Outcome State Fault Refusal :=
  match headCmd s blk .minit with
  | none => .next s
  | some (b, t, q) =>
    if q.count ≠ 0 ∧ 128 * t.slots < q.start + q.count then .next (engineFault s b q 7)
    else
      let row (m : Sparse W32) (a : Nat) : Sparse W32 :=
        (lanes32.zip (biasWords q.data)).foldl (fun m p => spSet 0 (32 * a + p.1) p.2 m) m
      let acc := (List.range q.count).foldl (fun m i => row m (q.start + i)) t.acc
      .next (finishOp (s.setTenant blk ({ t with acc := acc }).pop) b q [])

/-- A word of the accumulator store. -/
def Tenant.accAt (t : Tenant) (row col : Nat) : W32 := spGet 0 t.acc (32 * row + col)

/-- MRDA_EXECUTE (R202), both forms. -/
def execMrdaExecute (blk : Nat) (s : State) : Host.Outcome State Fault Refusal :=
  match headCmd s blk .ovf with
  | some (b, t, q) => .next (finishOp (s.setTenant blk ({ t with ovf := 0 }).pop) b q [List.replicate 32 t.ovf])
  | none =>
    match headCmd s blk .mrda with
    | none => .next s
    | some (b, t, q) =>
      if 128 * t.slots < q.start + q.count then .next (engineFault s b q 7)
      else .next (finishOp (s.setTenant blk t.pop) b q
        ((List.range q.count).map fun i => lanes32.map fun l => t.accAt (q.start + i) l))

/-! ### MRUN -/

/-- Table 8.5's checks of a parameter block against the tenant. An empty plane has no latched FMT, so that check 3 passes on it and check 4
fails: log entry 52. -/
def mrunCheck (p : Nat) (t : Tenant) (z : Nat) : Option Nat :=
  let a := t.activePlane
  let k := rK p (8 * t.slots) a.sparse
  let m := rM p
  let rows := 128 * t.slots
  let g := (k + 31) / 32
  firstDetail [
    (bitsOf p 320 192 != 0 || bitAt p 9 != 0 || bitsOf p 22 2 != 0 || bitsOf p 123 5 != 0 || rAsrc p == 3 || rOsel p == 3 ||
      decide (5 ≤ rOfmt p) || rAop p == 3 || rOop p == 3 || (rAop p != 0 && rAsrc p != 2), 2),
    (a.loaded && rAfmt p != a.fmt, 3),
    (!a.loaded, 4),
    (mfInteger (rAfmt p) && (rAscl p != 0 || a.scales.any fun x => x != 0), 5),
    (planesBad (rAfmt p) (rAtpl p), 6),
    (decide (rows < rDacc p + m) || (rAsrc p == 2 && decide (rows < rAacc p + g * m)), 7),
    (rAsrc p == 2 && ((decide (rAacc p < rDacc p + m) && decide (rDacc p < rAacc p + g * m)) ||
      !([1, 2, 5, 6].contains (rAfmt p)) || rAtpl p != 0), 8),
    (rAoff p % 16 != 0 || rAstr p % 16 != 0 || rOoff p % 16 != 0 || rOstr p % 16 != 0 || rCwoff p % 4 != 0 ||
      (rAsrc p == 0 && decide (z < rAoff p + (m - 1) * rActStride p k + rActBytes p k)) ||
      (rOsel p == 2 && decide (z < rOoff p + (m - 1) * rOutStride p + rOutBytes p)) ||
      (rCwen p && decide (z < rCwoff p + 4)), 9),
    (mfInteger (rAfmt p) && rOfmt p != 0, 10)]

/-- The activation rows that an MRUN still has to read from the stash, as they stand (R206): when its first row enters, nothing but the
command itself has been able to write them since its issue. -/
def stashRows (s : State) (b : Block) (wave p k row : Nat) : List (List Byte) :=
  if rAsrc p = 0 then
    (List.range (rM p)).map fun m =>
      if m < row then [] else stashBytes s (b.seenBy wave) (rAoff p + m * rActStride p k) (rActBytes p k)
  else []

/-- The activation row `m` as a little-endian number, and e1 after it (R197); none while e1 lacks an element. -/
def activation (t : Tenant) (w : Wave) (acts : List (List Byte)) (p k m : Nat) : Option (Nat × List (List W32)) :=
  let n := rActBytes p k
  match rAsrc p with
  | 0 => some (natLE ((acts[m]?).getD []), w.e1)
  | 1 =>
    let e := (n + 127) / 128
    if w.e1.length < e then none else some (natLE ((wordsBytes ((w.e1.take e).flatMap id)).take n), w.e1.drop e)
  | _ =>
    let g := (k + 31) / 32
    let bits := mfBits (rAfmt p)
    let el (i : Nat) : Nat :=
      convertTo false false (rAop p) (rClo p) (rChi p) (rAfmt p) (t.accAt (rAacc p + g * m + i / 32) (i % 32)).toNat
    some (joinElems bits ((List.range k).map el), w.e1)

/-- The sum of a column for an activation row (R65, R185), and whether an integer addition overflowed. -/
def columnSum (pl : Plane) (p nrw act c : Nat) : Nat × Bool :=
  let code := rAfmt p
  let d := mfDensity code
  let wrow (r : Nat) : Nat := natLE ((pl.rows[r]?).getD [])
  let mrow (r : Nat) : Nat := natLE ((pl.metas[r]?).getD [])
  let k (r i : Nat) : Nat := actIndex d pl.sparse (mrow r) r c i
  let sa := toSigned 8 (rAscl p)
  let sw := toSigned 8 ((pl.scales[c]?).getD 0).toNat
  let pf (r : Nat) : FVal := cellF (fun i => scaleV sw (mfDecode code (elemBits code (wrow r) (d * c + i))))
    (fun i => scaleV sa (mfDecode code (elemBits code act (k r i)))) d
  let pi (r : Nat) : Int := cellI (fun i => elemInt code pl.tpl (wrow r) (d * c + i))
    (fun i => elemInt code (rAtpl p) act (k r i)) d
  chainOf (mfInteger code) pf pi nrw

/-- One activation row of an MRUN into the accumulator store: the tenant after it. A plane without rows was replayed after its
stash bytes had changed: its results are unpredictable (R189), free values at `seed`. -/
def accumulate (t : Tenant) (p act m seed : Nat) : Tenant :=
  let pl := t.activePlane
  let isInt := mfInteger (rAfmt p)
  let col (u : Tenant) (c : Nat) : Tenant :=
    let row := rDacc p + m
    let (x, o) := columnSum pl p (8 * t.slots) act c
    let old := (u.accAt row c).toNat
    let (y, o2) := if rDacm p then (if isInt then addI32 old (toSigned 32 x) else (addF32 old (readF (fmtOf .f32) false x), false))
      else (x, false)
    let lost := pl.rows == []
    let y := if lost then (Config.freeWord (8 * (seed * 64 + c) + 2)).toNat else y
    let ovr := if lost then isInt && Config.freeBit (8 * (seed * 64 + c) + 4) else o || o2
    let bit : W32 := if ovr then 1#32 <<< c else 0
    { u with acc := spSet 0 (32 * row + c) (BitVec.ofNat 32 y) u.acc, ovf := u.ovf ||| bit }
  lanes32.foldl col t

/-- The converted output of a row (R198). -/
def outputRow (t : Tenant) (p m : Nat) : List Nat :=
  lanes32.map fun c => convertTo (mfInteger (rAfmt p)) (rOfmt p == 0) (rOop p) (rClo p) (rChi p) (outCode (rOfmt p))
    (t.accAt (rDacc p + m) c).toNat

/-- Rows of an MRUN from `row` on, until it is done or must wait for e1 or e2 (R192, R198); the first row not entered. -/
def mrunRows (blk : Nat) (q : MCmd) (p : Nat) : Nat → Nat → State → Nat × State
  | 0, row, s => (row, s)
  | n + 1, row, s =>
    match s.block? blk with
    | none => (row, s)
    | some b =>
      match b.tenant, b.wave? q.wave with
      | some t, some w =>
        let k := rK p (8 * t.slots) t.activePlane.sparse
        match activation t w q.acts p k row with
        | none => (row, s)
        | some (act, e1) =>
          if rOsel p = 1 ∧ 16 ≤ w.e2.length then (row, s)
          else
            let t1 := bumpCtr (accumulate t p act row s.free) 1 1
            let o := outputRow t1 p row
            let s1 := { s.setTenant blk t1 with free := s.free + 1 }
            let s2 := s1.mapWave blk q.wave fun w =>
              { w with e1 := e1, e2 := if rOsel p = 1 then w.e2 ++ [o.map fun x => BitVec.ofNat 32 x] else w.e2 }
            let s3 := if rOsel p = 2 then
                writeStashFor blk q.wave s2 (rOoff p + row * rOutStride p) (o.flatMap fun x => bytesLE (rOutBytes p / 32) x)
              else s2
            mrunRows blk q p n (row + 1) s3
      | _, _ => (row, s)

/-- The window lines that the rest of an MRUN reads and writes are filled (R155). -/
def mrunFills (s : State) (b : Block) (t : Tenant) (q : MCmd) : Except (Nat × Nat) State :=
  let p := natLE q.data
  match fillRanges s b q.wave false (rSources p (rK p (8 * t.slots) t.activePlane.sparse) q.row) with
  | .error e => .error e
  | .ok s1 => fillRanges s1 b q.wave true (rOutputs p q.row)

/-- MRUN_EXECUTE (R198): rows enter while e1 and e2 allow; after the last one the completion word is written. -/
def execMrunExecute (blk : Nat) (s : State) : Host.Outcome State Fault Refusal :=
  match headCmd s blk .mrun with
  | none => .next s
  | some (b, t, q) =>
    let p := natLE q.data
    match mrunCheck p t b.z with
    | some d => .next (engineFault s b q d)
    | none =>
      match mrunFills s b t q with
      | .error (off, d) => .next (commandRefused s b q off d)
      | .ok s0 =>
        let q := if q.acts = [] then { q with acts := stashRows s0 b q.wave p (rK p (8 * t.slots) t.activePlane.sparse) q.row } else q
        let (row, s1) := mrunRows blk q p (rM p - q.row) q.row s0
        match s1.block? blk with
        | none => .next s1
        | some b1 =>
          match b1.tenant with
          | none => .next s1
          | some t1 =>
            if row = q.row then .next s
            else if row < rM p then .next (s1.setTenant blk { t1 with queue := { q with row := row } :: t1.queue.drop 1 })
            else
              let s2 := s1.setTenant blk t1.pop
              let s3 := if rCwen p then writeStashFor blk q.wave s2 (rCwoff p) (bytesLE 4 (rCwval p)) else s2
              .next (finishOp s3 b q [])

/-! ### Counting clk (Table 8.6) -/

/-- The tenant's first command is an MRUN that can enter no row for want of e1 elements or of a place in e2 (R192). -/
def stalledOn (b : Block) (t : Tenant) : Bool :=
  match t.queue with
  | [] => false
  | q :: _ =>
    let p := natLE q.data
    q.kind == .mrun && decide (q.row < rM p) && match b.wave? q.wave with
      | none => false
      | some w => (activation t w q.acts p (rK p (8 * t.slots) t.activePlane.sparse) q.row).isNone ||
          (rOsel p == 1 && decide (16 ≤ w.e2.length))

/-- `n` clk pass for a tenant: they are busy clk while it has a command, and stalled clk while that waits on e1 or e2. -/
def clkTenant (b : Block) (n : Nat) (t : Tenant) : Tenant :=
  if t.queue.isEmpty ∨ t.quiesced then t
  else if stalledOn b t then bumpCtr (bumpCtr t 2 n) 3 n
  else bumpCtr t 2 n

/-- Time passes for every tenant. -/
def clkTenants (s : State) : State :=
  if s.blocks.any fun b => b.tenant.isSome then
    { s with blocks := s.blocks.map fun b => { b with tenant := b.tenant.map (clkTenant b ((s.pace[b.die]?).getD 0)) } }
  else s

end Sys2Proof.Machine
end

