-- ==== Sys2Proof/Machine/CopyEngine.lean ====
section
/-!
DEFINITION. The copy engine (R220 to R225): CPY, COPY_EXECUTE and COPY_STATUS_PUSH; and GBAR_COMPLETE (R218).
-/
namespace Sys2Proof.Machine

/-! ## CPY -/

/-- CPY from the stash (R220, R221). -/
def execCpy (f : Fields) (s : State) : Host.Outcome State Fault Refusal :=
  issue 0x301 f s fun s c =>
    if c.w.e3 ≠ [] ∨ f.op2 ≠ .none then c.illegalOp
    else if pathStuck s c.b.die c.b.core then c.wait s
    else match offsetOperand c f.op1 64 true with
      | none => c.illegalOp
      | some off => match capture s c off 64 64 with
        | .error e => .error e
        | .ok (l, s1) => .ok (.seq (enterCopy s1 c l))

/-- CPY from s registers (R220, R221). -/
def execCpyS (f : Fields) (s : State) : Host.Outcome State Fault Refusal :=
  issue 0x301 f s fun s c =>
    match f.op1 with
    | .s n =>
      if c.w.e3 ≠ [] ∨ 112 < n.val ∨ f.op2 ≠ .int 16 then c.illegalOp
      else if pathStuck s c.b.die c.b.core then c.wait s
      else .ok (.seq (enterCopy s c (wordsBytes ((List.range 16).map fun i => c.readS true (n + i)))))
    | _ => c.illegalOp

/-! ## The checks of Table 10.3 -/

/-- A range of `rows` rows ends inside the stash, and its address has no upper half. -/
def stashRangeBad (a stride width rows z : Nat) : Bool :=
  a / 2 ^ 32 != 0 || decide (z < a + (rows - 1) * stride + width)

/-- The lowest failing check of a record; a check applies only to the fields that the command uses (R223). -/
def copyCheck (r z : Nat) : Option Nat :=
  let moves := cWidth r != 0
  let reads := moves && cOp r == 0
  firstDetail [
    (bitsOf r 396 116 != 0 || decide (2 ≤ cOp r) || decide (cScope r < 2), 32),
    ((reads && cSsp r && stashRangeBad (cSrc r) (cSstr r) (cWidth r) (cRows r) z) ||
      (moves && cDsp r && stashRangeBad (cDst r) (cDstr r) (cWidth r) (cRows r) z) ||
      (cCwen r && cCwsp r && stashRangeBad (cCwaddr r) 0 4 1 z), 33),
    (cCwen r && cCwaddr r % 4 != 0, 34),
    (moves && decide (1 < cRows r) && decide (cDstr r < cWidth r), 35),
    (moves && (decide (2 ^ 32 < cWidth r * cRows r) ||
      (reads && !cSsp r && decide (2 ^ 64 < cSrc r + (cRows r - 1) * cSstr r + cWidth r)) ||
      (!cDsp r && decide (2 ^ 64 < cDst r + (cRows r - 1) * cDstr r + cWidth r))), 36)]

/-! ## Moving bytes -/

/-- How a copy's movement ends: done, at a page fault with its restart offset, or at a protection fault. -/
inductive Moved where
  | done (s : State)
  | page (va row byte : Nat) (s : State)
  | prot (va detail : Nat) (s : State)
  deriving DecidableEq, Repr

/-- Source bytes as the command took them before it wrote over them (R224). -/
def asSaved (saved : List (Option Nat × Nat × Byte)) (p : Piece) (l : List Byte) : List Byte :=
  if saved.isEmpty then l
  else l.zipIdx.map fun x => match saved.find? fun y => y.1 == p.blk && y.2.1 == p.lo + x.2 with
    | some y => y.2.2
    | none => x.1

/-- Moves one row from byte `i`: steps that stay inside one line of source and destination. -/
def moveRow (blk wave cid r row : Nat) (saved : List (Option Nat × Nat × Byte)) (free : Nat → Nat → Bool) : Nat → Nat → State → Moved
  | 0, _, s => .done s
  | fuel + 1, i, s =>
    if cWidth r ≤ i then .done s
    else match s.block? blk with
      | none => .done s
      | some b =>
        let src := cSrc r + row * cSstr r + i
        let dst := cDst r + row * cDstr r + i
        let left := cWidth r - i
        let n := min left (min (128 - dst % 128) (if cOp r = 0 then 128 - src % 128 else 128))
        let from0 : Except AccFault (List Byte × State) :=
          if cOp r = 0 then
            match spotAt s b wave (cSsp r) src { rd := true, wr := false } with
            | .error e => .error e
            | .ok q => .ok (asSaved saved (q.piece b n) (spotBytes s b n q), fillSpot s b q)
          else .ok ((List.range n).map fun j => BitVec.ofNat 8 (cFill r / 256 ^ ((i + j) % 4)), s)
        match from0 with
        | .error .page => .page src row i s
        | .error (.prot d) => .prot src d s
        | .error .align => .prot src 0 s
        | .ok (l, s) =>
          match spotAt s b wave (cDsp r) dst { rd := false, wr := true, engine := true } with
          | .error .page => .page dst row i s
          | .error (.prot d) => .prot dst d s
          | .error .align => .prot dst 0 s
          | .ok q =>
            let l1 := ((List.range n).zip l).map fun p => if free row (i + p.1) then Config.freeByte (s.free + p.1) else p.2
            let s1 := writeSpot { s with free := s.free + n } b (.engine cid) l1 q
            moveRow blk wave cid r row saved free fuel (i + n) s1

/-- Moves the rows from `row` on. -/
def moveRows (blk wave cid r : Nat) (saved : List (Option Nat × Nat × Byte)) (free : Nat → Nat → Bool) : Nat → Nat → Nat → State → Moved
  | 0, _, _, s => .done s
  | n + 1, row, byte, s =>
    if cRows r ≤ row then .done s
    else match moveRow blk wave cid r row saved free (cWidth r + 1) byte s with
      | .done s1 => moveRows blk wave cid r saved free n (row + 1) 0 s1
      | x => x

/-- A range of a copy as pieces of its space. -/
def copyAt (s : State) (b : Block) (stash : Bool) (q : Nat × Nat) : List Piece :=
  if stash then stashPieces b false q else globalPieces s b false q

/-- All sources and all destinations of a copy, where some byte is both. -/
def copyMeets (s : State) (b : Block) (r : Nat) : Option (List Piece × List Piece) :=
  let src := (cSources r 0).flatMap (copyAt s b (cSsp r))
  let dst := (cDests r 0 0).flatMap (copyAt s b (cDsp r))
  if src.any fun p => dst.any p.meets then some (src, dst) else none

/-- R223: a destination byte that is also a source byte is unpredictable. -/
def copyOverlap (s : State) (b : Block) (r : Nat) : Nat → Nat → Bool :=
  match copyMeets s b r with
  | none => fun _ _ => false
  | some (src, _) => fun row i => (copyAt s b (cDsp r) (cDst r + row * cDstr r + i, 1)).any fun p => src.any p.meets

/-- The source bytes that are destination bytes too, as they stand when the engine goes on with the command; those that it had taken
before stay as they were. -/
def copySaved (s : State) (b : Block) (c : Copy) : List (Option Nat × Nat × Byte) :=
  let r := c.record.toNat
  match copyMeets s (b.seenBy c.wave) r with
  | none => c.saved
  | some (_, dst) =>
    let one (q : Nat × Nat) (i : Nat) : Option (Option Nat × Nat × Byte) :=
      match spotAt s b c.wave (cSsp r) (q.1 + i) { rd := true, wr := false } with
      | .error _ => none
      | .ok x =>
        let p := x.piece b 1
        if dst.any p.meets ∧ !(c.saved.any fun y => y.1 == p.blk && y.2.1 == p.lo) then some (p.blk, p.lo, (spotBytes s b 1 x).headD 0) else none
    c.saved ++ (cSources r 0).flatMap fun q => (List.range q.2).filterMap (one q)

def State.mapCopy (s : State) (cid : Nat) (g : Copy → Copy) : State :=
  { s with copies := updWhere (fun c => c.id == cid) g s.copies }

/-- A copy command's fault, fatal to its block (R223). -/
def copyFault (s : State) (b : Block) (c : Copy) (cls detail vaddr : Nat) : State :=
  fatalFault s b (b.wave? c.wave) cls detail vaddr (16 * c.hdr.toNat) c.idx c.mask

/-- A page fault of a copy: it waits at its restart offset (R223, R291). -/
def copyPage (s : State) (b : Block) (c : Copy) (va row byte : Nat) : State :=
  let (id, s1) := s.fresh
  { s1.mapCopy c.id (fun x => { x with row := row, byte := byte, begun := true, pf := some id }) with
    pfs := s1.pfs ++ [{ id := id, oid := b.oid, glade := b.glade, va := va, who := .copy c.id, lanes := 0 }] }

/-- The completion word, written after the last payload byte with release at SCOPE (R223, R224). -/
def copyWord (s : State) (b : Block) (c : Copy) : Except (AccFault) State :=
  let r := c.record.toNat
  if !cCwen r then .ok s
  else
    let s1 := releaseAt s b (cScope r)
    match spotAt s1 b c.wave (cCwsp r) (cCwaddr r) { rd := false, wr := true, engine := true } with
    | .error e => .error e
    | .ok q => .ok (writeSpot s1 b (.engine c.id) (bytesLE 4 (cCwval r)) q)

/-- The number of a grove, and a wave's place in the round-robin order of its copy engine, from 1: log entry 54. -/
def Block.grovePlace (b : Block) (wave : Nat) : Nat × Nat := (12 * b.die + b.core / 16, 64 * (b.core % 16) + b.h0 + wave + 1)

/-- The block on whose core a command can go on: it is not stopped, it is its wave's first, and it waits for no other. -/
def copyReady (s : State) (c : Copy) : Option Block :=
  (s.block? c.blk).filter fun b => !c.payload && c.pf.isNone && b.halt != .halted && !commandWaits s c.id &&
    !s.copies.any fun x => decide (x.id < c.id) && x.blk == c.blk && x.wave == c.wave && !x.payload

/-- The waves that come before a wave's place in the round-robin order after the one served last (R224). -/
def robinKey (s : State) (b : Block) (c : Copy) : List Nat :=
  let p := b.grovePlace c.wave
  [(p.2 + 1023 - spGet 0 s.robin p.1) % 1024, c.id]

/-- The engine takes the command: it has begun it, or the command's wave is the next that has one waiting (R224). -/
def copyTurn (s : State) (b : Block) (c : Copy) : Bool :=
  c.begun || s.copies.all fun x => match copyReady s x with
    | none => true
    | some y => (y.grovePlace 0).1 != (b.grovePlace 0).1 || keysLe (robinKey s b c) (robinKey s y x)

/-- The engine goes on with a command, which observes its core's stores: its wave is the last in the round-robin order. -/
def copyTaken (s : State) (b : Block) (c : Copy) : State :=
  let p := b.grovePlace c.wave
  let s1 := drainCore (if c.begun then s else { s with robin := spSet 0 p.1 p.2 s.robin }) b.die b.core
  s1.mapCopy c.id fun x => { x with saved := copySaved s1 b c }

/-- COPY_EXECUTE: the command reads its sources, writes its payload and its completion word (R223, R224). -/
def execCopyExecute (cid : Nat) (s : State) : Host.Outcome State Fault Refusal :=
  match s.copies.find? fun c => c.id == cid with
  | none => .next s
  | some c =>
    match copyReady s c with
    | none => .next s
    | some b =>
      if !copyTurn s b c then .next s
      else
        let r := c.record.toNat
        match copyCheck r b.z with
        | some d => .next (copyFault s b c 12 d 0)
        | none =>
          let s0 := copyTaken s b c
          match moveRows c.blk c.wave cid r (copySaved s0 b c) (copyOverlap s0 (b.seenBy c.wave) r) (cRows r) c.row c.byte s0 with
          | .page va row byte s1 => .next (copyPage s1 b c va row byte)
          | .prot va d s1 => .next (copyFault s1 b c 6 d va)
          | .done s1 =>
            match copyWord s1 b c with
            | .error .page => .next (copyPage s1 b c (cCwaddr r) (cRows r) 0)
            | .error (.prot d) => .next (copyFault s1 b c 6 d (cCwaddr r))
            | .error .align => .next (copyFault s1 b c 12 34 0)
            | .ok s2 =>
              if cSten r then .next (s2.mapCopy cid fun x => { x with payload := true, begun := true })
              else .next { s2 with copies := s2.copies.filter fun x => x.id != cid }

/-- COPY_STATUS_PUSH: the status element, once e4 has a place; statuses of one wave in issue order (R223, R224). -/
def execCopyStatusPush (cid : Nat) (s : State) : Host.Outcome State Fault Refusal :=
  match s.copies.find? fun c => c.id == cid with
  | none => .next s
  | some c =>
    match s.wave? { blk := c.blk, wave := c.wave } with
    | none =>                               -- its wave has ended while the block was away from its core: there is no e4
      if c.payload && (s.block? c.blk).isSome then .next { s with copies := s.copies.filter fun x => x.id != cid } else .next s
    | some (_, w) =>
      let earlier := s.copies.any fun x => x.id < cid && x.blk == c.blk && x.wave == c.wave
      if c.payload && !earlier && decide (w.e4.length < 8) then
        let s1 := s.mapWave c.blk c.wave fun w => { w with e4 := w.e4 ++ [BitVec.ofNat 32 (cTag c.record.toNat)] }
        .next { s1 with copies := s1.copies.filter fun x => x.id != cid }
      else .next s

/-! ## GBAR -/

/-- A member of a gang has no thread left: it has ended, or every thread of it has exited (R216, R218). -/
def gone (s : State) (g : Gang) (m : Nat) : Bool := g.ended.contains m || (s.block? m).any fun b => b.waves.all fun w => w.live == 0

/-- Every member of a gang has arrived, or has no thread left (R216, R217, R218). -/
def gangDone (s : State) (g : Gang) : Bool := g.members.all fun m => g.arrived.contains m || gone s g m

/-- GBAR_COMPLETE: the last member block has arrived; every member's held waves are released (R218). -/
def execGbarComplete (gang : Nat) (s : State) : Host.Outcome State Fault Refusal :=
  match s.gang? gang with
  | none => .next s
  | some g =>
    if g.kind = some .gbar ∧ gangDone s g ∧ g.arrived.all (fun m => g.ended.contains m || (s.block? m).isSome) then
      let s1 := g.arrived.foldl releaseHeld s
      .next { s1 with gangs := updWhere (fun x => x.uid == gang) (fun x => { x with kind := none, addr := 0, arrived := [] }) s1.gangs }
    else .next s

end Sys2Proof.Machine
end

