-- ==== Sys2Proof/Machine/Distributor.lean ====
section
/-!
DEFINITION. The distributor's steps: owner queues (R242 to R244), creation of blocks and gangs (R214, R246), gating (R248, R255),
ageing (R247), completion of launches (R245, R413), quotas (R250 to R252), the priority rule (R295), and kills (R267).
-/
namespace Sys2Proof.Machine

/-! ## Queues -/

def queueOff (q : Nat) : Nat := 0x20000 + 32 * q
def qBase (s : State) (q : Nat) : Nat := (s.reg (queueOff q)).toNat
def qCtl (s : State) (q : Nat) : Nat := (s.reg (queueOff q + 8)).toNat
def qNlog (s : State) (q : Nat) : Nat := s.regBits (queueOff q + 16) 0 4
def qPcmax (s : State) (q : Nat) : Nat := s.regBits (queueOff q + 16) 4 3
def qDie (s : State) (q : Nat) : Nat := s.regBits (queueOff q + 16) 7 2
def qEn (s : State) (q : Nat) : Bool := s.regBits (queueOff q + 16) 9 1 == 1
def qGlade (s : State) (q : Nat) : Nat := s.regBits (queueOff q + 16) 10 4
def qOid (s : State) (q : Nat) : Nat := s.regBits (queueOff q + 16) 14 12
/-- A queue that accepts: enabled, and its owner's context valid (Table 13.1). -/
def qOpen (s : State) (q : Nat) : Bool := decide (q < 1024) && qEn s q && s.ctxValid (qOid s q)

def dropArrived (s : State) (q : Nat) : State := { s with arrived := s.arrived.filter fun x => x != q }

/-- A queue that faults: one record, EN := 0, and nothing more is accepted (R244). -/
def stopQueue (s : State) (q cls detail vaddr : Nat) : State :=
  let s1 := s.setRegBits (queueOff q + 16) 9 1 0
  dropArrived (raiseRecord s1 (Record.plain cls (qOid s q) (qGlade s q) (qDie s q) 0 vaddr 0 detail)) q

/-- A failed access of a queue: a page to be resolved, or a stop (R244). -/
def queueFault (s : State) (q : Nat) (denied : Option Nat) (e : AccFault) (va : Nat) : State :=
  if e = .page ∧ denied ≠ some va then postPage s (qOid s q) va (.queue q) else stopQueue s q e.cls e.detail va

/-- TAIL and HEAD. -/
def queueWords (s : State) (q : Nat) : Except (AccFault × Nat) (Nat × Nat) :=
  match ownerRead s (qOid s q) (qCtl s q) 4 with
  | .error e => .error e
  | .ok t => match ownerRead s (qOid s q) (qCtl s q + 128) 4 with
    | .error e => .error e
    | .ok h => .ok (natLE t, natLE h)

/-- The key of TAIL, where it can be reached. -/
def tailKey (s : State) (q : Nat) : Option Nat :=
  match ownerKeys s (qOid s q) { rd := true, wr := false } (qCtl s q) 4 with
  | .ok l => l.head?
  | .error _ => none

/-- A line that the device can hold: of device memory, or of host memory (R309). -/
def holdable (key : Nat) : Bool := decide (key < 2 ^ 37) || (decide (2 ^ 51 ≤ key) && decide (key < 2 ^ 52))

/-- The device takes the TAIL line in S (R244). -/
def holdTail (s : State) (q : Nat) : State :=
  match tailKey s q with
  | none => s
  | some k =>
    if holdable k then
      let s1 := readShared s (k / 128) (.dist q)
      { s1 with dir := updWhere (isEnt (k / 128) (.dist q)) (fun d => { d with st := .shared }) s1.dir }
    else s

/-- Whether TAIL may have been written since it was last read: the device's copy of its line has gone, or, of a line that it cannot
hold, TAIL is not HEAD. A TAIL that cannot be reached is looked at too. -/
def tailMoved (s : State) (q : Nat) : Bool :=
  match tailKey s q with
  | none => true
  | some k =>
    if holdable k then (s.dirEnt? (k / 128) (.dist q)).isNone
    else match queueWords s q with
      | .ok (t, h) => t != h
      | .error _ => true

/-- QUEUE_ARRIVAL (R244): the write that invalidates the device's copy of TAIL's line has arrived. -/
def execQueueArrival (qid : Nat) (s : State) : Host.Outcome State Fault Refusal :=
  if !qOpen s qid || s.arrived.contains qid || s.waitsOnPage (.queue qid) || !tailMoved s qid then .next s
  else .next { s with arrived := s.arrived ++ [qid] }

/-- HEAD := HEAD + 1 with release at .sys; the queue takes its turn after the others of its die (R244). -/
def bumpHead (s : State) (q head : Nat) : State :=
  match ownerWrite s (qOid s q) (qCtl s q + 128) (bytesLE 4 (head + 1)) with
  | .ok s1 => { dropArrived s1 q with arrived := (dropArrived s1 q).arrived ++ [q] }
  | .error (e, va) => stopQueue s q e.cls e.detail va

/-- The words of a queue, or its next entry, are held by a command (R363). -/
def queueHeld (s : State) (q : Nat) : Bool :=
  anyHeld s && (pinsHeld s (qOid s q) [(qCtl s q, 4), (qCtl s q + 128, 4)] false || match queueWords s q with
    | .ok (_, h) => pinsHeld s (qOid s q) [(qBase s q + 32 * (h % 2 ^ qNlog s q), 32)] false
    | .error _ => false)

/-- Takes the next entry of a queue; `none` while there is no room for it, or while what it reads is held. `denied` is a page that the executive has refused.
No record is read for a KIND of 1 to 15 that is refused, so CADDR is 0 there: log entry 52. -/
def acceptEntry (s0 : State) (q : Nat) (denied : Option Nat) : Option State :=
  let s := holdTail s0 q
  if !qOpen s q then some (dropArrived s q)
  else if queueHeld s q then none
  else match queueWords s q with
    | .error (e, va) => some (queueFault s q denied e va)
    | .ok (t, h) =>
      let n := (t + 2 ^ 32 - h) % 2 ^ 32
      if n = 0 then some (dropArrived s q)
      else if 2 ^ qNlog s q < n then some (stopQueue s q 11 71 0)
      else match ownerKeys s (qOid s q) { rd := false, wr := true } (qCtl s q + 128) 4 with
        | .error (.page, va) => some (queueFault s q denied .page va)
        | _ =>
          match ownerRead s (qOid s q) (qBase s q + 32 * (h % 2 ^ qNlog s q)) 32 with
          | .error (e, va) => some (queueFault s q denied e va)
          | .ok l =>
            let x := natLE l
            let sub : Submission :=
              { die := qDie s q, oid := qOid s q, glade := qGlade s q, cap := qPcmax s q, gen := 0, addr := bitsOf x 0 64,
                cwAddr := bitsOf x 64 64, cwVal := BitVec.ofNat 32 (bitsOf x 128 32), node := none, tinit := 0, qid := some q,
                producers := (s.launches.filter fun l => l.qid == some q && !l.dead).map fun l => l.uid, preds := [], odd := false }
            let odd : Bool := bitsOf x 164 92 != 0
            if odd ∧ bitsOf x 160 4 ≠ 0 then some (bumpHead (refuseLaunch s sub 11 64 0 sub.addr) q h)
            else match bitsOf x 160 4 with
              | 0 =>
                if !poolRoom s sub.die || recordHeld s sub then none
                else match submit s { sub with odd := odd } denied with
                  | .error va => some (postPage s sub.oid va (.queue q))
                  | .ok (s1, _) => some (bumpHead s1 q h)
              | 1 =>
                if 16 ≤ (s.runReqs.filter fun r => r.die == sub.die).length then none
                else
                  let r : RunReq := { die := sub.die, oid := sub.oid, glade := sub.glade, pcls := sub.cap, table := sub.addr,
                                      cwAddr := sub.cwAddr, cwVal := sub.cwVal }
                  some (bumpHead { s with runReqs := s.runReqs ++ [r] } q h)
              | _ => some (bumpHead (refuseLaunch s sub 11 70 0 sub.addr) q h)

/-- A queue whose next entry can be taken now. -/
def queueTurn (s : State) (q : Nat) : Bool := !s.waitsOnPage (.queue q) && (acceptEntry s q none).isSome

/-- QUEUE_ENTRY_ACCEPT (R244): queues of one die take turns. -/
def execQueueEntryAccept (qid : Nat) (s : State) : Host.Outcome State Fault Refusal :=
  if (s.arrived.find? fun q => qDie s q == qDie s qid && queueTurn s q) = some qid then
    match acceptEntry s qid none with
    | some s1 => .next s1
    | none => .next s
  else .next s

/-! ## Creation of blocks (R214, R246) -/

/-- The phase of a new block. -/
def newPhase (uid : Nat) (l : Launch) (n : Nat) (gang : Option Nat) : Phase :=
  { uid := uid, launch := l.uid, n := n, st := .created, reason := 0, ntile := lTfirst l.record.toNat, phno := 0,
    wlive := maskOf fun w => w < lNw l.record.toNat,
    kept := Kept.empty,
    fresh := true, age := 0, ageClk := 0, order := uid, gang := gang, waitedSince := none }

/-- Writes a new block's phase record header (R246); a fault on it is a double fault. -/
def writeNewHeader (s : State) (l : Launch) (p : Phase) : State :=
  match pinWrite s l.oid (l.recordAt p.n) (headerBytes s l p .created 0 p.ntile 0) with
  | some s1 => s1
  | none => phaseDouble s l p l.die (pinBad s l.oid true [(l.recordAt p.n, 256)])

/-- Creates a launch's next `k` blocks, as a gang when `gang` says so. -/
def createBlocks (s : State) (l : Launch) (k : Nat) (gang : Bool) : State :=
  let g := s.uids
  let ps := (List.range k).map fun i => newPhase (s.uids + 1 + i) l (l.next + i) (if gang then some g else none)
  let s1 : State := { s with uids := s.uids + 1 + k, phases := s.phases ++ ps }
  let s2 := s1.mapLaunch l.uid fun l => { l with next := l.next + k, gangs := l.gangs + gang.toNat }
  let s3 : State := if gang then
      { s2 with gangs := s2.gangs ++ [{ uid := g, launch := l.uid, num := l.gangs, members := ps.map fun p => p.uid, ended := [],
                                        kind := none, addr := 0, arrived := [] }] }
    else s2
  ps.foldl (fun s p => writeNewHeader s l p) s3

/-- Some grove can admit the launch's next `k` blocks at once (R214). -/
def gangFits (s : State) (l : Launch) (k : Nat) : Bool :=
  let ps := (List.range k).map fun i => newPhase (s.uids + 1 + i) l (l.next + i) none
  (List.range 4).any fun d => (List.range 12).any fun g => groveOf s l.glade d g && (seatAll s l d ps (groveCores g)).isSome

/-- BLOCK_CREATE (R246): the next block, or the next gang under R214, while the launch has room in its 256. A gang of GP blocks
that some grove can admit waits for that room; GF is for the case that no grove can. -/
def execBlockCreate (launch : Nat) (s : State) : Host.Outcome State Fault Refusal :=
  match s.launch? launch with
  | none => .next s
  | some l =>
    let r := l.record.toNat
    let left := lNb r - l.next
    let room := 256 - (s.phases.filter fun p => p.launch == launch && p.fresh && p.st != .done).length
    if l.dead || left = 0 || room = 0 then .next s
    else if !lGang r then .next (createBlocks s l 1 false)
    else
      let gp := min (lGp r) left
      let gf := min (lGf r) left
      let k := if gangFits s l gp then gp else gf
      if k ≤ room && gangFits s l k then .next (createBlocks s l k true) else .next s

/-- PHASE_READY (R248, R255): a created phase becomes ready or gated, a gated phase becomes ready, and a gated or ready phase whose
key holds a newer generation ends with the stale-blaze fault. -/
def execPhaseReady (phase : Nat) (s : State) : Host.Outcome State Fault Refusal :=
  match s.phase? phase with
  | none => .next s
  | some p =>
    match s.launch? p.launch with
    | none => .next s
    | some l =>
      match p.st, gateOf s l p with
      | .created, _ => .next (gatePhase s l p)
      | .gated, .opened => .next (readyPhase s p.uid)
      | .gated, .broken va => .next (phaseDouble s l p l.die va)
      | .gated, .stale k g => .next (stalePhase s l p k g)
      | .ready, .stale k g => if p.reason = 0 then .next (stalePhase s l p k g) else .next s
      | _, _ => .next s

/-- AGEING_PERIOD (R247): at the end of a period of 2^16 clk of the die, the counts of its pool's phases follow the clk in which
each was dispatchable. -/
def execAgeingPeriod (die : Nat) (s : State) : Host.Outcome State Fault Refusal :=
  let now := s.clkOf die / 2 ^ 16
  if 4 ≤ die ∨ now ≤ (s.aged[die]?).getD 0 then .next s
  else
    let mine (p : Phase) : Bool := match s.launch? p.launch with
      | some l => l.die == die
      | none => false
    .next { s with aged := setAt s.aged die now,
                   phases := updWhere mine (fun p => { p with age := p.ageClk / 2 ^ 16 }) s.phases }

/-! ## Completion -/

/-- A listed publication is cleared from its owner's overflow area (R256, R257). -/
def unlist (s : State) (x : Listed) : State :=
  let s1 : State := { s with listed := s.listed.erase x }
  let base := s.regBits (0xD0000 + 8 * x.oid) 16 48 * 2 ^ 16
  match pinWrite s1 x.oid (base + 16 * x.slot) (List.replicate 16 0) with
  | some s2 => s2
  | none => doubleFault s1 x.oid (homeDie x.blaze.key.toNat) (pinBad s1 x.oid true [(base + 16 * x.slot, 16)])

/-- Publications that a completed launch had listed are removed, and sets without a listed entry lose their bit (R256). -/
def unlistLaunch (s : State) (launch : Nat) : State :=
  let s1 := (s.listed.filter fun x => x.launch == launch).foldl unlist s
  { s1 with overflowed := keepOverflowed s1.overflowed s1.listed }

/-- The launch leaves the pool with its phases and gangs. -/
def dropLaunch (s : State) (uid : Nat) : State :=
  { s with launches := s.launches.filter fun l => l.uid != uid,
           phases := s.phases.filter fun p => p.launch != uid,
           gangs := s.gangs.filter fun g => g.launch != uid }

/-- Writes a completion word (R413): done, a page to be resolved, or one record. `denied` is a page that the executive has refused. -/
def writeWord (s : State) (oid glade die addr : Nat) (v : W32) (who : PfWho) (denied : Option Nat) : State × Bool :=
  if addr = 0 then (s, true)
  else match ownerWrite s oid addr (bytesLE 4 v.toNat) with
    | .ok s1 => (s1, true)
    | .error (.page, va) =>
      if denied.any fun a => a / 2 ^ 16 == va / 2 ^ 16 then (raiseRecord s (Record.plain 5 oid glade die 0 addr 0 0), true) else (postPage s oid va who, false)
    | .error (e, _) => (raiseRecord s (Record.plain e.cls oid glade die 0 addr 0 e.detail), true)

/-- The completion of a launch whose blocks are done (R245). -/
def completeLaunch (s : State) (l : Launch) (denied : Option Nat) : State :=
  let s1 := unlistLaunch s l.uid
  let (s2, ok) := writeWord s1 l.oid l.glade l.die l.cwAddr l.cwVal (.launch l.uid) denied
  if ok then dropLaunch s2 l.uid else s2

/-! ## Pre-emption requests (R252, R295) -/

/-- Whether an owner's blocks can be saved (Table 13.1). -/
def canSave (s : State) (oid : Nat) : Bool := s.ctxSvlog oid != 0

/-- Asks for the pre-emption of a block and of its gang's resident members (R216, R295); a glade in reset ignores it (R386). -/
def askPreempt (s : State) (uid : Nat) : State :=
  let members := match s.phase? uid with
    | some p => (together s p).map fun (x : Phase) => x.uid
    | none => [uid]
  { s with blocks := updWhere (fun b => (b.uid == uid || members.contains b.uid) && b.halt == .running && canSave s b.oid &&
               s.rstep b.glade == 0)
             (fun b => { b with halt := .asked }) s.blocks }

/-- QUOTA_PERIOD_START (R251). -/
def execQuotaPeriodStart (die : Nat) (s : State) : Host.Outcome State Fault Refusal :=
  let q := (s.reg (0xA8000 + 8 * die)).toNat
  let from0 := (s.quotaAt[die]?).getD 0
  if 4 ≤ die ∨ q = 0 ∨ s.clkOf die < from0 + q then .next s
  else
    let pay (m : Sparse Nat) (x : Nat × Nat) : Sparse Nat :=
      if x.1 / 4096 = die then spSet 0 x.1 (x.2 - budgetOf s die (x.1 % 4096)) m else m
    .next { s with quotaAt := setAt s.quotaAt die (from0 + q), used := s.used.foldl pay s.used }

/-- USED has reached BUDGET + 256 × OVR (R252). -/
def overBudget (s : State) (die oid : Nat) : Bool :=
  budgetOf s die oid != 0xFFFFFFFF &&
    decide (budgetOf s die oid + 256 * s.regBits (quotaOff die oid) 32 24 ≤ usedOf s die oid)

/-- An overrun is over once USED is below its mark again: reaching the mark counts anew (R252). -/
def settleOverrun (s : State) : State :=
  if s.overrun.isEmpty then s else { s with overrun := s.overrun.filter fun k => overBudget s (k / 4096) (k % 4096) }

/-- QUOTA_OVERRUN (R252): every resident block of the owner on the die is pre-empted, and one record is written. -/
def execQuotaOverrun (die oid : Nat) (s : State) : Host.Outcome State Fault Refusal :=
  if 4 ≤ die ∨ 4096 ≤ oid ∨ overBudget s die oid = false ∨ s.overrun.contains (quotaKey die oid) then .next s
  else
    let s0 : State := { s with overrun := quotaKey die oid :: s.overrun }
    let s1 := (s.blocks.filter fun x => x.oid == oid && x.die == die).foldl (fun s x => askPreempt s x.uid) s0
    .next (raiseRecord s1 (Record.plain 13 oid (s.ctxGlade oid) die 0 0 0 0))

/-- The block that the priority rule takes for a phase: of the lowest class below its own, dispatched most recently, on a core
where its going would let the phase be admitted (R295). -/
def victimFor (s : State) (l : Launch) (p : Phase) (die : Nat) : Option Block :=
  let fits (b : Block) : Bool :=
    let s1 : State := { s with blocks := s.blocks.filter fun x => x.uid != b.uid }
    match p.gang with
    | none => coreAdmits s1 l p die b.core
    | some _ => groveOf s l.glade die (b.core / 16) && (seatAll s1 l die (together s p) (groveCores (b.core / 16))).isSome
  let ok (b : Block) : Bool :=
    b.die == die && decide (b.pcls < l.pcls) && b.halt == .running && canSave s b.oid &&
      s.rstep b.glade == 0 && fits b
  (s.blocks.filter ok).foldl (fun a b => match a with
    | none => some b
    | some x => if b.pcls < x.pcls ∨ (b.pcls = x.pcls ∧ x.since < b.since) then some b else some x) none

/-- PRIORITY_PREEMPT (R295): a phase has lacked nothing but a core for 2^16 clk. The distributor of its launch's die acts, or of
another die where the phase is not kept from that other one alone (R237). It may act again while a victim of the same phase is being
saved: log entry 52. -/
def execPriorityPreempt (die : Nat) (s : State) : Host.Outcome State Fault Refusal :=
  let waiting (p : Phase) : Bool := p.st == .ready && match p.waitedSince with
    | some t => decide (t + 2 ^ 16 ≤ s.clkOf die)
    | none => false
  let victim (p : Phase) : Option Block :=
    if waiting p then
      match s.launch? p.launch with
      | some l => if mayDispatch s l p die && (l.die == die || !mayDispatch s l p l.die) then victimFor s l p die else none
      | none => none
    else none
  match s.phases.findSome? victim with
  | none => .next s
  | some b => .next (askPreempt s b.uid)

/-! ## Kills -/

/-- KILL (R267, R303). -/
def execKill (t : KillTarget) (s : State) : Host.Outcome State Fault Refusal :=
  match t with
  | .owner oid =>
    if s.blocks.any (fun b => b.oid == oid) || s.launches.any (fun l => l.oid == oid) || s.ctxValid oid then
      .next (endContext s oid)
    else .next s
  | .block uid =>
    match s.block? uid, s.phase? uid with
    | some _, _ => .next (endBlock s uid true)
    | none, some p =>
      if p.st = .done then .next s
      else
        let (s1, ok) := removePhase s p
        match s.launch? p.launch with
        | some l => .next (if ok then s1 else phaseDouble s1 l p l.die (stateAt s uid))
        | none => .next s1
    | none, none => .next s

end Sys2Proof.Machine
end

