-- ==== Sys2Proof/Machine/System.lean ====
section
/-!
DEFINITION. Group 14's system instructions TRAP, SVC, RTT and BRKP (R276 to R282), and the service replies SVC_REPLY_LAND and
SVC_REPLY_DELIVER (R284).
-/
namespace Sys2Proof.Machine

/-- An integer operand no greater than `hi`. -/
def intUpTo (o : Operand) (hi : Nat) : Option Nat :=
  match o with
  | .int n => if n.val ≤ hi then some n.val else none
  | _ => none

/-- The entry of the lanes outside a BRKP or an SVC: they go on in their clause. -/
def stayEntry (c : Ctx) (f : Fields) (lanes : W32) : Entry :=
  { c.e with idx := c.e.idx + 1, mask := lanes, hold := .none, notBefore := max c.e.notBefore (nextClk c f) }

/-- TRAP (R277). -/
def execTrap (f : Fields) (s : State) : Host.Outcome State Fault Refusal :=
  issue 0x380 f s fun s c =>
    let act := c.parts f
    let rest := [fallEntry s c f (c.e.mask &&& ~~~act)]
    if act ≠ 0 ∧ c.w.trap.isSome then c.illegalInstr
    else if act ≠ 0 ∧ s.ctxTslog c.b.oid = 0 then c.privileged
    else match intUpTo f.op1 63 with
      | none => c.illegalOp
      | some k =>
        if act = 0 then .ok (.placed (s.mapWave c.ref.blk c.ref.wave fun w => replaceEntry w c.ref.lane rest))
        else match enterTrap s c 0 k act (16 * c.e.nextHdr.toNat) rest (nextClk c f) with
          | .error e => .error e
          | .ok s1 => .ok (.placed s1)

/-- BRKP (R280): the lanes outside P go on without a split. -/
def execBrkp (f : Fields) (s : State) : Host.Outcome State Fault Refusal :=
  issue 0x383 f s fun s c =>
    let act := c.parts f
    if act ≠ 0 ∧ c.w.trap.isSome then c.illegalInstr
    else if act ≠ 0 ∧ (!s.ctxDbg c.b.oid || s.ctxTslog c.b.oid == 0) then c.privileged
    else match intUpTo f.op1 63 with
    | none => c.illegalOp
    | some k =>
      if act = 0 then .ok (.seq s)
      else
        let ret := if c.e.idx + 1 ≤ hdrCnt c.hdr then c.caddr + (c.e.idx + 1) else 16 * c.e.nextHdr.toNat
        match enterTrap s c 1 k act ret [stayEntry c f (c.e.mask &&& ~~~act)] (nextClk c f) with
        | .error e => .error e
        | .ok s1 => .ok (.placed s1)

/-- The entry of lanes that return to a frame's position (R279). -/
def returnEntry (s : State) (c : Ctx) (f : Fields) (lanes : W32) (ret : Nat) : Entry :=
  { entryAt s c.b (hdrOf ret) lanes (nextClk c f) with idx := ret % 16 }

/-- RTT (R279). The stores of its core to the frame are performed before it reads and writes there; it waits while the frame is held
(R363). -/
def execRtt (f : Fields) (s : State) : Host.Outcome State Fault Refusal :=
  issue 0x382 f s fun s c =>
    let act := c.parts f
    match c.w.trap with
    | none => c.illegalInstr
    | some t =>
      let fa := s.tstack c.b.oid + 64 * t.frame
      let left := t.lanes &&& ~~~act
      let rest := fallEntry s c f (c.e.mask &&& ~~~act)
      if act &&& ~~~t.lanes ≠ 0 then c.illegalInstr
      else if act = 0 then .ok (.placed (s.mapWave c.ref.blk c.ref.wave fun w => replaceEntry w c.ref.lane [rest]))
      else if (!s.path.isEmpty && !(stuckStores s (frameStore s c.b t.frame) s.path).isEmpty) || frameHeld s c.b.oid t.frame true then c.wait s
      else
      let s := if s.path.isEmpty then s else drainPath s (frameStore s c.b t.frame)
      match frameRead s c.b t.frame with
        | none => .error (.double (pinBad s c.b.oid false [(fa, 64)]) c.e.mask)
        | some l =>
          let ret := natLE ((l.drop 0x20).take 8)
          if left = 0 ∧ 5 ≤ natLE ((l.drop 0x38).take 4) % 8 then c.illegalOp
          else match pinWrite s c.b.oid (fa + 0x3C) (bytesLE 4 left.toNat) with
            | none => .error (.double (pinBad s c.b.oid true [(fa + 0x3C, 4)]) c.e.mask)
            | some s1 =>
              let s2 := s1.mapWave c.ref.blk c.ref.wave fun w => replaceEntry w c.ref.lane [returnEntry s1 c f act ret, rest]
              match leaveTrap s2 { blk := c.ref.blk, wave := c.ref.wave } c.b.oid act with
              | .error e => .error e
              | .ok s3 => .ok (.placed s3)

/-! ## Service requests (R281, R282) -/

/-- A service number: an integer constant, an s register or a literal half. -/
def serviceOperand (c : Ctx) (o : Operand) : Option Nat :=
  match o with
  | .int n => some n.val
  | .s n => some (c.readS false n).toNat
  | .litLo => some (c.lit % 2 ^ 32)
  | .litHi => some (c.lit / 2 ^ 32)
  | _ => none

/-- Addresses of a slot's header and argument blocks (R281). -/
def svcHeader (s : State) (oid slot : Nat) : Nat := s.sring oid + 256 + 32 * slot
def svcArgs (s : State) (oid slot : Nat) : Nat := s.sarg oid + 2048 * slot

/-- A lane's argument block: `k` registers from `a`, then zeros. -/
def argBlock (c : Ctx) (a k lane : Nat) : List Byte :=
  ((List.range k).flatMap fun i => bytesLE 4 (c.readV (a + i) lane).toNat) ++ List.replicate (64 - 4 * k) 0

/-- The 32 bytes of a request header (Table 13.7), RDONE 0. -/
def svcHeaderBytes (s : State) (c : Ctx) (func r put : Nat) (p : W32) : List Byte :=
  let lrec := match s.launch? c.b.launch with
    | some l => l.recVa
    | none => 0
  bytesLE 32 (c.b.oid * 2 ^ 8 + c.b.die * 2 ^ 22 + r * 2 ^ 24 + c.ref.wave * 2 ^ 27 + c.b.n * 2 ^ 32 + lrec * 2 ^ 64 +
    func % 2 ^ 32 * 2 ^ 128 + p.toNat * 2 ^ 160 + put * 2 ^ 192)

/-- Writes several ranges of a pinned structure in order. -/
def pinWrites (oid : Nat) : List (Nat × List Byte) → State → Option State
  | [], s => some s
  | (va, l) :: t, s =>
    match pinWrite s oid va l with
    | none => none
    | some s1 => pinWrites oid t s1

/-- RDONE of a request's header is held (R363, R325). -/
def headerHeld (s : State) (q : SvcReq) : Bool := pinsHeld s q.oid [(svcHeader s q.oid q.slot + 28, 4)] false

/-- The device holds an outstanding header's line in S, where it can hold it (R284). -/
def holdHeader (s : State) (q : SvcReq) : State :=
  if headerHeld s q then s
  else match rangeKeys s (s.hw q.oid) { rd := true, wr := false, pin := true } (svcHeader s q.oid q.slot + 28) 4 with
  | .ok (k :: _) =>
    if holdable k then
      let h := Holder.ring q.oid q.slot
      let s1 := readShared s (k / 128) h
      { s1 with dir := updWhere (isEnt (k / 128) h) (fun d => { d with st := .shared }) s1.dir }
    else s
  | _ => s

/-- SVC (R282). -/
def execSvc (f : Fields) (s : State) : Host.Outcome State Fault Refusal :=
  issue 0x381 f s fun s c =>
    let act := c.parts f
    let oid := c.b.oid
    match serviceOperand c f.op1, f.op2, intUpTo f.op3 16, intUpTo f.op4 4 with
    | some func, .v a, some k, some r =>
      if k = 0 then c.illegalOp
      else if act = 0 then .ok (.seq s)
      else if 8 * c.w.claim < a.val + k ∨ s.ctxSrlog oid = 0 then c.illegalOp
      else if c.w.svc ≠ [] ∨ pathStuck s c.b.die c.b.core ∨ pinsHeld s oid [(s.sring oid, 4), (s.sring oid + 128, 4)] false then c.wait s
      else match pinRead s oid (s.sring oid) 4, pinRead s oid (s.sring oid + 128) 4 with
        | some pb, some gb =>
          let put := natLE pb
          let size := 2 ^ s.ctxSrlog oid
          let slot := put % size
          if (put + 2 ^ 32 - natLE gb) % 2 ^ 32 = size ∨ s.svcs.any (fun x => x.oid == oid && x.slot == slot) then c.wait s
          else
            let blocks := (lanesOf act).map fun l => (svcArgs s oid slot + 64 * l, argBlock c a k l)
            let out := blocks ++ [(svcHeader s oid slot, svcHeaderBytes s c func r put act)]
            match pinWrites oid out s with
            | none => .error (.double (pinBad s oid true (out.map fun x => (x.1, x.2.length))) c.e.mask)
            | some s1 =>
              match pinWrite (releaseAt s1 c.b 7) oid (s.sring oid) (bytesLE 4 (put + 1)) with
              | none => .error (.double (pinBad s1 oid true [(s.sring oid, 4)]) c.e.mask)
              | some s2 =>
                let q : SvcReq := { oid := oid, slot := slot, launch := c.b.launch, blk := c.ref.blk, wave := c.ref.wave,
                                    lmask := act, nret := r, landed := false, given := 0 }
                let s3 := holdHeader (notify s2 (s.ctxGlade oid + 1) 1) q
                let s4 : State := { s3 with svcs := s3.svcs ++ [q] }
                let park : Entry := { stayEntry c f act with park := 15, opn := false }
                let placed (w : Wave) : Wave :=
                  { replaceEntry w c.ref.lane [stayEntry c f (c.e.mask &&& ~~~act), park] with svc := [slot] }
                .ok (.placed (s4.mapWave c.ref.blk c.ref.wave placed))
        | _, _ => .error (.double (pinBad s oid false [(s.sring oid, 4), (s.sring oid + 128, 4)]) c.e.mask)
    | _, _, _, _ => c.illegalOp

/-! ## Replies (R284) -/

def State.svc? (s : State) (oid slot : Nat) : Option SvcReq := s.svcs.find? fun x => x.oid == oid && x.slot == slot
def isSvc (q x : SvcReq) : Bool := x.oid == q.oid && x.slot == q.slot

/-- The block that asked has ended. -/
def svcOver (s : State) (q : SvcReq) : Bool :=
  match s.phase? q.blk with
  | some p => p.st == .done
  | none => (s.block? q.blk).isNone

/-- A reply lands: a parked block's phase becomes ready; a reply to a block that has ended is discarded. -/
def landReply (s : State) (q : SvcReq) : State :=
  if svcOver s q then { s with svcs := s.svcs.filter fun x => !isSvc q x }
  else
    let s1 : State := { s with svcs := updWhere (isSvc q) (fun x => { x with landed := true }) s.svcs }
    match s1.phase? q.blk with
    | some p => if p.st = .parked then readyPhase s1 q.blk else s1
    | none => s1

/-- Whether RDONE of a request's header is set; `none` where the pinned header cannot be read. -/
def rdone (s : State) (q : SvcReq) : Option Bool :=
  (pinRead s q.oid (svcHeader s q.oid q.slot + 28) 4).map fun l => natLE l != 0

/-- A double fault that a request's pinned structures cause: of its block where it is on a core, of its phase where it is not. -/
def requestDouble (s : State) (q : SvcReq) (va : Nat) : State :=
  match s.block? q.blk, s.phase? q.blk, s.launch? q.launch with
  | some b, _, _ => blockDouble s b va
  | none, some p, some l => phaseDouble s l p l.die va
  | _, _, _ => doubleFault s q.oid 0 va

/-- The device looks at a request's RDONE, once it is not held: a reply lands, a header without one is held again, and a header that is
not readable is a double fault (R293). -/
def lookReply (s : State) (q : SvcReq) : State :=
  if headerHeld s q then s
  else match rdone s q with
  | some true => landReply s q
  | some false => holdHeader s q
  | none => if svcOver s q then s else requestDouble s q (pinBad s q.oid false [(svcHeader s q.oid q.slot + 28, 4)])

/-- After a host write: the replies whose RDONE it has set land. -/
def landReplies (s : State) : State := (s.svcs.filter fun q => !q.landed).foldl lookReply s

/-- Headers that the device no longer holds, or does not hold yet, are looked at (R284). -/
def settleReplies (s : State) : State :=
  (s.svcs.filter fun q => !q.landed && !(s.dir.any fun d => d.holder == .ring q.oid q.slot)).foldl lookReply s

/-- SVC_REPLY_LAND: the host writes return words into the slot's argument blocks and then RDONE, once no command owns what it writes (R363). -/
def execSvcReplyLand (oid slot : Nat) (bytes : List Byte) (s : State) : Host.Outcome State Fault Refusal :=
  match s.svc? oid slot with
  | none => .next s
  | some q =>
    if q.landed || pinsHeld s oid [(svcArgs s oid slot, (bytes.take 2048).length), (svcHeader s oid slot + 28, 4)] true then .next s
    else match pinWrites oid [(svcArgs s oid slot, bytes.take 2048), (svcHeader s oid slot + 28, bytesLE 4 1)] s with
      | none => .next (requestDouble s q (pinBad s oid true [(svcArgs s oid slot, bytes.length), (svcHeader s oid slot + 28, 4)]))
      | some s1 => .next (landReply s1 q)

/-- Element `i` of a reply: return word i of each lane of LMASK. -/
def replyElement (l : List Byte) (q : SvcReq) (i : Nat) : Masked :=
  { mask := q.lmask,
    vals := lanes32.map fun n => if q.lmask.getLsbD n then BitVec.ofNat 32 (natLE ((l.drop (64 * n + 4 * i)).take 4)) else 0 }

/-- The clause and the index of the SVC whose reply a wave awaits. -/
def svcAt (v : Wave) : Nat × Nat :=
  match v.frontier.find? fun e => e.park == 15 with
  | some e => (16 * e.hdr.toNat, e.idx - 1)
  | none => (0, 0)

/-- SVC_REPLY_DELIVER: the reply's elements go to e7 while it has room; after the last one the wave's lanes in state 15 become
runnable. -/
def execSvcReplyDeliver (w : WRef) (s : State) : Host.Outcome State Fault Refusal :=
  match s.wave? w with
  | none => .next s
  | some (b, v) =>
    match s.svcs.find? fun x => x.landed && x.blk == w.blk && x.wave == w.wave && b.halt != .halted with
    | none => .next s
    | some q =>
      let n := min (q.nret - q.given) (8 - v.e7.length)
      if (n = 0 ∧ q.given < q.nret) ∨ pinsHeld s q.oid [(svcArgs s q.oid q.slot, 2048)] false then .next s
      else match pinRead s q.oid (svcArgs s q.oid q.slot) 2048 with
        | none =>
          let (caddr, index) := svcAt v
          .next (doubleAt s (blockRecord s b (some v) 14 0 (pinBad s q.oid false [(svcArgs s q.oid q.slot, 2048)]) caddr index q.lmask true))
        | some l =>
          let es := (List.range n).map fun i => replyElement l q (q.given + i)
          let s1 := s.mapWave w.blk w.wave fun v => { v with e7 := v.e7 ++ es }
          if q.given + n < q.nret then
            .next { s1 with svcs := updWhere (isSvc q) (fun x => { x with given := x.given + n }) s1.svcs }
          else
            let free (e : Entry) : Entry := if e.park = 15 then { e with park := 0, notBefore := max e.notBefore (s.clkOf b.die + 1) } else e
            let s2 := s1.mapWave w.blk w.wave fun v => { v with svc := [], frontier := v.frontier.map free }
            .next (settleAt { s2 with svcs := s2.svcs.filter fun x => !isSvc q x } w)

end Sys2Proof.Machine
end

