-- ==== Sys2Proof/Machine/SaveArea.lean ====
section
/-!
DEFINITION. What a block's memory holds while it is on no core: the wave areas (R146), XSAVE (R300), and the save slot with its
wave extensions (R301); written from a block and read back.
-/
namespace Sys2Proof.Machine

/-! ## Words -/

/-- Word and byte of a list of bytes. -/
def wordAt (l : List Byte) (o : Nat) : Nat := natLE ((l.drop o).take 4)
def byteAt (l : List Byte) (o : Nat) : Nat := natLE ((l.drop o).take 1)

/-- The 32 words of a register, lane 0 first. -/
def laneWords (g : Nat → W32) : List Byte := lanes32.flatMap fun l => bytesLE 4 (g l).toNat

/-- `n` words from `o` as sparse data over zero. -/
def sparseAt (l : List Byte) (o n : Nat) : Sparse W32 :=
  ((List.range n).map fun i => (i, BitVec.ofNat 32 (wordAt l (o + 4 * i)))).filter fun p => p.2 != 0

/-- The 32 words from `o`. -/
def wordsAt (l : List Byte) (o : Nat) : List W32 := lanes32.map fun i => BitVec.ofNat 32 (wordAt l (o + 4 * i))

/-! ## Wave areas (R146) -/

def areaSize (r : Nat) : Nat := 2176 + 1024 * lCb r

def entryBytes (e : Entry) : List Byte :=
  bytesLE 16 (e.hdr.toNat + e.idx % 32 * 2 ^ 60 + e.prio.toNat * 2 ^ 65 + e.mask.toNat * 2 ^ 81 + e.park * 2 ^ 113 +
    e.opn.toNat * 2 ^ 117)

/-- The bytes of a wave area (Table 6.8). -/
def areaBytes (w : Wave) (cb : Nat) : List Byte :=
  ((List.range 128).flatMap fun i => bytesLE 4 (w.getS i).toNat) ++ padTo 0 512 (w.frontier.flatMap entryBytes) ++
  ((List.range 8).flatMap fun i => laneWords fun l => spGet 0 w.lvl (32 * i + l)) ++
  ((List.range 16).flatMap fun i => bytesLE 4 (w.getP i).toNat) ++
  ((List.range 12).flatMap fun i => bytesLE 4 (w.getM i).toNat) ++
  bytesLE 4 w.modeDone.toNat ++ bytesLE 2 w.f.toNat ++ bytesLE 1 w.seqS.toNat ++ bytesLE 1 w.seqE.toNat ++
  bytesLE 1 w.frontier.length ++ bytesLE 1 w.claim ++ List.replicate 6 0 ++
  ((List.range (8 * cb)).flatMap fun i => laneWords (w.getV i))

/-- The frontier of a wave area; no entry is restored open (R302), and one that waited on flags is runnable, since every flag
starts at 0 (R146). Entries that then stand at one position with one park state merge (R11). -/
def frontierOf (l : List Byte) : List Entry :=
  mergeAll <| ((List.range 32).map fun i => natLE ((l.drop (0x200 + 16 * i)).take 16)).filterMap fun x =>
    if bitsOf x 81 32 = 0 then none
    else some { hdr := BitVec.ofNat 60 x, idx := bitsOf x 60 5, prio := BitVec.ofNat 16 (bitsOf x 65 16),
                mask := BitVec.ofNat 32 (bitsOf x 81 32), park := if bitsOf x 113 4 = 14 then 0 else bitsOf x 113 4, opn := false, second := false,
                clause := [], notBefore := 0, hold := .none, done := 0, watch := [] }

/-- A wave in which every register is zero and no lane lives. -/
def Wave.blank (wave half claim : Nat) (role : BitVec 2) : Wave :=
  { wave := wave, half := half, role := role, claim := claim, v := [], s := [], p := [], m := [], lvl := [], f := 0, mode := 0,
    late := [], q := [], pushes := 0, e1 := [], e2 := [], e3 := [], e4 := [], e5 := [], e6 := [], e7 := [], seqS := 0, seqE := 0,
    frontier := [], reserv := none, trap := none, ops := [], flights := [], svc := [], recent := [], ended := false, turn := 0,
    yieldTo := 0, issued := [] }

/-- A wave restored from its area: the claim and the flags are not, and the registers above the carry set are zero. -/
def waveOf (w : Wave) (l : List Byte) (cb : Nat) : Wave :=
  { w with s := sparseAt l 0 128, frontier := frontierOf l, lvl := sparseAt l 0x400 256, p := sparseAt l 0x800 15,
           m := sparseAt l 0x840 12, mode := BitVec.ofNat 32 (wordAt l 0x870), seqS := BitVec.ofNat 8 (byteAt l 0x876),
           seqE := BitVec.ofNat 8 (byteAt l 0x877), v := sparseAt l 0x880 (256 * cb) }

/-! ## Wave extensions (Table 13.13) -/

/-- Elements of 128 B, padded to `n`. -/
def elemBytes (n : Nat) (l : List (List W32)) : List Byte := padTo 0 (128 * n) (l.flatMap fun e => padTo 0 128 (wordsBytes e))

def extBytes (w : Wave) : List Byte :=
  elemBytes 16 (w.q.map fun e => e.vals) ++ padTo 0 64 (w.q.flatMap fun e => bytesLE 4 e.valid.toNat) ++
  padTo 0 64 ([w.e1.length, w.e2.length, w.e3.length, w.e4.length, w.e5.length, w.e6.length, w.e7.length].map
    fun (n : Nat) => BitVec.ofNat 8 n) ++
  padTo 0 256 (wordsBytes w.e3) ++ padTo 0 32 (wordsBytes w.e4) ++
  padTo 0 32 (w.e6.flatMap fun e => bytesLE 4 e.1.toNat ++ bytesLE 4 e.2.toNat) ++
  padTo 0 64 (padTo 0 16 (w.e5.flatMap fun e => bytesLE 4 e.mask.toNat) ++ w.e7.flatMap fun e => bytesLE 4 e.mask.toNat) ++
  elemBytes 4 (w.e5.map fun e => e.vals) ++ elemBytes 16 w.e1 ++ elemBytes 16 w.e2 ++ elemBytes 8 (w.e7.map fun e => e.vals) ++
  ((List.range (8 * w.claim)).flatMap fun i => laneWords (w.getV i))

/-- Bytes of the extension of a wave with a claim. -/
def extSize (claim : Nat) : Nat := 8192 + 1024 * claim

/-- A wave with the contents of its extension. `pushes` and `ops` are what the pool kept of it. -/
def withExt (w : Wave) (l : List Byte) (pushes : Nat) (ops : List LongOp) : Wave :=
  let n (k : Nat) : Nat := byteAt l (0x840 + k - 1)
  let tag (k : Nat) : Nat := pushes - 1 - k
  let el (o k : Nat) : List (List W32) := (List.range k).map fun i => wordsAt l (o + 128 * i)
  let masked (mo o k : Nat) : List Masked :=
    (List.range k).map fun i => { mask := BitVec.ofNat 32 (wordAt l (mo + 4 * i)), vals := wordsAt l (o + 128 * i) }
  let ent (k : Nat) : QEnt :=
    { tag := tag k, valid := BitVec.ofNat 32 (wordAt l (0x800 + 4 * k)), filled := !(ops.any fun o => o.qtags.contains (tag k)), ready := 0,
      vals := wordsAt l (128 * k) }
  { w with
    q := (List.range (min pushes 16)).map ent, pushes := pushes, ops := ops,
    e1 := el 0xC00 (n 1), e2 := el 0x1400 (n 2),
    e3 := (List.range (n 3)).map fun i => BitVec.ofNat 32 (wordAt l (0x880 + 4 * i)),
    e4 := (List.range (n 4)).map fun i => BitVec.ofNat 32 (wordAt l (0x980 + 4 * i)),
    e5 := masked 0x9C0 0xA00 (n 5),
    e6 := (List.range (n 6)).map fun i => (BitVec.ofNat 32 (wordAt l (0x9A0 + 8 * i)), BitVec.ofNat 8 (byteAt l (0x9A4 + 8 * i))),
    e7 := masked 0x9D0 0x1C00 (n 7),
    v := sparseAt l 0x2000 (256 * w.claim) }

/-! ## XSAVE (Table 13.12) -/

def BarKind.code : BarKind → Nat
  | .bar => 1
  | .gbar => 2
  | .phase => 3
  | .regroup => 4

def xsaveOf (b : Block) (savea : Nat) : Nat :=
  let frames := b.waves.foldl (fun a w => match w.trap with
    | some t => a + (t.frame + 1) * 2 ^ (384 + 16 * w.wave)
    | none => a) 0
  let svcw := (maskOf fun i => b.waves.any fun w => w.wave == i && w.frontier.any fun e => e.park == 15).toNat
  let bar := match b.barrier with
    | some br => (maskOf fun i => br.arrived.contains i).toNat * 2 ^ 256 + br.kind.code * 2 ^ 253 + br.addr / 16 % 2 ^ 60 * 2 ^ 193
    | none => 0
  frames + savea * 2 ^ 320 + svcw * 2 ^ 288 + bar

/-- The barrier of an XSAVE; the rest of the barrier unit is what the pool kept. -/
def barrierOf (x : Nat) (k : Option Barrier) : Option Barrier :=
  if bitsOf x 253 3 = 0 then none
  else k.map fun br => { br with addr := 16 * bitsOf x 193 60, arrived := lanesOf (BitVec.ofNat 32 (bitsOf x 256 32)) }

/-- The trap state of a wave: the frame's index from XSAVE, and T from the frame (Table 13.10). -/
def trapFrom (s : State) (oid x wave : Nat) : Option (Option TrapSt) :=
  let t := bitsOf x (384 + 16 * wave) 16
  if t = 0 then some none
  else (pinRead s oid (s.tstack oid + 64 * (t - 1) + 0x3C) 4).map fun l => some { lanes := BitVec.ofNat 32 (natLE l), frame := t - 1 }

/-! ## The save slot (Table 13.11) -/

/-- Spare bundles in stack order, those of the even waves' half first. -/
def spareOrder (b : Block) : List (Sparse W32) := b.spare b.h0 ++ b.spare (1 - b.h0)
def bundleBytes (m : Sparse W32) : List Byte := (List.range 256).flatMap fun i => bytesLE 4 (spGet 0 m i).toNat

def MKind.code : MKind → Nat
  | .mwld => 0
  | .mswap => 1
  | .mrun => 2
  | .minit => 3
  | .mrda => 4
  | .ovf => 5

/-- The kind of a code. -/
def commandKind : Nat → MKind
  | 0 => .mwld
  | 1 => .mswap
  | 2 => .mrun
  | 3 => .minit
  | 4 => .mrda
  | _ => .ovf

/-- The outstanding work that a command completes. -/
def Block.opOf (b : Block) (q : MCmd) : Option LongOp :=
  q.op.bind fun id => b.waves.findSome? fun w => w.ops.find? fun o => o.id == id

/-- The number of the first register that work writes. -/
def LongOp.dest (o : LongOp) : Nat :=
  match o.writes with
  | [] => 0
  | w :: _ => match w.reg with
    | .v n => n
    | .s n => n
    | _ => 0

/-- A queue entry of 160 B; the places of its first fields are the model's own (log entry 10). -/
def queueEntryBytes (b : Block) (q : MCmd) : List Byte :=
  let o := b.opOf q
  padTo 0 32 (bytesLE 1 q.kind.code ++ bytesLE 1 q.wave ++ bytesLE 2 ((o.bind fun o => o.flag).getD 0xFFFF) ++ bytesLE 4 q.row ++
    bytesLE 4 q.mask.toNat ++ bytesLE 4 q.start ++ bytesLE 4 q.count ++ bytesLE 4 ((o.map LongOp.dest).getD 0)) ++ padTo 0 128 q.data

/-- A command as its queue entry has it. -/
def queueEntryOf (l : List Byte) (q : MCmd) : MCmd :=
  { q with acts := [], kind := commandKind (byteAt l 0), wave := byteAt l 1, row := wordAt l 4, mask := BitVec.ofNat 32 (wordAt l 8), start := wordAt l 12,
           count := wordAt l 16, data := (l.drop 32).take q.data.length }

/-- Outstanding work with the flag and the destination of its command's queue entry. -/
def opOfEntry (l : List Byte) (o : LongOp) : LongOp :=
  let flag := byteAt l 2 + 256 * byteAt l 3
  let at0 (x : RegWrite × Nat) : RegWrite := match x.1.reg with
    | .v _ => { x.1 with reg := .v (wordAt l 20 + x.2) }
    | .s _ => { x.1 with reg := .s (wordAt l 20) }
    | _ => x.1
  { o with flag := if flag = 0xFFFF then none else some flag, writes := o.writes.zipIdx.map at0 }

/-- The matrix tenant's 2 KiB. -/
def tenantBytes (b : Block) (t : Tenant) : List Byte :=
  padTo 0 4 (bytesLE 1 t.active.toNat ++ bytesLE 1 (t.p0.loaded.toNat + 2 * t.p1.loaded.toNat) ++ bytesLE 1 t.queue.length) ++
  bytesLE 4 t.ovf.toNat ++ padTo 0 24 (wordsBytes t.ctr) ++ padTo 0 32 t.p0.replay ++ padTo 0 32 t.p1.replay ++
  t.queue.flatMap (queueEntryBytes b)

/-- A copy entry of 128 B. -/
def copyBytes (c : Copy) : List Byte :=
  padTo 0 128 (bytesLE 64 c.record.toNat ++ bytesLE 4 c.row ++ bytesLE 4 c.byte ++ bytesLE 1 c.wave ++ bytesLE 1 c.begun.toNat)

/-- A window's 32 B. -/
def windowBytes (b : Block) (i : Nat) : List Byte :=
  match b.windows.find? fun w => w.win == i with
  | some w => padTo 0 32 (bytesLE 8 w.va ++ bytesLE 4 w.off ++ bytesLE 4 w.len ++ [1])
  | none => List.replicate 32 0

/-- Offsets of the extensions of waves with these claims, in order, and where the spare bundles begin. -/
def extOffsets : List Nat → Nat → List Nat × Nat
  | [], o => ([], o)
  | c :: t, o => let r := extOffsets t (o + extSize c); (o :: r.1, r.2)

/-- A saved block's slot: what is written where. -/
def slotParts (s : State) (b : Block) (ws : List Wave) (copies : List Copy) : List (Nat × List Byte) :=
  let high := match b.mend with
    | some h => h.toNat
    | none => 0
  let head := padTo 0 64 (bytesLE 1 b.ways ++ bytesLE 1 b.mslots ++ bytesLE 2 high ++ bytesLE 2 copies.length ++
    bytesLE 1 (b.spare b.h0).length ++ bytesLE 1 (b.spare (1 - b.h0)).length)
  let (offs, free) := extOffsets (ws.map fun w => w.claim) 0x70000
  let tenant := match b.tenant with
    | none => []
    | some t => [(0x400, padTo 0 2048 (tenantBytes b t)),
                 (0x10000, (List.range (128 * t.slots)).flatMap fun i => laneWords fun l => t.accAt i l)]
  [(0, head), (0x40, (List.range 16).flatMap (windowBytes b))] ++ tenant ++
  [(0x1000, copies.flatMap copyBytes), (0x20000, stashBytes s b 0 b.z)] ++
  (offs.zip ws).map (fun p => (p.1, extBytes p.2)) ++ [(free, (spareOrder b).flatMap bundleBytes)]

end Sys2Proof.Machine
end

