-- ==== Sys2Proof/Machine/Residency.lean ====
section
/-!
DEFINITION. Blocks coming to a core and leaving it: PHASE_DISPATCH (R215, R240, R247, R256, R285, R302), PHASE_END (R144, R217),
BLOCK_PARK (R283), PRECMD, PREEMPT_HALT and PREEMPT_SAVE (R296 to R299), and REGROUP_PERMUTE (R147).
-/
namespace Sys2Proof.Machine

/-! ## Leaving a core -/

/-- The waves with a live lane. -/
def Block.liveWaves (b : Block) : List Wave := b.waves.filter fun w => w.live != 0 && !w.ended

/-- Nothing that the block has issued is outstanding, engine commands included. The release that follows waits besides for stores of the
core that wait for a command (R231, R363). -/
def workDone (s : State) (b : Block) : Bool :=
  (b.waves.all fun w => w.ops.isEmpty && w.flights.isEmpty) && b.queueEmpty && s.copies.all fun c => c.blk != b.uid

/-- What is written of a block: the wave areas and then its header (R144, R145), each with its address. -/
def savedParts (s : State) (l : Launch) (p : Phase) (ws : List Wave) (st : PState) (xs : Nat) : List (Nat × List Byte) :=
  let r := l.record.toNat
  let at0 := l.recordAt p.n
  (ws.map fun w => (at0 + 256 + w.wave * areaSize r, areaBytes w (lCb r))) ++ [(at0, headerBytes s l p st p.reason p.ntile xs)]

/-- A block's parts that could not be written are a double fault. -/
def partsDouble (s : State) (b : Block) (l : List (Nat × List Byte)) : State :=
  blockDouble s b (pinBad s b.oid true (l.map fun x => (x.1, x.2.length)))

/-- WLIVE of a set of waves. -/
def liveBits (ws : List Wave) : W32 := maskOf fun i => ws.any fun w => w.wave == i

/-- The blocks that end a phase together: the block, or the members of its gang that have a thread left (R217). -/
def phaseMates (s : State) (blk : Nat) : List Nat :=
  match gangOf s blk with
  | none => [blk]
  | some g => g.members.filter fun m => !gone s g m

/-- The gang's barrier is over, and takes its next first arrival. -/
def gangOpen (s : State) (blk : Nat) : State :=
  match gangOf s blk with
  | none => s
  | some g => { s with gangs := updWhere (fun x => x.uid == g.uid) (fun x => { x with kind := none, addr := 0, arrived := [] }) s.gangs }

/-- The single entry of a wave after a PHASE: the header after its clause (R146). -/
def afterPhase (s : State) (b : Block) (w : Wave) : Wave :=
  { w with f := 0, frontier := (w.frontier.take 1).map fun e => entryAt s b e.nextHdr w.live 0 }

/-- The barrier of a block whose phase can end now: every wave stands at its PHASE, and its work is done (R144). -/
def phaseBarrier (s : State) (blk : Nat) : Option Barrier :=
  match s.block? blk with
  | none => none
  | some b => b.barrier.filter fun br =>
      br.kind == .phase && br.full && b.halt != .halted && workDone s b && !pathStuck s b.die b.core &&
        (s.phase? blk).isSome && (s.launch? b.launch).isSome

/-- The steps of R144 for one block: its record is written, and it leaves its core. -/
def leavePhase (s : State) (blk : Nat) : State :=
  match s.block? blk, s.phase? blk with
  | some b, some p =>
    match b.barrier, s.launch? b.launch with
    | some br, some l =>
      let ws := b.liveWaves.map (afterPhase s b)
      let p1 : Phase := { p with reason := 0, ntile := br.tmpl, phno := p.phno + 1, wlive := liveBits ws, fresh := false,
                                 kept := Kept.empty }
      let parts := savedParts s l p1 ws .running 0
      match pinWrites b.oid parts (releaseAt s b 5) with
      | none => partsDouble s b parts
      | some s1 => (leaveCore s1 blk false).mapPhase blk fun x => { p1 with st := x.st }
    | _, _ => s
  | _, _ => s

/-- A block's next phase enters the pool, ready or gated. -/
def enterPool (s : State) (blk : Nat) : State :=
  match s.phase? blk with
  | none => s
  | some p => match s.launch? p.launch with
    | none => s
    | some l => gatePhase s l p

/-- PHASE_END (R144): of a block, or of every member of a gang at once, whose next phases enter the pool together (R217). -/
def execPhaseEnd (blk : Nat) (s : State) : Host.Outcome State Fault Refusal :=
  let mates := phaseMates s blk
  if mates.contains blk && mates.all fun m => (phaseBarrier s m).isSome then
    .next (mates.foldl enterPool (gangOpen (mates.foldl leavePhase s) blk))
  else .next s

/-- An entry as a wave area records it at a save: a WAITA goes back to its instruction, open; the clause's end is the next header,
except for an entry that stays parked (R117, R283, Table 13.10). -/
def savedEntry (s : State) (b : Block) (e : Entry) : Entry :=
  let e1 : Entry := if e.park = 13 then { e with idx := e.idx - 1, park := 0, opn := true } else e
  if e1.park ≠ 0 then e1 else closeEntry s b { e1 with hold := .none }

def savedWave (s : State) (b : Block) (w : Wave) : Wave := { w with frontier := w.frontier.map (savedEntry s b) }

/-- The trap frames that a block's waves hold, by wave. -/
def framesOf (b : Block) : List (Nat × TrapSt) := b.waves.filterMap fun w => w.trap.map fun t => (w.wave, t)

/-- Word 0x3C of each trap frame receives T (R299). -/
def trapParts (s : State) (b : Block) : List (Nat × List Byte) :=
  (framesOf b).map fun t => (s.tstack b.oid + 64 * t.2.frame + 0x3C, bytesLE 4 t.2.lanes.toNat)

/-- No queue register e1 to e7 holds an element or a partial record (R283). -/
def Wave.queuesEmpty (w : Wave) : Bool :=
  w.e1.isEmpty && w.e2.isEmpty && w.e3.isEmpty && w.e4.isEmpty && w.e5.isEmpty && w.e6.isEmpty && w.e7.isEmpty

/-- A reply that has landed waits to be delivered to the block (R284). -/
def replyLanded (s : State) (blk : Nat) : Bool := s.svcs.any fun x => x.blk == blk && x.landed

/-- A reply is being pushed to an e7 of the block: some of its elements have gone there, and not the last (R283). -/
def pushing (s : State) (blk : Nat) : Bool := s.svcs.any fun x => x.blk == blk && decide (0 < x.given) && decide (x.given < x.nret)

/-- BLOCK_PARK (R283). -/
def execBlockPark (blk : Nat) (s : State) : Host.Outcome State Fault Refusal :=
  match s.block? blk, s.phase? blk with
  | some b, some p =>
    match s.launch? b.launch with
    | none => .next s
    | some l =>
      let es := b.waves.flatMap fun w => w.frontier
      if (es.all fun e => e.park != 0 || e.hold == .barrier) ∧ (es.any fun e => e.park == 15) ∧ b.halt ≠ .halted ∧
          workDone s b ∧ !pathStuck s b.die b.core ∧ (b.waves.all fun w => w.queuesEmpty) ∧ !pushing s blk then
        let ws := b.liveWaves.map (savedWave s b)
        let kept : Kept := { Kept.empty with frames := (framesOf b).map fun t => t.2.frame, barrier := b.barrier }
        let p1 : Phase := { p with reason := 2, wlive := liveBits ws, fresh := false, kept := kept }
        let parts := trapParts s b ++ savedParts s l p1 ws .running (xsaveOf b 0)
        match pinWrites b.oid parts (releaseAt s b 5) with
        | none => .next (partsDouble s b parts)
        | some s1 =>
          let s2 := setPhase ((leaveCore s1 blk false).mapPhase blk fun x => { p1 with st := x.st }) blk .parked
          .next (if replyLanded s2 blk then readyPhase s2 blk else s2)
      else .next s
  | _, _ => .next s

/-! ## Pre-emption -/

def precmdOff : Nat := 0xB0020

/-- A write of PRECMD (R296, Table 13.14). Where GO is ignored the other fields are taken: log entry 52. -/
def writePrecmd (s : State) (v : W64) : State :=
  let x := v.toNat
  let old := (s.reg precmdOff).toNat
  let fields := x / 2 ^ 34 * 2 ^ 34
  if bitAt x 0 = 0 ∨ bitAt old 1 = 1 then s.setReg precmdOff (BitVec.ofNat 64 (fields + bitsOf old 1 2 * 2))
  else
    let core := bitsOf x 56 8
    let dmask := bitsOf x 52 4
    let sel := bitsOf x 34 2
    let one := [1, 2, 4, 8].contains dmask
    if sel = 3 ∨ (sel = 2 ∧ (!one ∨ 191 < core)) ∨ dmask = 0 then s.setReg precmdOff (BitVec.ofNat 64 (fields + 4))
    else
      let hit (b : Block) : Bool := bitAt dmask b.die == 1 && match sel with
        | 0 => b.oid == bitsOf x 40 12
        | 1 => b.glade == bitsOf x 36 4
        | _ => b.core == core
      let picked := s.blocks.filter fun b => hit b && s.rstep b.glade == 0
      let able := (picked.filter fun b => canSave s b.oid).map fun b => b.uid
      let err := decide (able.length < picked.length)
      let s1 := able.foldl askPreempt s
      { s1.setReg precmdOff (BitVec.ofNat 64 (fields + err.toNat * 4 + (!able.isEmpty).toNat * 2)) with preempting := able }

/-- PRECMD (R296); it passes over the blocks of a glade in reset (R386). -/
def execPrecmd (v : W64) (s : State) : Host.Outcome State Fault Refusal := .next (writePrecmd s v)

/-- BUSY clears when no selected block is still on a core (R296). -/
def settlePrecmd (s : State) : State :=
  if s.preempting.isEmpty then s
  else
    let left := s.preempting.filter fun u => (s.block? u).isSome
    if left.isEmpty then { s.setRegBits precmdOff 1 1 0 with preempting := [] } else { s with preempting := left }

/-- The block's pending requests are abandoned; each of their instructions issues again on resume (R135, R149). -/
def abandonRequests (s : State) (blk : Nat) : State :=
  let back (e : Entry) : Entry := if e.hold = .request then { e with hold := .none } else e
  { s.mapBlock blk fun b => { b with waves := b.waves.map fun w => { w with frontier := w.frontier.map back } } with
    requests := s.requests.filter fun r => r.blk != blk }

/-- PREEMPT_HALT (R297): the block issues nothing more. -/
def execPreemptHalt (blk : Nat) (s : State) : Host.Outcome State Fault Refusal :=
  match s.block? blk with
  | none => .next s
  | some b => if b.halt = .asked then .next ((abandonRequests s blk).mapBlock blk fun b => { b with halt := .halted }) else .next s

/-- What must complete before the save has completed (Table 13.10): all but matrix and copy commands. -/
def readyToSave (b : Block) : Bool :=
  let queued : List Nat := match b.tenant with
    | none => []
    | some t => t.queue.filterMap fun q => q.op
  b.halt == .halted && !b.slotsHeld && b.waves.all fun w => w.flights.isEmpty && w.ops.all fun o => queued.contains o.id

/-- A free save slot of an owner. -/
def freeSave? (s : State) (oid : Nat) : Option Nat :=
  (List.range (2 ^ s.ctxSvlog oid)).find? fun i => !s.saveSlots.contains (oid, i)

/-- What the pool keeps of a pre-empted block. -/
def keptOf (b : Block) (ws : List Wave) (copies : List Copy) (slot : Nat) : Kept :=
  { ways := b.ways, slots := b.mslots, spareE := (b.spare b.h0).length, spareO := (b.spare (1 - b.h0)).length,
    claims := ws.map fun w => (w.wave, w.claim), frames := (framesOf b).map fun t => t.2.frame, slot := some slot,
    tenant := b.tenant, copies := copies, ops := ws.map fun w => (w.wave, w.ops), pushes := ws.map fun w => (w.wave, w.pushes),
    barrier := b.barrier, windows := b.windows.map fun w => (w.win, w.owner, w.shown, w.filled),
    moved := ws.flatMap fun w => w.frontier.filterMap fun e =>
      if e.done = 0 then none else (lanesOf e.mask).head?.map fun l => (w.wave, l, e.done) }

/-- PREEMPT_SAVE (R298 to R301): the block is written to a free slot and to its record, and leaves its core. -/
def execPreemptSave (blk : Nat) (s : State) : Host.Outcome State Fault Refusal :=
  match s.block? blk, s.phase? blk with
  | some b, some p =>
    match s.launch? b.launch, freeSave? s b.oid with
    | some l, some i =>
      if readyToSave b && canSave s b.oid && !pathStuck s b.die b.core then
        let savea := s.svbase b.oid + 2 ^ 20 * i
        let ws := b.liveWaves.map (savedWave s b)
        let copies := (s.copies.filter fun c => c.blk == blk).map fun c => { c with pf := none }
        let p1 : Phase := { p with reason := 1, wlive := liveBits ws, fresh := false, kept := keptOf b ws copies i }
        let s0 := releaseAt s b 5
        let parts := ((slotParts s0 b ws copies).map fun q => (savea + q.1, q.2)) ++ trapParts s b ++
          savedParts s l p1 ws .ready (xsaveOf b savea)
        match pinWrites b.oid parts s0 with
        | none => .next (partsDouble s b parts)
        | some s1 =>
          let gone := (copies.map fun (c : Copy) => PfWho.copy c.id)
          let s2 : State := { leaveCore s1 blk false with copies := s1.copies.filter fun c => c.blk != blk,
                                                          saveSlots := s1.saveSlots ++ [(b.oid, i)],
                                                          pfs := (leaveCore s1 blk false).pfs.filter fun f => !gone.contains f.who }
          .next (readyPhase (s2.mapPhase blk fun x => { p1 with st := x.st }) blk)
      else .next s
    | _, _ => .next s
  | _, _ => .next s

/-! ## Coming to a core -/

/-- One consumer is counted on each key whose entry holds the expected generation (R256). -/
def consume (s : State) (l : Launch) (p : Phase) : State :=
  let take (s : State) (k : Nat) : State :=
    match s.blaze? l.oid k with
    | none => s
    | some b =>
      if b.gen ≠ l.gen ∨ b.persistent then s
      else if b.count.toNat ≤ 1 then { s with blazes := s.blazes.filter fun x => !isBlaze l.oid k x }
      else { s with blazes := updWhere (isBlaze l.oid k) (fun x => { x with count := x.count - 1 }) s.blazes }
  (gateKeys s l p).foldl take s

/-- Units of .die-bound levels are taken by the die that dispatches the first of their blocks (R237). -/
def noteUnits (s : State) (l : Launch) (p : Phase) (die : Nat) : State :=
  let us := dieUnits l.record.toNat p.n ((gangPlace s p).map fun g => g.1)
  s.mapLaunch l.uid fun l => { l with units := l.units ++
    (us.filter fun u => l.units.all fun t => t.1 != u.1 || t.2.1 != u.2).map fun u => (u.1, u.2, die) }

/-- A wave at the start of a block's first phase (R215, R240). -/
def startWave (s : State) (l : Launch) (p : Phase) (b : Block) (w : Nat) : Wave :=
  let r := l.record.toNat
  let place := gangPlace s p
  let lvl (i : Nat) : W32 :=
    BitVec.ofNat 32 (if i < 32 then i else if i < 64 then w else blockLvl r p.n place (i / 32))
  let w0 := Wave.blank w ((b.h0 + w) % 2) (lRb r) (BitVec.ofNat 2 (lRole r w))
  let w1 := ((List.range 16).zip l.param).foldl (fun (w : Wave) x => w.setS x.1 x.2) w0
  let size : Nat := match p.gang with
    | some g => match s.gang? g with
      | some x => x.members.length
      | none => 0
    | none => 0
  let w2 := match place with
    | some (_, rank) => (w1.setS 126 (BitVec.ofNat 32 p.n)).setS 127 (BitVec.ofNat 32 (size + rank * 2 ^ 16))
    | none => w1
  { w2 with lvl := ((List.range 256).map fun i => (i, lvl i)).filter fun q => q.2 != 0,
            mode := if l.interlocked then 0x10000 else 0,
            frontier := [entryAt s b (BitVec.ofNat 60 (lEntry r / 16)) 0xFFFFFFFF (s.clkOf b.die)] }

/-- A block on a core with no wave yet. -/
def bareBlock (s : State) (l : Launch) (p : Phase) (die core : Nat) : Block :=
  let bs := onCore s die core
  { uid := p.uid, launch := l.uid, n := p.n, oid := l.oid, glade := l.glade, gen := l.gen, pcls := l.pcls, die := die,
    core := core, h0 := startHalf bs, waves := [], ways := 0, stash := [], windows := [], spare0 := [], spare1 := [],
    mslots := 0, mend := slotEnd bs l.record.toNat, tenant := none, barrier := none, halt := .running, since := s.uids }

/-- Held at the restored barrier: the entries of the waves that had arrived. -/
def heldAt (br : Option Barrier) (w : Wave) : Wave :=
  if br.any fun x => x.arrived.contains w.wave then { w with frontier := w.frontier.map fun e => { e with hold := .barrier } } else w

/-- The slots of a wave's calls whose replies have not been delivered (R282, R285). -/
def svcOf (s : State) (blk wave : Nat) : List Nat :=
  (s.svcs.filter fun x => x.blk == blk && x.wave == wave).map fun x => x.slot

/-- The restored waves of a record: areas whole, with the trap and barrier state of XSAVE (R146, R285, R302). -/
def savedWaves (s : State) (l : Launch) (p : Phase) (b : Block) (rec : List Byte) (x : Nat) : Option (List Wave) :=
  let r := l.record.toNat
  p.waves.foldl (fun acc w =>
    match acc, trapFrom s l.oid x w with
    | some ws, some t =>
      let claim := ((p.kept.claims.find? fun c => c.1 == w).map fun c => c.2).getD (lRb r)
      let w0 := waveOf (Wave.blank w ((b.h0 + w) % 2) claim (BitVec.ofNat 2 (lRole r w))) (rec.drop (256 + w * areaSize r)) (lCb r)
      some (ws ++ [heldAt (barrierOf x p.kept.barrier) { w0 with trap := t, svc := svcOf s b.uid w }])
    | _, _ => none) (some [])

/-- A phase's block built after a PHASE or an SVC park. -/
def resumed (s : State) (l : Launch) (p : Phase) (b : Block) : Option State :=
  let r := l.record.toNat
  match pinRead s l.oid (l.recordAt p.n) (256 + lNw r * areaSize r) with
  | none => none
  | some rec =>
    let x := if p.reason = 0 then 0 else natLE (rec.take 112)
    (savedWaves s l p b rec x).map fun ws =>
      { s with blocks := s.blocks ++ [{ b with waves := ws, barrier := barrierOf x p.kept.barrier }] }

/-- The windows of a save slot, translated again (R302 step 2); an error names the fault and its page. -/
def savedWindows (s : State) (b : Block) (kept : List (Nat × Nat × Bool × List Nat)) (l : List Byte) : Except (AccFault × Nat) (List Window) :=
  (List.range 16).foldl (fun acc i =>
    let e := l.drop (32 * i)
    let va := natLE (e.take 8)
    let n := wordAt e 12
    match acc with
    | .error x => .error x
    | .ok ws =>
      if byteAt e 16 = 0 then .ok ws
      else match windowLeaves s b.who va n with
        | .error x => .error x
        | .ok leaves =>
          let (owner, shown, filled) := ((kept.find? fun k => k.1 == i).map fun k => k.2).getD (0, false, [])
          .ok (ws ++ [{ win := i, off := wordAt e 8, len := n, va := va, leaves := leaves, filled := filled, owner := owner,
                        shown := shown, op := 0 }])) (.ok [])

/-- A plane loaded again by its replay header; one whose stash bytes have changed since is lost (R189, R209). -/
def replayPlane (s : State) (b : Block) (loaded : Bool) (data : List Byte) (nrw : Nat) (old : Plane) : Plane :=
  if !loaded then Plane.empty
  else
    let p := loadPlane s b data nrw false
    if old.torn || p.rows != old.rows || p.metas != old.metas || p.scales != old.scales then { p with rows := [], torn := true } else p

/-- The queue entry `i` of a tenant's area. -/
def entryArea (l : List Byte) (i : Nat) : List Byte := (l.drop (0x60 + 160 * i)).take 160

/-- The tenant of a save slot (R302 step 3): its area and its accumulator rows. That a tenant which MTEN had quiesced stays so over a
pre-emption, R209 does not say: the pool keeps it, log entry 52. -/
def savedTenant (s : State) (b : Block) (l acc : List Byte) (t : Tenant) : Tenant :=
  let loaded := byteAt l 1
  let cmd (x : MCmd × Nat) : MCmd := queueEntryOf (entryArea l x.2) x.1
  { t with
    high := b.mend.getD false,
    active := byteAt l 0 == 1, ovf := BitVec.ofNat 32 (wordAt l 4),
    ctr := (List.range 5).map fun i => BitVec.ofNat 32 (wordAt l (8 + 4 * i)),
    p0 := replayPlane s b (bitAt loaded 0 == 1) ((l.drop 0x20).take 32) (8 * t.slots) t.p0,
    p1 := replayPlane s b (bitAt loaded 1 == 1) ((l.drop 0x40).take 32) (8 * t.slots) t.p1,
    acc := sparseAt acc 0 (32 * (128 * t.slots)),
    queue := (t.queue.zipIdx).map cmd }

/-- A copy entry of a save slot (R225). -/
def savedCopy (l : List Byte) (c : Copy) : Copy :=
  { c with record := BitVec.ofNat 512 (natLE (l.take 64)), row := wordAt l 64, byte := wordAt l 68, wave := byteAt l 72,
           begun := byteAt l 73 == 1 }

/-- The outstanding work of a saved block: that of a queued command with its queue entry's flag and destination. -/
def savedOps (k : Kept) (l : List Byte) (ops : List LongOp) : List LongOp :=
  let queue := match k.tenant with
    | some t => t.queue.zipIdx
    | none => []
  ops.map fun o => match queue.find? fun q => q.1.op == some o.id with
    | some q => { opOfEntry (entryArea l q.2) o with due := 0 }
    | none => { o with due := 0 }

/-- The elements that a restored entry has moved (R203). -/
def withMoved (k : Kept) (w : Wave) : Wave :=
  let n (e : Entry) : Nat := ((k.moved.find? fun x => x.1 == w.wave && e.has x.2.1).map fun x => x.2.2).getD 0
  { w with frontier := w.frontier.map fun e => { e with done := n e } }

/-- Resumed commands are numbered anew, in their order: their resume is their issue point (R364). -/
def renumber (base : Nat) (ids : List Nat) (id : Nat) : Nat := base + (ids.filter fun i => i < id).length

/-- A resumed block's commands take ownership again (R364), and the weights of its planes are read again (R209). -/
def retakeLines (s : State) (b : Block) (ids : List Nat) : Except (Nat × Nat) State :=
  let plane (p : Plane) : List (Nat × Nat) := if p.loaded then planeSources p else []
  let rs := match b.tenant with
    | some t => plane t.p0 ++ plane t.p1
    | none => []
  match fillRanges s { b with windows := b.windows.map fun w => { w with shown := true } } 0 false rs with
  | .error e => .error e
  | .ok s1 => .ok (ids.foldl (fun s id => takeLines s b id) s1)

/-- How the return of a pre-empted block goes: it is on the core, a window's page is missing or refused, or a pinned structure
cannot be read. -/
inductive Return where
  | ok (s : State)
  | window (e : AccFault) (va : Nat)
  | double (va : Nat)
  deriving DecidableEq, Repr

/-- The trap frames that a phase keeps, as ranges. -/
def framesAt (s : State) (l : Launch) (p : Phase) : List (Nat × Nat) := p.kept.frames.map fun i => (s.tstack l.oid + 64 * i, 64)

/-- A pre-empted block read back from its record and its slot (R302). -/
def unsaved (s : State) (l : Launch) (p : Phase) (b : Block) (slot : Nat) : Return :=
  let r := l.record.toNat
  let base := s.svbase l.oid + 2 ^ 20 * slot
  let (offs, free) := extOffsets (p.kept.claims.map fun c => c.2) 0x70000
  let parts : List (Nat × Nat) := [(l.recordAt p.n, 256 + lNw r * areaSize r), (base, 0x1000),
    (base + 0x1000, 128 * p.kept.copies.length), (base + 0x10000, 128 * (128 * p.kept.slots)),
    (base + 0x20000, 32768 * p.kept.ways), (base + 0x70000, free - 0x70000 + 1024 * (p.kept.spareE + p.kept.spareO))]
  match parts.map fun q => pinRead s l.oid q.1 q.2 with
  | [some rec, some head, some cps, some acc, some stash, some exts] =>
    let x := natLE (rec.take 112)
    match savedWindows s b p.kept.windows ((head.drop 0x40).take 512) with
    | .error (e, va) => .window e va
    | .ok wins =>
      match savedWaves s l p b rec x with
      | none => .double (pinBad s l.oid false (framesAt s l p))
      | some ws =>
        let ext (w : Wave) : Wave :=
          let o := (((p.kept.claims.zip offs).find? fun q => q.1.1 == w.wave).map fun q => q.2).getD 0x70000
          let ops := ((p.kept.ops.find? fun q => q.1 == w.wave).map fun q => q.2).getD []
          let pushes := ((p.kept.pushes.find? fun q => q.1 == w.wave).map fun q => q.2).getD 0
          withMoved p.kept (withExt w (exts.drop (o - 0x70000)) pushes (savedOps p.kept (head.drop 0x400) ops))
        let bundle (i : Nat) : Sparse W32 := sparseAt exts (free - 0x70000 + 1024 * i) 256
        let even := (List.range p.kept.spareE).map bundle
        let odd := (List.range p.kept.spareO).map fun i => bundle (p.kept.spareE + i)
        let b1 : Block :=
          { b with waves := ws.map ext, ways := p.kept.ways, windows := wins, mslots := p.kept.slots,
                   stash := ((List.range stash.length).zip stash).filter fun q => q.2 != 0,
                   spare0 := if b.h0 = 0 then even else odd, spare1 := if b.h0 = 0 then odd else even,
                   barrier := barrierOf x p.kept.barrier }
        let inWin (q : Nat × Byte) : Bool := wins.any fun w => w.off ≤ q.1 && q.1 < w.off + w.len
        let b2 : Block := { b1 with stash := b1.stash.filter fun q => !inWin q }
        let old := (match p.kept.tenant with
          | some t => t.queue.map fun q => q.id
          | none => []) ++ p.kept.copies.map fun c => c.id
        let id := renumber s.uids old
        let anew (t : Tenant) : Tenant := { t with queue := t.queue.map fun q => { q with id := id q.id } }
        let b3 : Block := { b2 with tenant := p.kept.tenant.map fun t => anew (savedTenant s b2 (head.drop 0x400) acc t) }
        let s1 : State := { s with
          blocks := s.blocks ++ [b3], uids := s.uids + old.length,
          copies := s.copies ++ (p.kept.copies.zipIdx).map fun q => { savedCopy (cps.drop (128 * q.2)) q.1 with id := id q.1.id },
          saveSlots := freeSlot s.saveSlots l.oid slot }
        match retakeLines s1 b3 ((List.range old.length).map fun i => s.uids + i) with
        | .error (off, d) => .window (.prot d) off
        | .ok s2 => .ok s2
  | _ => .double (pinBad s l.oid false parts)

/-- One phase of a dispatch goes to its core. -/
def seatPhase (l : Launch) (die : Nat) (s : State) (x : Nat × Nat) : State :=
  match s.phase? x.1 with
  | none => s
  | some p =>
    let s1 := noteUnits (if p.reason = 0 then consume s l p else s) l p die
    let (_, s2) := s1.fresh
    let b := bareBlock s2 l p die x.2
    let back : Return :=
      if p.fresh then .ok { s2 with blocks := s2.blocks ++ [{ b with waves := p.waves.map (startWave s2 l p b) }] }
      else match p.kept.slot with
        | some i => unsaved s2 l p b i
        | none => match resumed s2 l p b with
          | some s3 => .ok s3
          | none => .double (pinBad s2 l.oid false ((l.recordAt p.n, 256 + lNw l.record.toNat * areaSize l.record.toNat) :: framesAt s2 l p))
    match back with
    | .ok s3 =>
      let s4 := s3.mapPhase p.uid fun p => { p with fresh := false, kept := Kept.empty, waitedSince := none }
      setPhase (chargePass s4 die l.oid) p.uid .dispatched
    | .window .page va => postPage s l.oid va (.phase p.uid)
    | .window e va => phaseFault s l p e.cls e.detail va
    | .double va => phaseDouble s l p die va

/-- The phases of a dispatch whose windows cannot be translated now (R302 step 2): they are handled before any goes to a core. -/
def windowTrouble (s : State) (l : Launch) (die : Nat) (x : Nat × Nat) : Bool :=
  match s.phase? x.1 with
  | none => false
  | some p => match p.kept.slot with
    | none => false
    | some i => match unsaved s l p (bareBlock s l p die x.2) i with
      | .window _ _ => true
      | _ => false

/-- A phase of a dispatch with REASON 0 and a key whose entry holds a newer generation ends instead (Table 11.6, R256). -/
def staleNow (s : State) (l : Launch) (x : Nat × Nat) : Option State :=
  match s.phase? x.1 with
  | none => none
  | some p =>
    if p.reason ≠ 0 then none
    else match gateOf s l p with
      | .stale k g => some (stalePhase s l p k g)
      | _ => none

/-- What a phase is read back from is held by a command (R363): its record, its trap frames, and its save slot. -/
def returnHeld (s : State) (l : Launch) (x : Nat × Nat) : Bool :=
  anyHeld s && match s.phase? x.1 with
    | none => false
    | some p =>
      let slot : List (Nat × Nat) := match p.kept.slot with
        | some i => [(s.svbase l.oid + 2 ^ 20 * i, 2 ^ 20)]
        | none => []
      !p.fresh && pinsHeld s l.oid ((l.recordAt p.n, 256 + lNw l.record.toNat * areaSize l.record.toNat) :: framesAt s l p ++ slot) false

/-- PHASE_DISPATCH (R247): the die's distributor gives a core the phase it chooses, with its gang. -/
def execPhaseDispatch (die core : Nat) (s : State) : Host.Outcome State Fault Refusal :=
  if 4 ≤ die ∨ 192 ≤ core ∨ s.regBits 0x10000 2 1 = 1 then .next s
  else match chosen s die with
    | none => .next s
    | some c =>
      match seating s c.l c.p die core with
      | none => .next s
      | some seats =>
        if seats.any (returnHeld s c.l) then .next s
        else match seats.findSome? (staleNow s c.l), seats.find? (windowTrouble s c.l die) with
        | some s1, _ => .next s1
        | none, some x => .next (seatPhase c.l die s x)
        | none, none => .next (seats.foldl (seatPhase c.l die) s)

/-! ## REGROUP (R147) -/

/-- The place of a lane context, with its key. -/
structure Context where
  wave : Nat
  lane : Nat
  key  : Nat
  deriving DecidableEq, Repr

/-- Puts a context before the first one whose key is not lower: inserting from the right keeps equal keys in order. -/
def insertContext (x : Context) : List Context → List Context
  | [] => [x]
  | y :: t => if x.key ≤ y.key then x :: y :: t else y :: insertContext x t

def sortContexts : List Context → List Context
  | [] => []
  | x :: t => insertContext x (sortContexts t)

/-- The key of a lane: bits 15:0 of the key register. -/
def regroupKey (w : Wave) (key : Operand) (lane : Nat) : Nat :=
  (match key with
    | .v n => (w.getV n lane).toNat
    | .q k => match w.q[k.val]? with
      | some e => ((e.vals[lane]?).getD 0).toNat
      | none => 0
    | _ => 0) % 65536

/-- A participating wave after the permutation: lane i holds the context `src i`, if any. -/
def regrouped (b : Block) (w : Wave) (src : Nat → Option Context) : Wave :=
  let from0 {α : Type} (i : Nat) (own : α) (g : Wave → Nat → α) : α := match src i with
    | none => own
    | some x => match b.wave? x.wave with
      | some y => g y x.lane
      | none => own
  let live := maskOf fun i => (src i).isSome
  let words (n : Nat) (get : Wave → Nat → Nat → W32) : Sparse W32 :=
    ((List.range n).map fun k => (k, from0 (k % 32) (get w (k / 32) (k % 32)) fun y l => get y (k / 32) l)).filter fun q => q.2 != 0
  let pred (n : Nat) : W32 := maskOf fun i => from0 i ((w.getP n).getLsbD i) fun y l => (y.getP n).getLsbD l
  { w with
    v := words (256 * w.claim) (fun y n l => y.getV n l),
    lvl := words 256 (fun y n l => spGet 0 y.lvl (32 * n + l)),
    p := ((List.range 15).map fun n => (n, pred n)).filter fun q => q.2 != 0,
    m := [], q := w.q.map fun e => { e with valid := 0 },
    frontier := (w.frontier.map fun e => { e with mask := live }).filter fun e => e.mask != 0 }

/-- Where a wave stands at its REGROUP: the header of its clause, and the index in it. -/
def Wave.atBarrier (w : Wave) : Nat × Nat :=
  match w.frontier.find? fun e => e.hold == .barrier with
  | some e => (16 * e.hdr.toNat, e.idx - 1)
  | none => (0, 0)

/-- Lanes that have exited leave their wave's trap set (R278); `old` is the wave as it arrived at the REGROUP. -/
def trimTrap (blk : Nat) (s : State) (old : Wave) : State :=
  match s.wave? { blk := blk, wave := old.wave } with
  | none => s
  | some (b, w) =>
    match leaveTrap s { blk := blk, wave := old.wave } b.oid (~~~w.live) with
    | .ok s1 => s1
    | .error (.double va _) => doubleAt s (blockRecord s b (some w) 14 0 va old.atBarrier.1 old.atBarrier.2
        ((old.trap.map fun t => t.lanes &&& ~~~w.live).getD 0) true)
    | .error _ => s

/-- REGROUP_PERMUTE (R147): every lane has arrived and every register write has landed. -/
def execRegroupPermute (blk : Nat) (s : State) : Host.Outcome State Fault Refusal :=
  match s.block? blk with
  | none => .next s
  | some b =>
    match b.barrier with
    | none => .next s
    | some br =>
      let ws := b.liveWaves
      let landed (w : Wave) : Bool := (w.ops.all fun o => o.writes.isEmpty && o.qtags.isEmpty) &&
        w.recent.all fun x => decide (x.ready ≤ s.clkOf b.die)
      if br.kind = .regroup ∧ br.full ∧ b.halt ≠ .halted ∧ ws.all landed ∧ !ws.any fun w => leaveHeld s w b.oid 0xFFFFFFFF then
        match ws with
        | [] => .next s
        | w0 :: _ =>
          if ws.any fun w => w.claim != w0.claim then .next (barrierFault s b)
          else
            let seq := sortContexts (ws.flatMap fun w => (lanesOf w.live).map fun l =>
              { wave := w.wave, lane := l, key := regroupKey w br.key l })
            let put (w : Wave) : Wave :=
              match ws.findIdx? fun x => x.wave == w.wave with
              | none => w
              | some j => regrouped b w fun i => seq[32 * j + i]?
            let s1 := s.mapBlock blk fun b => { b with waves := b.waves.map put }
            let s2 := (ws.filter fun w => w.trap.isSome).foldl (trimTrap blk) s1
            .next (releaseHeld s2 blk)
      else .next s

end Sys2Proof.Machine
end

