-- ==== Sys2Proof/Machine/Registers.lean ====
section
/-!
DEFINITION. The device control block as it is written (Table 15.3): REGISTER_WRITE, the frame table (R320 to R325), TLBI (R292),
the L2 mode switch (R228), glade descriptors, MEMLAY and the access tables (R371 to R377), and the tag walker (R387).
-/
namespace Sys2Proof.Machine

/-- Writes the bits of `mask` of the register at an offset; the others keep their value. -/
def State.setMasked (s : State) (off mask v : Nat) : State :=
  s.setReg off ((s.reg off &&& ~~~(BitVec.ofNat 64 mask)) ||| BitVec.ofNat 64 v &&& BitVec.ofNat 64 mask)

/-- Bits `lo` to `hi` set. -/
def bitsMask (hi lo : Nat) : Nat := 2 ^ (hi + 1) - 2 ^ lo

/-! ## The frame table (R320 to R325) -/

def ftcmdOff : Nat := 0xB0010

/-- The fields of FTCMD. -/
def ftPage (v : Nat) : Nat := bitsOf v 32 21
def ftOid (v : Nat) : Nat := bitsOf v 20 12
def ftLin (v : Nat) : Bool := bitAt v 19 == 1
def ftOp (v : Nat) : Nat := bitsOf v 16 3

/-- MQLIM and MQUSED of an owner (R324). -/
def mqOff (oid : Nat) : Nat := 0xA0000 + 8 * oid
def mqLim (s : State) (oid : Nat) : Nat := s.regBits (mqOff oid) 0 32
def mqUsed (s : State) (oid : Nat) : Nat := s.regBits (mqOff oid) 32 32
def setMqUsed (s : State) (oid n : Nat) : State := s.setRegBits (mqOff oid) 32 32 n

/-- A key lies in frame `p` of a view. -/
def inFrame (lin : Bool) (p key : Nat) : Bool := decide (key < 2 ^ 37) && keyFrame lin key == p
/-- A line lies in frame `p` of a view. -/
def lineInFrame (lin : Bool) (p line : Nat) : Bool := inFrame lin p (128 * line)

/-- Planes that were loaded through a window on a frame may be read again (R189). -/
def tearFrame (s : State) (lin : Bool) (p : Nat) : State :=
  let offs (b : Block) : List Nat := b.windows.flatMap fun w => (List.range (w.len / 128)).filterMap fun i =>
    if inFrame lin p (w.target (128 * i)).key then some (w.off + 128 * i) else none
  let tear (b : Block) : Block := (offs b).foldl (fun b o => (List.range 128).foldl (fun b i => tearPlanes b (o + i)) b) b
  { s with blocks := s.blocks.map fun b => if b.tenant.isSome then tear b else b }

/-- Takes the lines of a frame out of the caches that `which` names, their dirty sectors written back. -/
def recallFrame (s : State) (lin : Bool) (p : Nat) (which : Holder → Bool) : State :=
  let mine (d : DirEnt) : Bool := lineInFrame lin p d.line && which d.holder
  let s1 := (s.dir.filter mine).foldl writeBackEnt s
  { s1 with dir := s1.dir.filter fun d => !mine d }

/-- Clears every LR reservation on a frame (R325 step 4, R169). -/
def clearFrame (s : State) (lin : Bool) (p : Nat) : State :=
  let clr (w : Wave) : Wave := match w.reserv with
    | some (k, _) => if inFrame lin p k then { w with reserv := none } else w
    | none => w
  { s with blocks := s.blocks.map fun b => { b with waves := b.waves.map clr } }

/-- ZeroFill (R323): every byte of the frame, coherently. -/
def zeroFill (s : State) (lin : Bool) (p : Nat) : State :=
  let s1 := tearFrame (clearFrame (recallFrame s lin p fun _ => true) lin p) lin p
  { s1 with mem := s1.mem.filter fun c => !inFrame lin p c.1 }

/-- Some assigned frame of P's group has another LIN (R308, R323). -/
def viewClash (s : State) (p : Nat) (lin : Bool) : Bool :=
  [0, 1, 2, 3].any fun i =>
    let f := s.frame (i * 2 ^ 19 + p % 2 ^ 19)
    f.v && f.lin != lin

/-- ASSIGN: the status and the state (R323). -/
def ftAssign (s : State) (p oid : Nat) (lin : Bool) : Nat × State :=
  if (s.frame p).v then (3, s)
  else if viewClash s p lin then (2, s)
  else if oid ≠ 0 ∧ mqLim s oid ≤ mqUsed s oid then (1, s)
  else
    let s1 := (zeroFill s lin p).setFrame p { v := true, lin := lin, hb := false, pend := false, oid := BitVec.ofNat 12 oid }
    (0, if oid = 0 then s1 else setMqUsed s1 oid (mqUsed s oid + 1))

/-- RELEASE: the status and the state (R323). -/
def ftRelease (s : State) (p : Nat) : Nat × State :=
  let f := s.frame p
  if !f.v || f.hb || f.pend then (3, s)
  else
    let s1 := s.setFrame p { v := false, lin := false, hb := false, pend := false, oid := 0 }
    (0, if f.oid = 0 then s1 else setMqUsed s1 f.oid.toNat (mqUsed s f.oid.toNat - 1))

/-- The start of a flip: PEND, and BUSY until it completes; or status 3 (R325). -/
def ftFlip (s : State) (p : Nat) (toHost : Bool) : State :=
  let f := s.frame p
  if f.v && !f.pend && f.hb != toHost then
    let (n, s1) := s.fresh
    let s2 := (s1.setFrame p { f with pend := true }).setRegBits ftcmdOff 1 1 1
    { s2 with flips := s2.flips ++ [(p, toHost, n)] }
  else s.setRegBits ftcmdOff 8 4 3

/-- The command in FTCMD's fields runs. -/
def runFtcmd (s : State) (v : Nat) : State :=
  let done (r : Nat × State) : State := r.2.setRegBits ftcmdOff 8 4 r.1
  match ftOp v with
  | 0 => done (ftAssign s (ftPage v) (ftOid v) (ftLin v))
  | 1 => done (ftRelease s (ftPage v))
  | 2 => ftFlip s (ftPage v) true
  | 3 => ftFlip s (ftPage v) false
  | _ => s.setRegBits ftcmdOff 8 4 4

/-- A write of FTCMD (R322). A command that is given during a takeover waits for its end, BUSY (R314). -/
def writeFtcmd (s : State) (v : Nat) : State :=
  if s.regBits ftcmdOff 1 1 = 1 then s
  else
    let s1 := s.setMasked ftcmdOff (bitsMask 52 16) v
    if bitAt v 0 = 0 then s1
    else if s.takingOver.isSome then s1.setRegBits ftcmdOff 1 1 1
    else runFtcmd s1 v

/-- The command that has waited for a takeover runs: BUSY is 1, and no flip is in progress. -/
def settleFtcmd (s : State) : State :=
  if s.regBits ftcmdOff 1 1 = 1 ∧ s.flips = [] then runFtcmd (s.setRegBits ftcmdOff 1 1 0) (s.reg ftcmdOff).toNat else s

/-- A command write whose GO and OP are those of the event. -/
def ftEvent (v : W64) (op : Nat) (s : State) : Host.Outcome State Fault Refusal :=
  if v.getLsbD 0 = false ∨ ftOp v.toNat ≠ op then .next s else .next (writeFtcmd s v.toNat)

/-- FT_ASSIGN (R323). -/
def execFtAssign (v : W64) (s : State) : Host.Outcome State Fault Refusal := ftEvent v 0 s
/-- FT_RELEASE (R323). -/
def execFtRelease (v : W64) (s : State) : Host.Outcome State Fault Refusal := ftEvent v 1 s
/-- FT_BIAS_TO_HOST (R325). -/
def execFtBiasToHost (v : W64) (s : State) : Host.Outcome State Fault Refusal := ftEvent v 2 s
/-- FT_BIAS_TO_DEVICE (R325). -/
def execFtBiasToDevice (v : W64) (s : State) : Host.Outcome State Fault Refusal := ftEvent v 3 s

/-- An engine that was at work when the flip began owns a line of the frame (R325 step 2). -/
def flipWaits (s : State) (lin : Bool) (p n : Nat) : Bool :=
  (owners s).any fun o => decide (o.id < n) && o.dst.any fun q => q.blk.isNone && (inFrame lin p q.lo || inFrame lin p (q.hi - 1))

/-- The end of a flip, steps 2 to 6, or 2 and 3 toward the device (R325). -/
def finishFlip (s : State) (p : Nat) (toHost : Bool) : State :=
  let f := s.frame p
  let s1 := drainPath s fun q => inFrame f.lin p q.key
  let s2 := if toHost then clearFrame (recallFrame s1 f.lin p fun h => h != .host) f.lin p
            else recallFrame s1 f.lin p fun h => h == .host
  let s3 := s2.setFrame p { f with hb := toHost, pend := false }
  { (s3.setRegBits ftcmdOff 8 4 0).setRegBits ftcmdOff 1 1 0 with flips := s3.flips.filter fun x => x.1 != p }

/-- BIAS_FLIP_COMPLETE (R325): of the flip in progress; FTCMD runs one command at a time (R322). A takeover does not hold it
(R328). -/
def execBiasFlipComplete (s : State) : Host.Outcome State Fault Refusal :=
  match s.flips with
  | [] => .next s
  | (p, toHost, n) :: _ => if flipWaits s (s.frame p).lin p n then .next s else .next (finishFlip s p toHost)

/-! ## TLBI (R292) -/

def tlbicOff : Nat := 0xB0008

/-- A TLB entry that a TLBIC command names. -/
def tlbiHits (s : State) (v : Nat) (t : TlbEnt) : Bool :=
  t.oid == bitsOf v 0 12 && t.glade == bitsOf v 12 4 &&
    (bitAt v 25 == 1 || decide ((t.vpn + 2 ^ 48 - s.regBits 0xB0000 16 48) % 2 ^ 48 < 2 ^ bitsOf v 26 6))

/-- A write of TLBIC: with GO, matching entries go, and the owner's accesses in flight are performed; BUSY while some of them wait. GO is
ignored while BUSY is 1, and the fields written with it are taken to be dropped too: log entry 52. -/
def writeTlbic (s : State) (v : Nat) : State :=
  if bitAt v 23 = 1 ∧ s.regBits tlbicOff 24 1 = 1 then s
  else
    let s1 := s.setMasked tlbicOff (bitsMask 31 25 + bitsMask 15 0) v
    if bitAt v 23 = 0 then s1
    else
      let mine (p : Pending) : Bool := p.oid == bitsOf v 0 12 && p.glade == bitsOf v 12 4
      let s2 := drainPath s1 mine
      let s3 : State := { s2 with tlb := s2.tlb.filter fun t => !tlbiHits s2 v t, tlbiWait := s2.path.filter mine }
      if s3.tlbiWait.isEmpty then s3 else s3.setRegBits tlbicOff 24 1 1

/-- A TLBI completes, and BUSY clears, when the stores that it waits for have been performed. -/
def settleTlbi (s : State) : State :=
  if s.tlbiWait.isEmpty then s
  else
    let left := s.tlbiWait.filter s.path.contains
    if left.isEmpty then { s.setRegBits tlbicOff 24 1 0 with tlbiWait := [] } else { s with tlbiWait := left }

/-- TLBI (R292). -/
def execTlbi (v : W32) (s : State) : Host.Outcome State Fault Refusal :=
  if v.getLsbD 23 = false then .next s else .next (writeTlbic s v.toNat)

/-! ## The L2 mode (R227, R228) -/

def l2ctlOff : Nat := 0x10000
/-- L2SLGn. -/
def l2slgOff (n : Nat) : Nat := 0x10008 + 8 * n

/-- A glade holds a grove on a die where no enabled slice belongs to it. -/
def sliceMissing (s : State) : Bool :=
  (gladesOn s).any fun g => [0, 1, 2, 3].any fun d =>
    s.gldBits g (116 + 12 * d) 12 != 0 && (List.range 16).all fun i => s.regBits (l2slgOff (16 * d + i)) 0 5 != 16 + g

/-- The caches that a mode switch flushes (R228 step 3). -/
def flushed : Holder → Bool
  | .l1 _ _ | .l2 _ | .grove _ _ => true
  | _ => false

/-- A mode switch (R228). -/
def switchL2 (s : State) (mode : Nat) : State :=
  if !s.blocks.isEmpty || !s.copies.isEmpty || (mode == 1 && sliceMissing s) then s.setRegBits l2ctlOff 3 1 1
  else
    let mine (d : DirEnt) : Bool := flushed d.holder
    let s1 := (s.dir.filter mine).foldl writeBackEnt s
    let s2 : State := { s1 with dir := s1.dir.filter (fun d => !mine d),
                                slices := (List.range 64).map fun n => s.regBits (l2slgOff n) 0 5 }
    s2.setReg l2ctlOff (BitVec.ofNat 64 mode)

/-- A write of L2CTL: MODE is taken by a GO alone. -/
def writeL2ctl (s : State) (v : Nat) : State := if bitAt v 1 = 0 then s else switchL2 s (bitAt v 0)

/-- L2_MODE_SWITCH (R228). -/
def execL2ModeSwitch (v : W32) (s : State) : Host.Outcome State Fault Refusal :=
  if v.getLsbD 1 = false then .next s else .next (writeL2ctl s v.toNat)

/-! ## Access tables (R376, R377) -/

/-- The offset of window `w` of entry `iid` of table `t`. -/
def windowOff (t iid w : Nat) : Nat := 0x110000 + 0x4000 * t + 64 * iid + 16 * w
/-- A window as a number. -/
def windowAt (s : State) (t iid w : Nat) : Nat := (s.reg (windowOff t iid w)).toNat + 2 ^ 64 * (s.reg (windowOff t iid w + 8)).toNat

/-- Glade `g`'s range on a stack: its first frame and its count (Table 20.1). -/
def gladeRange (s : State) (g stack : Nat) : Nat × Nat := (s.gldBits g (164 + 39 * stack) 19, s.gldBits g (183 + 39 * stack) 20)

/-- Two ranges of frames meet. -/
def rangesMeet (a b : Nat × Nat) : Bool := decide (a.1 < b.1 + b.2) && decide (b.1 < a.1 + a.2)

/-- An IID that may hold a window over a protected glade's range (R377). -/
def mayHold (s : State) (g iid : Nat) : Bool :=
  iid == g || iid == 0x11 + g || isService iid || (decide (0x80 ≤ iid) && s.gldBits g (384 + (iid - 0x80)) 1 == 1)

/-- A window that R377 forbids for glade `g`, as if it were protected. -/
def forbiddenFor (s : State) (g t iid x : Nat) : Bool :=
  decide (t < 4) && bitAt x 74 == 1 && !mayHold s g iid && (gladeRange s g t).2 != 0 &&
    decide (bitsOf x 0 36 ≤ bitsOf x 36 36) && rangesMeet (bitsOf x 0 36, bitsOf x 36 36 + 1 - bitsOf x 0 36) (gladeRange s g t)

/-- A write of a window (R377). -/
def writeWindow (s : State) (t iid w x : Nat) : State :=
  if (gladesOn s).any fun g => s.gladeProtected g && forbiddenFor s g t iid x then s.setRegBits 0x100408 0 1 1
  else
    let off := windowOff t iid w
    (s.setReg off (BitVec.ofNat 64 x)).setReg (off + 8) (BitVec.ofNat 64 (x / 2 ^ 64 % 2 ^ 11))

/-- ACCESS_TABLE_WRITE (R377). -/
def execAccessTableWrite (t iid win : Nat) (v : W128) (s : State) : Host.Outcome State Fault Refusal :=
  if 10 ≤ t ∨ 256 ≤ iid ∨ 4 ≤ win then .next s else .next (writeWindow s t iid win v.toNat)

/-- A write of one half of a window: the other half stays. -/
def writeWindowHalf (s : State) (off v : Nat) : State :=
  let k := (off - 0x110000) / 16
  let old := (s.reg (0x110000 + 16 * k)).toNat + 2 ^ 64 * (s.reg (0x110000 + 16 * k + 8)).toNat
  let x := if off % 16 < 8 then old / 2 ^ 64 * 2 ^ 64 + v else old % 2 ^ 64 + v * 2 ^ 64
  writeWindow s (k / 1024) (k / 4 % 256) (k % 4) x

/-! ## Glade descriptors and MEMLAY (R371 to R373) -/

def gldOff (g : Nat) : Nat := 0x100000 + 64 * g
def gldGroves (s : State) (g : Nat) : Nat := s.gldBits g 116 48
def gldChres (s : State) (g : Nat) : Nat := s.gldBits g 320 64

/-- The glade's groves, ranges or channels intersect those of another glade whose STATE is not 0. -/
def gladeClash (s : State) (g : Nat) : Bool :=
  (gladesOn s).any fun h => h != g &&
    (gldGroves s g &&& gldGroves s h != 0 || gldChres s g &&& gldChres s h != 0 ||
      [0, 1, 2, 3].any fun st => rangesMeet (gladeRange s g st) (gladeRange s h st) &&
        (gladeRange s g st).2 != 0 && (gladeRange s h st).2 != 0)

/-- On some stack the reserved channels do not hold: the stack is striped, or the range reaches outside them. -/
def channelsBad (s : State) (g : Nat) : Bool :=
  [0, 1, 2, 3].any fun st =>
    let ch := bitsOf (gldChres s g) (16 * st) 16
    let (base, cnt) := gladeRange s g st
    ch != 0 && (!s.partitioned st || (List.range 16).any fun c => bitAt ch c == 0 && rangesMeet (base, cnt) (32768 * c, 32768) && cnt != 0)

/-- Some access table holds a window that R377 forbids for the glade. -/
def windowsBad (s : State) (g : Nat) : Bool :=
  [0, 1, 2, 3].any fun t => (List.range 256).any fun iid => (List.range 4).any fun w => forbiddenFor s g t iid (windowAt s t iid w)

/-- A write of the word of GLDg that holds EN and CLS (R371, R373). -/
def writeGlade0 (s : State) (g v : Nat) : State :=
  let off := gldOff g
  if s.gladeState g = 0 then
    let s1 := s.setMasked off 3 v
    if bitAt v 0 = 0 then s1
    else if gladeClash s1 g || channelsBad s1 g || (bitAt v 1 == 1 && windowsBad s1 g) then s.setRegBits off 4 1 1
    else (s1.setRegBits off 4 1 0).setRegBits off 8 4 1
  else if bitAt v 0 = 1 then s.setRegBits off 0 1 1
  else if s.gladeState g = 1 then
    if (List.range 4096).any fun o => s.ctxValid o && s.ctxGlade o == g then s.setRegBits off 4 1 1
    else (s.setRegBits off 0 1 0).setRegBits off 8 4 0
  else s.setRegBits off 0 1 0

/-- A write of word `i` of GLDg. -/
def writeGlade (s : State) (g i v : Nat) : State :=
  if i = 0 then writeGlade0 s g v
  else if s.gladeState g ≠ 0 then s
  else s.setMasked (gldOff g + 8 * i) (if i = 1 then bitsMask 63 52 else bitsMask 63 0) v

/-- GLADE_ENABLE (R373): EN = 1 is written to the descriptor, CLS as it stands. -/
def execGladeEnable (g : Nat) (s : State) : Host.Outcome State Fault Refusal :=
  if 16 ≤ g then .next s else .next (writeGlade0 s g (1 + 2 * bitAt (s.reg (gldOff g)).toNat 1))

/-- GLADE_DISABLE (R373): EN = 0 is written to the descriptor. -/
def execGladeDisable (g : Nat) (s : State) : Host.Outcome State Fault Refusal :=
  if 16 ≤ g then .next s else .next (writeGlade0 s g (2 * bitAt (s.reg (gldOff g)).toNat 1))

/-- A write of MEMLAY: the first one alone counts (R372). -/
def writeMemlay (s : State) (v : Nat) : State :=
  if s.memlayDone then s else { s.setReg 0x100400 (BitVec.ofNat 64 (v % 16)) with memlayDone := true }

/-- MEMLAY_WRITE (R372). -/
def execMemlayWrite (v : BitVec 4) (s : State) : Host.Outcome State Fault Refusal := .next (writeMemlay s v.toNat)

/-! ## The tag walker (R387) -/

def twcmdOff (d : Nat) : Nat := 0x100800 + 8 * d

/-- A write of TWCMDd. -/
def writeTwcmd (s : State) (d v : Nat) : State :=
  let s1 := s.setMasked (twcmdOff d) (bitsMask 19 18 + bitsMask 15 0) v
  if bitAt v 20 = 0 then s1
  else sweepDie s1 d (bitAt v 19 == 1) fun t => t.2 == bitsOf v 12 4 && (bitAt v 18 == 1 || t.1 == bitsOf v 0 12)

/-- TAG_WALK_SWEEP (R387). -/
def execTagWalkSweep (die : Nat) (v : W32) (s : State) : Host.Outcome State Fault Refusal :=
  if 4 ≤ die ∨ v.getLsbD 20 = false then .next s else .next (writeTwcmd s die v.toNat)

/-! ## Register writes (R313) -/

/-- A write of owner context word `i` (R270); a context whose V goes to 0 departs (R388). -/
def writeContext (s : State) (oid i v : Nat) : State :=
  let off := 0x40000 + 64 * oid + 8 * i
  if i = 0 then
    let s1 := s.setMasked off (bitsMask 63 46 + bitsMask 15 0) v
    if s.ctxValid oid && bitAt v 46 == 0 then sweepAll s1 (s.gladeProtected (s.ctxGlade oid)) fun t => t.1 == oid else s1
  else s.setMasked off (if i = 1 then bitsMask 63 15 else bitsMask 63 0) v

/-- A write of a display register (Tables 16.1, 16.3 and 16.8). -/
def writeDisplay (s : State) (d x v : Nat) : State :=
  let off := dispOff d + x
  if x = 0 then writeDctl s d v
  else if x = 0x10 then s.setMasked off (bitsMask 47 0) v
  else if x = 0x18 ∨ x = 0x20 then s.setMasked off (bitsMask 51 16) v
  else if x = 0x28 then s.setMasked off (bitsMask 51 15) v
  else if x = 0x38 then writeMapop s d v
  else if x = 0x50 then writeCapctl s d v
  else if x = 0x30 ∨ x = 0x40 ∨ x = 0x48 ∨ x = 0x58 ∨ x = 0x60 ∨ x = 0x68 ∨ x = 0x70 then s.setMasked off (bitsMask 63 0) v
  else s

/-- A write of the notification and mailbox page of a function (R316): the vectors' table, MBDB, and the two areas. -/
def writePage (s : State) (fn x v : Nat) : State :=
  let off := 0x200000 + 0x10000 * fn + x
  if 17 ≤ fn then s
  else if x < 64 then (if x % 16 = 0 then s.setMasked off (bitsMask 63 2) v else s.setMasked off (bitsMask 32 0) v)
  else if x = 0x100 then s.setMasked off 1 v
  else if 0x1000 ≤ x ∧ x < 0x2000 then s.setMasked off (bitsMask 63 0) v
  else s

/-- A write of DEVST: a fenced pair stays fenced until the next device reset (R314). -/
def writeDevst (s : State) (v : Nat) : State := s.setMasked 0 (bitsMask 11 0) (v ||| 16 * s.regBits 0 4 4)

/-- A write of QPER of a die: its periods count from here (R251). -/
def writeQper (s : State) (die v : Nat) : State :=
  { s.setMasked (0xA8000 + 8 * die) (bitsMask 63 0) v with quotaAt := setAt s.quotaAt die (s.clkOf die) }

/-- A write of the 8 B register at an offset; reserved and read-only bits keep their value, and offsets without a register
ignore it. -/
def writeRegister (s : State) (off v : Nat) : State :=
  if off = 0 then writeDevst s v
  else if off = 0x108 then s.setMasked off (bitsMask 63 0) v
  else if off = l2ctlOff then writeL2ctl s v
  else if l2slgOff 0 ≤ off ∧ off < l2slgOff 64 then s.setMasked off (bitsMask 4 0) v
  else if 0x20000 ≤ off ∧ off < 0x28000 then
    s.setMasked off (if off % 32 = 24 then 0 else if off % 32 = 16 then bitsMask 25 0 else bitsMask 63 0) v
  else if 0x40000 ≤ off ∧ off < 0x80000 then writeContext s ((off - 0x40000) / 64) (off % 64 / 8) v
  else if 0x80000 ≤ off ∧ off < 0xA0000 then s.setMasked off (bitsMask 55 0) v
  else if 0xA0000 ≤ off ∧ off < 0xA8000 then s.setMasked off (bitsMask 31 0) v
  else if 0xA8000 ≤ off ∧ off < 0xA8020 then writeQper s ((off - 0xA8000) / 8) v
  else if off = 0xB0000 then s.setMasked off (bitsMask 63 16) v
  else if off = tlbicOff then writeTlbic s v
  else if off = ftcmdOff then writeFtcmd s v
  else if off = precmdOff then writePrecmd s (BitVec.ofNat 64 v)
  else if 0xC0000 ≤ off ∧ off < 0xC4000 then writeDisplay s ((off - 0xC0000) / 0x1000) (off % 0x1000) v
  else if off = 0xC4000 then s.setMasked off (bitsMask 51 21) v
  else if 0xD0000 ≤ off ∧ off < 0xD8000 then s.setMasked off (bitsMask 63 16 + 1) v
  else if 0x100000 ≤ off ∧ off < 0x100400 then writeGlade s ((off - 0x100000) / 64) (off % 64 / 8) v
  else if off = 0x100400 then writeMemlay s v
  else if off = 0x100408 then s.setMasked off (bitAt v 0) 0
  else if 0x100800 ≤ off ∧ off < 0x100820 then writeTwcmd s ((off - 0x100800) / 8) v
  else if 0x110000 ≤ off ∧ off < 0x138000 then writeWindowHalf s off v
  else if 0x200000 ≤ off ∧ off < 0x310000 then writePage s ((off - 0x200000) / 0x10000) (off % 0x10000) v
  else s

end Sys2Proof.Machine
end

