-- ==== Sys2Proof/Machine/Links.lean ====
section
/-!
DEFINITION. The host links, the mailbox, peers and their keys: HOST_CXL_MEM_READ and HOST_CXL_MEM_WRITE (R310, R325, R369, R378),
HOST_SNOOP (R318), HOST_REGISTER_READ and MSIX_SEND (R316, R319), MAILBOX_DOORBELL and MAILBOX_REPLY (R316), PEER_REQUEST (R379),
SHENER_MAC_FAILURE and SHENER_KEY_EXCHANGE (R382) and IDE_KM_KEY_PROG (R381).
-/
namespace Sys2Proof.Machine

/-- The device answers the outside. -/
def tell (s : State) (m : HostMsg) : State := { s with host := s.host ++ [m] }

/-- A range of `n` bytes that lies in one line. -/
def inOneLine (a n : Nat) : Bool := decide (0 < n) && decide (a % 128 + n ≤ 128)

/-- An access from outside waits: for an engine that owns the bytes (R363, R365, R369), or for a flip (R325). -/
def outsideWaits (s : State) (key n : Nat) (wr : Bool) : Bool :=
  waitsFor (owners s) { blk := none, lo := key, hi := key + n } wr || !(s.flipsOf key).isEmpty

/-- `n` coherent bytes from a key. -/
def State.bytesAt (s : State) (key n : Nat) : List Byte := (List.range n).map fun i => s.byte (key + i)

/-! ## CXL.mem (R369) -/

/-- How a host access is answered at the home agent. -/
inductive HostVerdict where
  | system
  | refused (detail : Nat)
  | allowed
  deriving DecidableEq, Repr

/-- The home agent's check of a host CXL.mem access (R310, R376). -/
def hostVerdict (s : State) (addr : Nat) (rd wr : Bool) : HostVerdict :=
  if sysBase ≤ addr then .system
  else match firewall s 0x10 (targetOf addr false 0) rd wr with
    | some d => .refused d
    | none => .allowed

/-- The protection record of a host access in the fault area of OID 0 (R310, R378). -/
def hostRecord (s : State) (addr detail : Nat) : State :=
  let die := match targetOf addr false 0 with
    | .dev st _ => st
    | _ => 0
  raiseRecord s (Record.plain 6 0 (s.ctxGlade 0) die 0 0 0 detail)

/-- HOST_CXL_MEM_READ. -/
def execHostCxlMemRead (addr n : Nat) (s : State) : Host.Outcome State Fault Refusal :=
  let key := (targetOf addr false 0).key
  if 2 ^ 37 ≤ addr ∨ inOneLine addr n = false then .next s
  else match hostVerdict s addr true false with
    | .system => .next (tell (hostRecord s addr 0) (.memData (List.replicate n 0)))
    | .refused d => .next (tell (hostRecord s addr d) .poison)
    | .allowed =>
      if outsideWaits s key n false then .next s
      else .next (tell (readShared s (key / 128) .host) (.memData (s.bytesAt key n)))

/-- HOST_CXL_MEM_WRITE. -/
def execHostCxlMemWrite (addr : Nat) (bytes : List Byte) (s : State) : Host.Outcome State Fault Refusal :=
  let key := (targetOf addr false 0).key
  if 2 ^ 37 ≤ addr ∨ inOneLine addr bytes.length = false then .next s
  else match hostVerdict s addr false true with
    | .system => .next (hostRecord s addr 0)
    | .refused d => .next (hostRecord s addr d)
    | .allowed => if outsideWaits s key bytes.length true then .next s
      else .next (landReplies (directWrite s key bytes))

/-- A line that the host keeps coherent: of its own memory, or of a host-biased frame (R318, R325). -/
def snooped (s : State) (key : Nat) : Bool :=
  let biased (lin : Bool) : Bool := let f := s.frame (keyFrame lin key); f.v && f.hb && f.lin == lin
  (decide (2 ^ 51 ≤ key) && decide (key < 2 ^ 52)) || (decide (key < 2 ^ 37) && (biased true || biased false))

/-- HOST_SNOOP: a line of host memory, or of a host-biased frame, is recalled, to S; or to I, and the host writes its own memory. -/
def execHostSnoop (line : Nat) (write : HostWrite) (s : State) : Host.Outcome State Fault Refusal :=
  let key := 128 * line
  if !snooped s key then .next s
  else match write with
    | none =>
      if outsideWaits s key 128 false then .next s
      else
        .next (recallShared s line)
    | some (off, bytes) =>
      if 128 < off + bytes.length ∨ outsideWaits s key 128 true then .next s
      else .next (landReplies (directWrite s (key + off) bytes))

/-! ## Registers and messages (R313, R316, R319) -/

/-- A store of the function's glade, or for function 0 of the executive. -/
def writtenFor (fn : Nat) (p : Pending) : Bool := if fn = 0 then p.oid == 0 else p.glade == fn - 1

/-- Such a store waits for a command, and what follows it waits too. -/
def hostStuck (s : State) (fn : Nat) : Bool := !s.path.isEmpty && !(stuckStores s (writtenFor fn) s.path).isEmpty

/-- Device to host order: what the function's glade, or for function 0 the executive, has written is performed first. -/
def drainFor (s : State) (fn : Nat) : State := drainPath s (writtenFor fn)

/-- The control-block offset behind a function's BAR0 offset; none where the host finds no register. -/
def barOffset (fn off : Nat) : Option Nat :=
  if fn = 0 then
    if off < 0x10000 ∨ (0x200000 ≤ off ∧ off < 0x310000) ∨ (0x800000 ≤ off ∧ off < 0x1000000) then some off else none
  else if off < 0x10000 then some (0x200000 + 0x10000 * fn + off) else none

/-- A function answers no access of the host to its registers: its glade is in reset (R386), or it is in D3hot, where PCI Express
lets it take configuration accesses alone (R315, log entry 53). -/
def functionShut (s : State) (fn : Nat) : Bool := portShut s (0x10 + fn) || s.d3hot.contains fn

/-- A host access to the control block that its access table does not allow: dropped, with one record (R376, R378). -/
def hostDenied (s : State) : State := if s.fatal then s else raiseRecord s (Record.plain 6 0 (s.ctxGlade 0) 0 0 0 0 97)

/-- The host reads a value that the manual leaves open. -/
def freeRead (s : State) : State :=
  tell { s with free := s.free + 1 } (.regData (BitVec.ofNat 64
    ((Config.freeWord (8 * s.free)).toNat + 2 ^ 32 * (Config.freeWord (8 * s.free + 1)).toNat)))

/-- HOST_REGISTER_READ (R319). What the host gets of a function that answers nothing, and of a read that table 4 does not allow
(R376), is free. -/
def execHostRegisterRead (fn off : Nat) (s : State) : Host.Outcome State Fault Refusal :=
  if 17 ≤ fn ∨ off % 8 ≠ 0 ∨ (if fn = 0 then 2 ^ 24 else 2 ^ 16) ≤ off ∨ hostStuck s fn then .next s
  else
    let s1 := drainFor s fn
    if functionShut s fn then .next (freeRead s1)
    else match barOffset fn off with
      | none => .next (tell s1 (.regData 0))
      | some o =>
        if tableAllows s 4 (0x10 + fn) o true false then .next (tell s1 (.regData (s1.regNow o)))
        else .next (freeRead (hostDenied s1))

/-- The function masks a vector; the place of the bit is PRESUMED (the MSI-X table of PCI Express). -/
def vectorMasked (s : State) (fn vec : Nat) : Bool := s.regBits (0x200000 + 0x10000 * fn + 16 * vec + 8) 32 1 == 1

/-- MSIX_SEND (R316, R319); a message of a function in D3hot waits. -/
def execMsixSend (fn vec : Nat) (s : State) : Host.Outcome State Fault Refusal :=
  if !s.msix.contains (4 * fn + vec) || 4 ≤ vec || s.d3hot.contains fn || vectorMasked s fn vec || hostStuck s fn then .next s
  else
    let s1 := drainFor s fn
    .next (tell { s1 with msix := s1.msix.filter fun x => x != 4 * fn + vec } (.msix fn vec))

/-! ## The mailbox (R316) -/

def pageOff (fn : Nat) : Nat := 0x200000 + 0x10000 * fn
def mbdb (s : State) (fn : Nat) : Bool := s.regBits (pageOff fn + 0x100) 0 1 == 1

/-- Writes bytes from an 8 B register on; a last part of a register keeps its other bytes. -/
def writeArea (s : State) (off : Nat) (l : List Byte) : State :=
  (List.range ((l.length + 7) / 8)).foldl (fun s i =>
    let part := (l.drop (8 * i)).take 8
    let old := bytesLE 8 (s.reg (off + 8 * i)).toNat
    s.setReg (off + 8 * i) (BitVec.ofNat 64 (natLE (part ++ old.drop part.length)))) s

/-- Bytes from an 8 B register on. -/
def readArea (s : State) (off n : Nat) : List Byte :=
  ((List.range ((n + 7) / 8)).flatMap fun i => bytesLE 8 (s.reg (off + 8 * i)).toNat).take n

/-- A host write of a register of its BAR0: of a function that answers, inside the host's ranges (R313), and where table 4 allows
it (R376); any other is ignored or dropped. -/
def hostWrite (s : State) (fn off : Nat) (put : State → Nat → State) : State :=
  if functionShut s fn then s
  else match barOffset fn off with
    | none => s
    | some o => if tableAllows s 4 (0x10 + fn) o false true then put s o else hostDenied s

/-- MAILBOX_DOORBELL: MBDB := 1. -/
def execMailboxDoorbell (fn : Nat) (s : State) : Host.Outcome State Fault Refusal :=
  if 17 ≤ fn then .next s
  else .next (hostWrite s fn (if fn = 0 then pageOff 0 + 0x100 else 0x100) fun s o => s.setRegBits o 0 1 1)

/-- The executive's reply: the reply area, MBDB := 0, and vector 2. -/
def reply (s : State) (fn : Nat) (bytes : List Byte) : State :=
  notify ((writeArea s (pageOff fn + 0x1800) (bytes.take 2048)).setRegBits (pageOff fn + 0x100) 0 1 0) fn 2

/-- MAILBOX_REPLY. -/
def execMailboxReply (fn : Nat) (bytes : List Byte) (s : State) : Host.Outcome State Fault Refusal :=
  if 17 ≤ fn ∨ mbdb s fn = false then .next s else .next (reply s fn bytes)

/-! ## Peers (R379, R382) -/

/-- A request of glade `h` of peer `p` at this device's home agent: the firewall, and a protected glade's roster (R379). -/
def peerAllowed (s : State) (p h addr : Nat) (rd wr : Bool) : Bool :=
  let t := targetOf addr false 0
  let roster (g : Nat) : Bool := match t with
    | .dev st off => !(s.gladeProtected g && inRange s g st off) || s.gldBits g (384 + 16 * p + h) 1 == 1
    | _ => false
  decide (addr < sysBase) && (firewall s (0x80 + 16 * p + h) t rd wr).isNone && (gladesOn s).all roster

/-- An operation and a type that an atomic has (R165). -/
def atomDefined (op : Nat) (t : Ty) : Bool := decide (op ≤ 8) && (atomTys op).contains t

/-- A peer's atomic on a naturally aligned element (R165, R167): performed at this device's home agent where its tables allow both a read
and a write, with the old element as the answer. -/
def peerAtomic (s : State) (p h addr : Nat) (t : Ty) (new : Nat → Option Nat) : Host.Outcome State Fault Refusal :=
  let key := (targetOf addr false 0).key
  let n := elemWidth t / 8
  let old := s.bytesAt key n
  match new (natLE old) with
  | none => .next s
  | some x =>
    if addr % n ≠ 0 then .next s
    else if !peerAllowed s p h addr true true then .next (tell s .peerRefused)
    else if outsideWaits s key n true then .next s
    else .next (tell (directWrite s key (bytesLE n x)) (.peerData old))

/-- PEER_REQUEST (R379). -/
def execPeerRequest (p h addr : Nat) (r : PeerOp) (s : State) : Host.Outcome State Fault Refusal :=
  let key := (targetOf addr false 0).key
  let n := match r with
    | .read n => n
    | .write l => l.length
    | .atomic _ t _ | .cas t _ _ => elemWidth t / 8
  if 8 ≤ p ∨ 16 ≤ h ∨ 2 ^ 38 ≤ addr ∨ inOneLine addr n = false ∨ s.stopped.contains (peerPort p) then .next s
  else match r with
    | .read n =>
      if !peerAllowed s p h addr true false then .next (tell s .peerRefused)
      else if outsideWaits s key n false then .next s
      else .next (tell (recallForRead s (key / 128)) (.peerData (s.bytesAt key n)))
    | .write l =>
      if !peerAllowed s p h addr false true then .next (tell s .peerRefused)
      else if outsideWaits s key l.length true then .next s
      else .next (tell (directWrite s key l) .peerAck)
    | .atomic op t v => peerAtomic s p h addr t fun old => if atomDefined op t then some (atomNew op t old v) else none
    | .cas t cmp v => peerAtomic s p h addr t fun old => some (if old = cmp then v else old)

/-- A store in flight on a port. -/
def onPort (port : Nat) (p : Pending) : Bool := portOfKey p.key == some port

/-- A request dropped with its port: its block takes the protection fault of detail 102. -/
def dropRequest (s : State) (p : Pending) : State :=
  match s.block? p.blk with
  | none => s
  | some b => fatalFault s b (b.wave? p.wave) 6 102 p.va (16 * p.hdr.toNat) p.idx p.mask

/-- The loads and atomics in flight on a port, with their blocks and waves. -/
def loadsOn (s : State) (port : Nat) : List (Nat × Nat × Remote) :=
  s.blocks.flatMap fun b => b.waves.flatMap fun w => w.ops.filterMap fun o =>
    match o.remote with
    | some r => if r.ports.contains port then some (b.uid, w.wave, r) else none
    | none => none

/-- A load or an atomic dropped with its port (R378, R382). -/
def dropLoad (s : State) (x : Nat × Nat × Remote) : State :=
  match s.block? x.1 with
  | none => s
  | some b => fatalFault s b (b.wave? x.2.1) 6 102 x.2.2.va (16 * x.2.2.hdr.toNat) x.2.2.idx x.2.2.mask

/-- A copy that has begun and reaches a port's peers is in flight there. -/
def copyOn (s : State) (port : Nat) (c : Copy) : Bool :=
  c.begun && (copyOwner s c).any fun o => (o.dst ++ o.src).any fun p => p.blk.isNone && portOfKey p.lo == some port

/-- A copy dropped with its port. -/
def dropCopy (s : State) (c : Copy) : State :=
  match s.block? c.blk with
  | none => s
  | some b => copyFault s b c 6 102 0

/-- Everything in flight on a port is dropped, and its requesters take their faults. -/
def dropFlight (s : State) (port : Nat) : State :=
  let s1 : State := { s with stopped := s.stopped ++ [port], path := s.path.filter fun p => !onPort port p }
  let s2 := (s.path.filter (onPort port)).foldl dropRequest s1
  (s.copies.filter (copyOn s port)).foldl dropCopy ((loadsOn s port).foldl dropLoad s2)

/-- SHENER_MAC_FAILURE (R382). -/
def execShenerMacFailure (port : Nat) (s : State) : Host.Outcome State Fault Refusal :=
  if 4 ≤ port ∨ (s.keys.any fun k => k.1 == port) = false ∨ s.stopped.contains port then .next s
  else .next (raiseRecord (dropFlight s port) (Record.plain 6 0 (s.ctxGlade 0) 0 0 0 0 102))

/-- SHENER_KEY_EXCHANGE (R379, R382): the port has a key in each direction, and runs again if a MAC failure had stopped it; the device has
its number in the peer group. -/
def execShenerKeyExchange (k : ShenerKeys) (s : State) : Host.Outcome State Fault Refusal :=
  if 4 ≤ k.port then .next s
  else .next { s with keys := (k.port, k.tx, k.rx) :: s.keys.filter fun x => x.1 != k.port, peerNo := k.number,
                      stopped := s.stopped.filter fun x => x != k.port }

/-- The function whose SPDM session carries the keys of a stream: its own, and for link IDE function 0 (DEDUCED, log entry 58). -/
def streamFn : IdeStream → Nat
  | .link => 0
  | .selective n => n

/-- IDE_KM_KEY_PROG (R381): over a secured session a stream's key slot takes a key. -/
def execIdeKmKeyProg (slot : IdeSlot) (key : BitVec 256) (s : State) : Host.Outcome State Fault Refusal :=
  if 17 ≤ streamFn slot.stream ∨ s.sessions.contains (streamFn slot.stream) = false then .next s
  else .next { s with ide := (slot, key) :: s.ide.filter fun x => x.1 != slot }

end Sys2Proof.Machine
end

