-- ==== Sys2Proof/Machine/Shake.lean ====
section
/-!
DEFINITION. SHAKE256, which the manual names for measurements and Jorac's keys (R384, R403). It is taken from FIPS 202, log entry 59
(PRESUMED).
-/
namespace Sys2Proof.Machine

/-- The 25 lanes of the permutation's state, lane (x, y) at x + 5 y. -/
abbrev Lanes := List W64

def Lanes.at (a : Lanes) (x y : Nat) : W64 := a.getD (x % 5 + 5 * (y % 5)) 0

/-- The rotation of each lane, and the constant of each round. -/
def keccakRotations : List Nat :=
  [0, 1, 62, 28, 27, 36, 44, 6, 55, 20, 3, 10, 43, 25, 39, 41, 45, 15, 21, 8, 18, 2, 61, 56, 14]
def keccakConstants : List W64 :=
  [0x0000000000000001, 0x0000000000008082, 0x800000000000808A, 0x8000000080008000, 0x000000000000808B, 0x0000000080000001,
   0x8000000080008081, 0x8000000000008009, 0x000000000000008A, 0x0000000000000088, 0x0000000080008009, 0x000000008000000A] ++
  [0x000000008000808B, 0x800000000000008B, 0x8000000000008089, 0x8000000000008003, 0x8000000000008002, 0x8000000000000080,
   0x000000000000800A, 0x800000008000000A, 0x8000000080008081, 0x8000000000008080, 0x0000000080000001, 0x8000000080008008]

/-- One lane for each place. -/
def lanesOfPlaces (g : Nat → Nat → W64) : Lanes := (List.range 25).map fun i => g (i % 5) (i / 5)

/-- Every lane takes the parities of the columns on both sides. -/
def theta (a : Lanes) : Lanes :=
  let c : List W64 := (List.range 5).map fun x => a.at x 0 ^^^ a.at x 1 ^^^ a.at x 2 ^^^ a.at x 3 ^^^ a.at x 4
  let d : List W64 := (List.range 5).map fun x => c.getD ((x + 4) % 5) 0 ^^^ (c.getD ((x + 1) % 5) 0).rotateLeft 1
  lanesOfPlaces fun x y => a.at x y ^^^ d.getD x 0

/-- Lanes are rotated, and lane (x, y) goes to (y, 2 x + 3 y). -/
def rhoPi (a : Lanes) : Lanes :=
  lanesOfPlaces fun x y =>
    let x0 := (x + 3 * y) % 5
    (a.at x0 x).rotateLeft (keccakRotations.getD (x0 + 5 * x) 0)

/-- Rows are mixed. -/
def chi (a : Lanes) : Lanes := lanesOfPlaces fun x y => a.at x y ^^^ (~~~a.at (x + 1) y &&& a.at (x + 2) y)

/-- One round. -/
def keccakRound (a : Lanes) (rc : W64) : Lanes :=
  match chi (rhoPi (theta a)) with
  | [] => []
  | l :: t => (l ^^^ rc) :: t

def keccak (a : Lanes) : Lanes := keccakConstants.foldl keccakRound a

/-- The message in blocks of 136 B: with 0x1F after it, zeros, and the top bit of the last byte. -/
def shakePad (l : List Byte) : List Byte :=
  let n := 135 - l.length % 136
  if n = 0 then l ++ [0x9F] else l ++ [0x1F] ++ List.replicate (n - 1) 0 ++ [0x80]

/-- A block of the message enters the state. -/
def absorb (a : Lanes) (l : List Byte) : Lanes :=
  keccak (a.zipIdx.map fun p => if p.2 < 17 then p.1 ^^^ BitVec.ofNat 64 (natLE ((l.drop (8 * p.2)).take 8)) else p.1)

/-- The first `n` bytes of SHAKE256 of a message, up to 136. -/
def shake256 (n : Nat) (l : List Byte) : List Byte :=
  let p := shakePad l
  let a := (List.range (p.length / 136)).foldl (fun a i => absorb a ((p.drop (136 * i)).take 136)) (List.replicate 25 0)
  ((a.take 17).flatMap fun x => bytesLE 8 x.toNat).take n

end Sys2Proof.Machine
end

