-- ==== Sys2Proof/Machine/Service.lean ====
section
/-!
DEFINITION. Service pairs (R312, R314), throttling (R311), boot and device reset (R390, R391), function-level reset (R386),
measurements (R385), rollback and image updates (R392, R394), and fatal errors (R393).
-/
namespace Sys2Proof.Machine

/-! ## The leader (R312, R314) -/

def healthy (s : State) (d : Nat) : Bool := decide (d < 4) && s.regBits 0 d 1 == 1
def fenced (s : State) (d : Nat) : Bool := s.regBits 0 (4 + d) 1 == 1
def leader (s : State) : Nat := s.regBits 0 8 2

/-- HBW and LEADW (Table 15.2). -/
def hbwAt : Nat := sysBase + 0x400000
def leadwAt : Nat := sysBase + 0x400040
def hbw (s : State) : Nat := natLE (s.physBytes hbwAt 8)
def leadw (s : State) : Nat := natLE (s.physBytes leadwAt 8)

/-- A service pair's access to one of them waits (R363, R325). -/
def pairHeld (s : State) (a : Nat) (wr : Bool) : Bool := anyHeld s && heldKeys s (owners s) (targetOf a false 0).key 8 wr

/-- The failed-boot count of a bank. -/
def bankCount (s : State) (b : Bool) : Nat := if b then s.counts.2 else s.counts.1
def setBankCount (s : State) (b : Bool) (n : Nat) : State :=
  { s with counts := if b then (s.counts.1, n) else (n, s.counts.2) }

/-- LEADER_ELECTION (R312): the lowest healthy die leads, and the running bank's count is cleared (R391); with none, FATAL. -/
def execLeaderElection (s : State) : Host.Outcome State Fault Refusal :=
  if s.elected then .next s
  else match [0, 1, 2, 3].find? (healthy s) with
    | none => .next { fatalError s .everyServicePairFailed with elected := true }
    | some d =>
      if pairHeld s leadwAt true then .next s else
      let s1 := (pairWrite s d leadwAt (bytesLE 8 (2 ^ 32 + d))).setRegBits 0 8 2 d
      .next { setBankCount s1 s1.bank 0 with elected := true }

/-- The pair of a die runs: it has not stopped. -/
def pairRuns (s : State) (d : Nat) : Bool := (s.pairs[d]?).any fun p => !p.halted

/-- The pair of a die stops. -/
def haltPair (s : State) (d : Nat) : State :=
  { s with pairs := (s.pairs.zipIdx).map fun x => if x.2 = d then { x.1 with halted := true } else x.1 }

/-- LOCKSTEP_MISMATCH (R312): the pair stops, and its HEALTHY bit goes; the last one is a fatal error (R393). -/
def execLockstepMismatch (die : Nat) (s : State) : Host.Outcome State Fault Refusal :=
  if !pairRuns s die then .next s
  else
    let s1 := haltPair (s.setRegBits 0 die 1 0) die
    let failed : Bool := s1.pairs.all fun p => p.halted
    .next (if failed || (s.elected && s1.regBits 0 0 4 == 0) then fatalError s1 .everyServicePairFailed else s1)

/-- A pair that leads. -/
def leads (s : State) (d : Nat) : Bool := s.elected && healthy s d && !fenced s d && leader s == d

/-- HEARTBEAT (R314). -/
def execHeartbeat (s : State) : Host.Outcome State Fault Refusal :=
  if leads s (leader s) && !pairHeld s hbwAt true then .next (pairWrite s (leader s) hbwAt (bytesLE 8 (hbw s + 1))) else .next s

/-- HEARTBEAT_TIMEOUT (R314): a healthy follower has seen no change of HBW for 40 ms, and waits its rank. -/
def execHeartbeatTimeout (die : Nat) (s : State) : Host.Outcome State Fault Refusal :=
  if !s.elected || !healthy s die || fenced s die || leader s == die || s.takingOver == some die || (s.takeover.any fun t => t.die == die) ||
      pairHeld s hbwAt false || pairHeld s leadwAt false then
    .next s
  else .next { s with takeover := s.takeover ++ [{ die := die, hbw := BitVec.ofNat 64 (hbw s), leadw := BitVec.ofNat 64 (leadw s) }] }

/-- Every access window of an IID goes. -/
def denyAll (s : State) (iid : Nat) : State :=
  (List.range 10).foldl (fun s t => (List.range 8).foldl (fun s i => s.setReg (0x110000 + 0x4000 * t + 64 * iid + 8 * i) 0) s) s

/-- The first step of a takeover: TKO := 1, and the old leader is fenced. -/
def beginTakeover (s : State) (die : Nat) (t : Waiting) : State :=
  let old := t.leadw.toNat % 4
  let s1 := writePhys (s.setRegBits 0 10 1 1) leadwAt (bytesLE 8 ((t.leadw.toNat / 2 ^ 32 + 1) * 2 ^ 32 + die))
  { (denyAll s1 (0x30 + old)).setRegBits 0 (4 + old) 1 1 with takingOver := some die }

/-- Its last steps: the new leader, which finds the queues and the page faults as they stand, announces itself, and runs the
frame-table command that has waited. -/
def endTakeover (s : State) (die : Nat) : State :=
  settleFtcmd (notify { (s.setRegBits 0 8 2 die).setRegBits 0 10 1 0 with takingOver := none } 0 3)

/-- TAKEOVER_ATTEMPT (R314): with HBW unchanged and the CAS on LEADW successful, the follower's takeover begins; the follower whose
takeover is in progress ends it. -/
def execTakeoverAttempt (die : Nat) (s : State) : Host.Outcome State Fault Refusal :=
  if s.takingOver = some die then if healthy s die then .next (endTakeover s die) else .next s
  else match s.takeover.find? fun t => t.die == die with
    | none => .next s
    | some t =>
      if pairHeld s hbwAt false || pairHeld s leadwAt true then .next s else
      let s1 : State := { s with takeover := s.takeover.filter fun t => t.die != die }
      if !healthy s die || !pairAllowed s die leadwAt true true || hbw s != t.hbw.toNat || leadw s != t.leadw.toNat then .next s1
      else .next (beginTakeover s1 die t)

/-! ## Register writes (R313 to R315, R375, R376) -/

/-- The power state that a write to a function's power management register asks for: D0 and D3hot alone (R315). -/
def setPower (s : State) (fn v : Nat) : State :=
  match v % 4 with
  | 0 => { s with d3hot := s.d3hot.filter fun x => x != fn }
  | 3 => { s with d3hot := if s.d3hot.contains fn then s.d3hot else s.d3hot ++ [fn] }
  | _ => s

/-- The place of the power management register in a function's configuration space: the model's own, log entry 53. -/
def powerReg : Nat := 0x48

/-- A register of a mailbox request area that the executive holds: MBDB is 1 (R316). -/
def requestHeld (s : State) (off : Nat) : Bool :=
  decide (0x200000 ≤ off) && decide (off < 0x310000) && decide (0x1000 ≤ off % 0x10000) && decide (off % 0x10000 < 0x1800) &&
    mbdb s ((off - 0x200000) / 0x10000)

/-- A register write at a port. A core's has passed the access tables at its store. A service pair reaches every range that
its windows allow; what a fenced pair writes is dropped (R314). -/
def portWrite (s : State) (v : Nat) : RegPort → State
  | .core off => writeRegister s off v
  | .host fn off => hostWrite s fn off fun s o => if requestHeld s o then s else writeRegister s o v
  | .config fn off => if off = powerReg then setPower s fn v else s
  | .pair d off => if fenced s d || !tableAllows s 4 (0x30 + d) off false true then s else writeRegister s off v

/-- The port exists: its offset is that of an 8 B register, and its initiator a function of the device or a pair that runs. -/
def portThere (s : State) : RegPort → Bool
  | .core off => off % 8 == 0 && decide (off < 2 ^ 24)
  | .host fn off => decide (fn < 17) && off % 8 == 0 && decide (off < if fn = 0 then 2 ^ 24 else 2 ^ 16)
  | .config fn off => decide (fn < 17) && off % 8 == 0 && decide (off < 2 ^ 12)
  | .pair d off => pairRuns s d && off % 8 == 0 && decide (off < 2 ^ 24)

/-- REGISTER_WRITE (R313): an 8 B register of the control block is written. -/
def execRegisterWrite (port : RegPort) (v : W64) (s : State) : Host.Outcome State Fault Refusal :=
  if portThere s port then .next (portWrite s v.toNat port) else .next s

/-! ## Throttling (R311) -/

/-- A die's clock step goes to `n`. -/
def setStep (s : State) (die n : Nat) : State := { s with pwr := setAt s.pwr die (BitVec.ofNat 2 n) }

/-- THROTTLE_DOWN (R311). -/
def execThrottleDown (die : Nat) (s : State) : Host.Outcome State Fault Refusal :=
  match s.pwr[die]? with
  | none => .next s
  | some x => if x.toNat < 3 then .next (setStep s die (x.toNat + 1)) else .next s

/-- THROTTLE_UP (R311). -/
def execThrottleUp (die : Nat) (s : State) : Host.Outcome State Fault Refusal :=
  match s.pwr[die]? with
  | none => .next s
  | some x => if 0 < x.toNat then .next (setStep s die (x.toNat - 1)) else .next s

/-! ## Boot and device reset (R390, R391) -/

/-- The image that a bank holds. -/
def imageOf (s : State) (b : Bool) : Nat := if b then s.images.2 else s.images.1

/-- A bank that the ROM may boot: its image verifies and its count has not reached 2. -/
def bankUsable (s : State) (b : Bool) : Bool := Config.bankVerifies (imageOf s b) && decide (bankCount s b < 2)

/-- The bank that the ROM boots. -/
def chooseBank (s : State) : Option Bool :=
  if bankUsable s s.nextBank then some s.nextBank
  else if bankUsable s (!s.nextBank) then some (!s.nextBank)
  else none

/-- The caches lose what they hold; whether a dirty line had reached memory is free. -/
def loseCaches (s : State) : State :=
  let step (a : State × Nat) (d : DirEnt) : State × Nat :=
    (if Config.freeBit (8 * a.2 + 5) then writeBackEnt a.1 d else discardEnt a.1 d, a.2 + 1)
  let (s1, n) := s.dir.foldl step (s, s.free)
  { s1 with dir := [], free := n }

/-- Everything at its reset value, but for memory, flash, the cycle counts and Jorac's cache, which lies in memory. -/
def afterReset (s : State) : State :=
  { State.reset with
    mem := s.mem, clk := s.clk, images := s.images, counts := s.counts, bank := s.bank, nextBank := s.nextBank,
    booted := s.booted, opCtr := s.opCtr, opKey := s.opKey, jorac := s.jorac, host := s.host, scans := s.scans, agenda := s.agenda, pace := s.pace,
    uids := s.uids, free := s.free, aged := s.clk.map (fun c => c.toNat / 2 ^ 16), quotaAt := s.clk.map (fun c => c.toNat) }

/-- The reset of the device: the ROM boots a bank that verifies, its count raised first, or sets FATAL (R391). -/
def resetDevice (s : State) : State :=
  let s1 := afterReset (loseCaches s)
  match chooseBank s with
  | none => s1.setRegBits 0 11 1 1
  | some b =>
    let same := Config.imageBytes 4 (imageOf s b) == Config.imageBytes 4 s.booted
    let s2 := setBankCount s1 b (bankCount s b + 1)
    { s2 with bank := b, booted := imageOf s b, jorac := if same then s.jorac else [] }

/-- DEVICE_RESET (R391). -/
def execDeviceReset (s : State) : Host.Outcome State Fault Refusal := .next (resetDevice s)

/-! ## Function-level reset (R386) -/

/-- EN := 0 in the queue descriptors of a glade. -/
def disableGladeQueues (s : State) (g : Nat) : State :=
  (List.range 1024).foldl (fun s q =>
    let off := 0x20000 + 32 * q + 16
    if s.regBits off 9 1 = 1 ∧ s.regBits off 10 4 = g then s.setRegBits off 9 1 0 else s) s

/-- A block of the glade stops without save, its work in flight discarded. -/
def stopBlock (s : State) (b : Block) : State :=
  let s1 := freeFrames s b
  leaveCore { s1 with copies := s1.copies.filter fun c => c.blk != b.uid } b.uid true

/-- An owner has something that the end of its context removes (R267). -/
def owns (s : State) (o : Nat) : Bool :=
  s.launches.any (fun l => l.oid == o) || s.blazes.any (fun b => b.oid == o) || s.listed.any (fun l => l.oid == o) ||
    s.pubs.any (fun p => p.oid == o) || s.runs.any (fun r => r.req.oid == o) || s.runReqs.any (fun r => r.oid == o) ||
    s.saveSlots.any (fun x => x.1 == o) || s.pfs.any (fun p => p.oid == o)

/-- An owner of a glade: its context names the glade, or a launch of it does. -/
def ownerIn (s : State) (g o : Nat) : Bool := s.ctxGlade o == g || s.launches.any fun l => l.oid == o && l.glade == g

/-- Step 3: blocks, contexts, phases, blazes and runs of the glade go. -/
def stopGlade (s : State) (g : Nat) : State :=
  let s1 : State := { s with path := s.path.filter fun p => p.glade != g }
  let s2 := (s1.blocks.filter fun b => b.glade == g).foldl stopBlock s1
  (List.range 4096).foldl (fun s o =>
    if !ownerIn s g o then s
    else
      let s3 := if owns s o then removeOwner s o else s
      if s3.ctxValid o && s3.ctxGlade o == g then s3.setRegBits (0x40000 + 64 * o) 46 1 0 else s3) s2

/-- A line lies in a glade's ranges. -/
def lineInGlade (s : State) (g line : Nat) : Bool :=
  decide (128 * line < 2 ^ 37) && inRange s g (128 * line / 2 ^ 35) (128 * line % 2 ^ 35)

/-- A frame has a byte in a glade's ranges. -/
def frameInGlade (s : State) (g p : Nat) (f : Frame) : Bool :=
  [0, 1, 2, 3].any fun st => (!f.lin || st == p / 2 ^ 19) && inRange s g st (p % 2 ^ 19 * 2 ^ 16)

/-- Step 6: host-biased frames go to device bias, and the ranges are zero. -/
def scrubGlade (s : State) (g : Nat) : State :=
  let unbias (s : State) (x : Nat × Frame) : State :=
    if x.2.hb && frameInGlade s g x.1 x.2 then s.setFrame x.1 { x.2 with hb := false } else s
  let s1 := s.frames.foldl unbias s
  let gone := s1.dir.filter fun d => lineInGlade s g d.line
  let s2 := gone.foldl writeBackEnt s1
  let clr (w : Wave) : Wave := match w.reserv with
    | some (k, _) => if lineInGlade s g (k / 128) then { w with reserv := none } else w
    | none => w
  let zeroed (c : Nat × Byte) : Bool := lineInGlade s g (c.1 / 128)
  let torn := (s2.mem.filter zeroed).foldl (fun a c => tearKey a c.1 0) s2
  { torn with mem := torn.mem.filter (fun c => !zeroed c), dir := torn.dir.filter (fun d => !lineInGlade s g d.line),
              blocks := torn.blocks.map fun b => { b with waves := b.waves.map clr } }

/-- Flips that have started on the glade's frames complete before step 2 (R394). -/
def gladeFlips (s : State) (g : Nat) : List (Nat × Bool × Nat) := s.flips.filter fun x => frameInGlade s g x.1 (s.frame x.1)

/-- STATE and RSTEP of glade `g`. -/
def setRstep (s : State) (g st k : Nat) : State := s.setRegBits (0x100000 + 64 * g) 8 8 (st + 16 * k)

/-- The next step of the reset of function `n`, glade `g`, from the one that RSTEP names (R386). -/
def resetStep (s : State) (g n : Nat) : State :=
  match s.rstep g with
  | 0 => setRstep (disableGladeQueues s g) g 2 1
  | 1 => setRstep ((gladeFlips s g).foldl (fun s x => finishFlip s x.1 x.2.1) s) g 2 2
  | 2 => setRstep (stopGlade s g) g 2 3
  | 3 => setRstep (sweepAll s true fun t => t.2 == g) g 2 4
  | 4 => setRstep { s with ide := s.ide.filter fun x => x.1.stream != .selective n } g 2 5
  | 5 => setRstep (scrubGlade s g) g 3 6
  | _ => tell (setRstep (setPower s n 0) g 0 0) (.resetDone n)

/-- FUNCTION_LEVEL_RESET (R386): of virtual function n, one step each time, or of the device for function 0. Flips that have
started on the glade's frames complete before step 2 (R394). -/
def execFunctionLevelReset (n : Nat) (s : State) : Host.Outcome State Fault Refusal :=
  if n = 0 then .next (resetDevice s)
  else if 17 ≤ n then .next s
  else if s.rstep (n - 1) == 1 && (gladeFlips s (n - 1)).any fun x => flipWaits s (s.frame x.1).lin x.1 x.2.2 then
    .next s
  else .next (resetStep s (n - 1) n)

/-! ## Measurements (R385) -/

/-- The registers that a measurement covers, as bytes. -/
def regBytes (s : State) (offs : List Nat) : List Byte := offs.flatMap fun o => bytesLE 8 (s.reg o).toNat

def rangeOffs (base n : Nat) : List Nat := (List.range n).map fun i => base + 8 * i

/-- What a measurement index digests (Table 20.5). Images are those that the last boot started. -/
def measured (s : State) (idx : Nat) : List Byte :=
  if idx = 1 then Config.romRecord
  else if idx = 3 then regBytes s (rangeOffs l2ctlOff 65 ++ [0x100400])
  else if idx = 5 then regBytes s (rangeOffs 0x100000 128 ++ rangeOffs 0x110000 20480)
  else if 16 ≤ idx then
    let g := idx - 16
    regBytes s (rangeOffs (0x100000 + 64 * g) 8 ++ (List.range 10).flatMap fun t =>
      rangeOffs (0x110000 + 0x4000 * t + 64 * g) 8 ++ rangeOffs (0x110000 + 0x4000 * t + 64 * (0x11 + g)) 8)
  else Config.imageBytes idx s.booted

/-- The indices that a function reports. -/
def reports (fn idx : Nat) : Bool :=
  (decide (1 ≤ idx) && decide (idx ≤ 4)) || (fn == 0 && (idx == 5 || (decide (16 ≤ idx) && decide (idx ≤ 31)))) ||
    (decide (1 ≤ fn) && idx == 15 + fn)

/-- A measurement value (R384). -/
def measurement (s : State) (idx : Nat) : List Byte := shake256 64 (measured s idx)

/-- The signature of a response under the alias key, which measurement 2 enters (R384). -/
def signed (s : State) (l : List Byte) : List Byte := Config.ed448 (Config.aliasKey (measurement s 2)) l

/-- The bytes of a text. -/
def textBytes (x : String) : List Byte := x.toList.map fun c => BitVec.ofNat 8 c.toNat

/-- The algorithms of SPDM: asymmetric, AEAD, DHE and transcript hash (R384). -/
def spdmAlgorithms : List String := ["EdDSA Ed448", "AES-256-GCM", "secp384r1", "SHA3-512"]

/-- A session that opens or closes, with the response's signature. -/
def sessionAnswer (s : State) (fn : Nat) (isOpen : Bool) : HostMsg := .session fn isOpen (signed s [BitVec.ofNat 8 isOpen.toNat])

/-- What a function's DOE mailbox answers (R384), each response signed under the alias key; slot 0 alone holds a certificate chain. -/
def spdmAnswer (s : State) (fn : Nat) : SpdmRequest → State
  | .algorithms => tell s (.algorithms fn spdmAlgorithms (signed s (spdmAlgorithms.flatMap textBytes)))
  | .certificate slot =>
    let chain := if slot = 0 then Config.certificateChain else []
    tell s (.certificate fn slot chain (signed s chain))
  | .openSession => tell { s with sessions := fn :: s.sessions.filter fun x => x != fn } (sessionAnswer s fn true)
  | .closeSession => tell { s with sessions := s.sessions.filter fun x => x != fn } (sessionAnswer s fn false)
  | .measurement idx => tell s (.measure fn idx (measurement s idx) (signed s (measurement s idx)))

/-- The request is one that the function answers: a measurement is one that it reports (R385). -/
def spdmAnswers (fn : Nat) : SpdmRequest → Bool
  | .measurement idx => reports fn idx
  | _ => true

/-- SPDM_GET_MEASUREMENTS (R384, R385): a request of a function's DOE mailbox. -/
def execSpdmGetMeasurements (fn : Nat) (r : SpdmRequest) (s : State) : Host.Outcome State Fault Refusal :=
  if 17 ≤ fn ∨ spdmAnswers fn r = false then .next s else .next (spdmAnswer s fn r)

/-! ## Rollback and updates (R392, R394) -/

/-- A record of Table 20.8's form passes the checks of R392: it is signed with the current operator key, and no update is in progress
(R394). -/
def recordAccepted (s : State) (x : Nat) : Bool :=
  bitsOf x 0 32 == 0x4E395242 && bitsOf x 448 64 == Config.serial.toNat && decide (s.opCtr.toNat < bitsOf x 416 32) &&
    s.updating.isNone && Config.operatorSignature (bytesLE 192 x) s.opKey

/-- ROLLBACK_RECORD (R392): an accepted record marks a bank to boot, or replaces the operator key. -/
def execRollbackRecord (r : BitVec 1536) (s : State) : Host.Outcome State Fault Refusal :=
  let x := r.toNat
  let target := bitsOf x 408 8
  let s1 : State := { s with opCtr := BitVec.ofNat 32 (bitsOf x 416 32) }
  if recordAccepted s x = false then .next (tell s (.rollback false))
  else match Config.newOperatorKey (bytesLE 192 x) with
    | some k => .next (tell { s1 with opKey := k } (.rollback true))
    | none =>
      if 2 ≤ target then .next (tell s (.rollback false))
      else .next (tell (setBankCount { s1 with nextBank := target == 1 } (target == 1) 0) (.rollback true))

/-- FIRMWARE_IMAGE_UPDATE (R394): an update of a bank starts, or ends with a new image in the bank. -/
def execFirmwareImageUpdate (u : ImageUpdate) (s : State) : Host.Outcome State Fault Refusal :=
  match u, s.updating with
  | .start b, none => .next (tell { s with updating := some b } .update)
  | .finish, some b =>
    let (n, s1) := s.fresh
    .next (tell { s1 with updating := none, images := if b then (s1.images.1, n + 2) else (n + 2, s1.images.2) } .update)
  | _, _ => .next s

/-- FATAL_ERROR (R393). -/
def execFatalError (cause : FatalCause) (s : State) : Host.Outcome State Fault Refusal :=
  if s.fatal ∨ (cause = .everyServicePairFailed ∧ s.regBits 0 0 4 ≠ 0) then .next s
  else .next (fatalError s cause)

end Sys2Proof.Machine
end

