-- ==== Sys2Proof/Machine/Biline.lean ====
section
/-!
DEFINITION. Biline containers (R395 to R400): the header and the varints, opcodes, references and operand kinds, definitions, types,
control flow, tokens, claims and live registers, with the status and the body offset of the first fault (Tables 21.4 and 21.5).
-/
namespace Sys2Proof.Machine

/-! ## The container (R400) -/

/-- An operation: where it starts in the body, its varints, and the number of its first result. -/
structure JOp where
  pos   : Nat
  opc   : Nat
  ty    : Nat
  g     : Nat
  x     : Nat
  nr    : Nat
  refs  : List Nat
  first : Nat
  deriving DecidableEq, Repr

/-- A block: where it starts in the body, and its operations. -/
structure JBlock where
  pos : Nat
  ops : List JOp
  deriving DecidableEq, Repr

/-- An unsigned LEB128 number of at most so many bytes. -/
def varint : Nat → List Byte → Option (Nat × List Byte)
  | 0, _ => none
  | _ + 1, [] => none
  | n + 1, b :: t =>
    if b.toNat < 128 then some (b.toNat, t)
    else (varint n t).map fun r => (b.toNat - 128 + 128 * r.1, r.2)

/-- A varint of the container: 10 bytes at most, below 2^64. -/
def readVarint (l : List Byte) : Option (Nat × List Byte) :=
  match varint 10 l with
  | some (v, t) => if v < 2 ^ 64 then some (v, t) else none
  | none => none

/-- `n` varints. -/
def readVarints : Nat → List Byte → Option (List Nat × List Byte)
  | 0, l => some ([], l)
  | n + 1, l =>
    match readVarint l with
    | none => none
    | some (v, t) => (readVarints n t).map fun r => (v :: r.1, r.2)

/-- `n` varints; none where the list is too short for them. -/
def readMany (n : Nat) (l : List Byte) : Option (List Nat × List Byte) := if l.length < n then none else readVarints n l

/-- One operation of a body of `len` bytes, with `vals` values defined before it. -/
def readOp (len vals : Nat) (l : List Byte) : Option (JOp × List Byte) :=
  match readMany 5 l with
  | some ([ot, g, x, nr, no], t) =>
    (readMany no t).map fun r =>
      ({ pos := len - l.length, opc := ot / 32, ty := ot % 32, g := g, x := x, nr := nr, refs := r.1, first := vals }, r.2)
  | _ => none

/-- `n` operations, and the values defined after them, or where the first faulty one begins. An operation takes a byte at least, so a
count above what is left runs past the body where the whole count would. -/
def readOps (len : Nat) : Nat → Nat → List Byte → Except Nat (List JOp × Nat × List Byte)
  | 0, vals, l => .ok ([], vals, l)
  | n + 1, vals, l =>
    match readOp len vals l with
    | none => .error (len - l.length)
    | some (o, t) => (readOps len n (vals + o.nr) t).map fun r => (o :: r.1, r.2)

/-- `n` blocks, or where the first faulty operation or block begins. -/
def readBlocks (len : Nat) : Nat → Nat → List Byte → Except Nat (List JBlock × Nat × List Byte)
  | 0, vals, l => .ok ([], vals, l)
  | n + 1, vals, l =>
    match readVarint l with
    | none => .error (len - l.length)
    | some (k, t) =>
      match readOps len (min k (t.length + 1)) vals t with
      | .error d => .error d
      | .ok (ops, v, r) => (readBlocks len n v r).map fun q => ({ pos := len - l.length, ops := ops } :: q.1, q.2)

/-- Fields of the header (Table 21.2). -/
def jMagic (h : Nat) : Nat := bitsOf h 0 32
def jVer (h : Nat) : Nat := bitsOf h 32 16
def jNparam (h : Nat) : Nat := bitsOf h 52 5
def jSmax (h : Nat) : Nat := bitsOf h 57 4
def jMmax (h : Nat) : Nat := bitsOf h 61 3
def jNblk (h : Nat) : Nat := bitsOf h 64 32
def jNval (h : Nat) : Nat := bitsOf h 96 32
def jBody (h : Nat) : Nat := bitsOf h 128 32

/-- The header is one that Jorac accepts. -/
def jHeaderOk (h : Nat) : Bool :=
  jMagic h == 0x4E4C4942 && jVer h == 1 && bitsOf h 48 4 == 0 && bitsOf h 160 96 == 0 && decide (jNparam h ≤ 16) &&
    decide (jSmax h ≤ 10) && decide (jMmax h ≤ 4) && decide (1 ≤ jNblk h)

/-- The blocks of a body that has exactly them and the number of values, or the offset of what runs past it or is left over. -/
def jBlocks (h : Nat) (body : List Byte) : Except Nat (List JBlock × Nat) :=
  match readBlocks body.length (min (jNblk h) (body.length + 1)) (jNparam h) body with
  | .ok (bs, v, []) => .ok (bs, v)
  | .ok (_, _, l) => .error (body.length - l.length)
  | .error d => .error d

/-! ## Opcodes, references and words (R397, R400) -/

/-- Opcodes of Trikan that Biline rejects (R397). -/
def jExcluded (opc : Nat) : Bool :=
  [0x280, 0x281, 0x282, 0x283, 0x284, 0x285, 0x1C4, 0x1C5, 0x1C6, 0x1C7, 0x1C1, 0x1C2, 0x1C3, 0x382, 0x2C0].contains opc

/-- An opcode and a type that Biline has. -/
def jAssigned (o : JOp) : Bool :=
  if 0x3C0 ≤ o.opc then decide (o.opc ≤ 0x3C6)
  else match specOf o.opc with
    | none => false
    | some sp => !jExcluded o.opc && sp.tys.contains (Ty.ofCode o.ty)

/-- What a reference names. -/
inductive JRef where
  | value (n : Nat)
  | imm (n : Nat)
  | fixed (c : Nat)
  | reserved
  deriving DecidableEq, Repr

def jRef (r : Nat) : JRef :=
  match r % 4 with
  | 0 => .value (r / 4)
  | 1 => .imm (r / 4)
  | 2 => .fixed (r / 4)
  | _ => .reserved

def jImm (r : Nat) : Option Nat := match jRef r with
  | .imm n => some n
  | _ => none

/-- A reference that Biline allows. -/
def jRefOk (r : Nat) : Bool :=
  match jRef r with
  | .fixed c => (decide (784 ≤ c) && decide (c ≤ 791)) || (decide (820 ≤ c) && decide (c ≤ 825)) || (decide (896 ≤ c) && decide (c ≤ 959))
  | .reserved => false
  | _ => true

/-- Operand positions that hold a predicate and nothing else (Tables 4.1, 5.1 and 5.5, and R397 for BRA). -/
def jPredAt (opc k : Nat) : Bool :=
  match opc with
  | 0x002 | 0x003 => k == 3
  | 0x143 | 0x145 | 0x188 | 0x1C0 => k == 1
  | 0x144 => k == 1 || k == 2
  | _ => false

/-- The operand that stands for a reference in the Trikan word; values stand where registers would. -/
def jOperand (opc k r : Nat) : Operand :=
  match jRef r with
  | .value _ => if jPredAt opc k then .p 0 else .v 0
  | .imm n => if n < 64 then Operand.ofCode (832 + n) else .none
  | .fixed c => Operand.ofCode (c % 1024)
  | .reserved => .none

/-- REDUCE and RDLANE, whose result is the scalar that Jorac pops from e6; their word has no destination (R396). -/
def jToE6 (opc : Nat) : Bool := opc == 0x189 || opc == 0x18B

/-- IADDC and ISUBB, whose second result is the predicate that stands at OP4. -/
def jCarries (opc : Nat) : Bool := opc == 0x002 || opc == 0x003

/-- The Trikan word built from an operation: sources at OP1 to OP4, the first result at OP0, a carry-out after the sources. -/
def jFields (o : JOp) : Fields :=
  let dest : Operand := if o.opc = 0x188 ∧ o.refs[1]? ≠ some 13 then .p 0 else .v 0
  let rest := o.refs.zipIdx.map (fun p => jOperand o.opc (p.2 + 1) p.1) ++ if jCarries o.opc then List.replicate (o.nr - 1) (.p 0) else []
  let at1 (i : Nat) : Operand := (rest[i]?).getD .none
  { ro := BitVec.ofNat 4 (o.x % 8), fsel := false, yld := false, stall := 0, hint := BitVec.ofNat 3 (o.x / 8), gc := false,
    gbn := false, gb := 15#4, gan := o.g % 2 == 1, ga := if o.g = 0 then 15#4 else 0#4,
    sm1 := BitVec.ofNat 12 (o.x / 2 ^ 6), sm2 := BitVec.ofNat 12 (o.x / 2 ^ 18), sm3 := BitVec.ofNat 12 (o.x / 2 ^ 30),
    op0 := if o.opc = 0x2C7 then .e (if o.refs[1]? = some 65 then 0 else 1) else if o.nr = 0 ∨ jToE6 o.opc = true then .none else dest, op1 := at1 0, op2 := at1 1, op3 := at1 2, op4 := at1 3,
    ty := Ty.ofCode o.ty }

/-- How many values of its type a destination holds: a register range holds several, a register or a pair one. -/
def destsOf (opc : Nat) (f : Fields) : Nat :=
  match opc with
  | 0x182 | 0x183 | 0x184 | 0x185 | 0x186 | 0x187 | 0x2C5 | 0x2C8 | 0x341 | 0x342 | 0x343 => max 1 (spanOf opc f 0 / if is64 f.ty then 2 else 1)
  | 0x200 | 0x202 => spanOf opc f 0 / if is64 f.ty then 2 else 1
  | 0x2C7 => 0
  | _ => 1

/-- How many results an operation has: as many as its destination holds values, so that each takes a destination's place (R396); two
where there is a carry-out; none where OP0 may be left out (log entry 7). -/
def jResultsOk (o : JOp) (f : Fields) (use0 : Bool) : Bool :=
  if jToE6 o.opc then o.nr == 1
  else if jCarries o.opc then o.nr == 2
  else if use0 then o.nr == destsOf o.opc f || (o.nr == 0 && decide (o.opc < 0x140))
  else o.nr == 0

/-- Kinds that stand at a value source (Table 4.1): a value, the queues e2, e4 and e7, the lane index, or a constant that the read type
has (R37, R38). -/
def sourceOk (t : Ty) (o : Operand) : Bool :=
  match o with
  | .v _ | .zero | .ones | .litLo => true
  | .litHi => !is64 t
  | .e n => !is64 t && [2, 4, 7].contains n.val
  | .lane | .wave | .int _ => (intConst t 0).isSome
  | .flt _ => (fltConst t 0).isSome
  | _ => false

/-- An integer constant from `lo` to `hi`. -/
def intIn (lo hi : Nat) (o : Operand) : Bool :=
  match o with
  | .int n => decide (lo ≤ n.val) && decide (n.val ≤ hi)
  | _ => false

/-- A value, or one of some operands that are no values. -/
def valueOr (l : List Operand) (o : Operand) : Bool := o == .v 0 || l.contains o

/-- What position `k` of an opcode accepts (R37): the operand kinds of the instruction's description. -/
def kindOk (opc : Nat) (f : Fields) (k : Nat) : Bool :=
  let o := f.op k
  let int (lo hi : Nat) : Bool := intIn lo hi o
  let value : Bool := match o with
    | .e 6 => isScalar opc f && !is64 (readTy opc f k)
    | .e 2 => !isScalar opc f && sourceOk (readTy opc f k) o
    | _ => sourceOk (readTy opc f k) o
  match opc, k with
  | 0x002, 3 | 0x003, 3 | 0x002, 4 | 0x003, 4 | 0x143, 1 | 0x145, 1 | 0x188, 1 | 0x144, 1 => o == .p 0
  | 0x144, 2 => if intIn 0 7 f.op3 then o == .p 0 else o == .none
  | 0x014, 3 => int 0 31
  | 0x012, 4 | 0x013, 4 | 0x014, 4 | 0x100, 2 | 0x100, 3 | 0x18A, 3 | 0x200, 3 | 0x202, 3 | 0x201, 4 | 0x203, 4 | 0x340, 4 => true
  | 0x102, 2 => int 0 (elemCount f.ty - 1)
  | 0x104, 2 => int 0 1
  | 0x104, 3 => int 1 (elemWidth f.ty)
  | 0x103, _ | 0x104, _ | 0x180, 1 | 0x182, _ | 0x183, _ | 0x184, _ | 0x185, _ | 0x186, _ | 0x187, _ | 0x181, 2 | 0x288, 1 | 0x342, 1
  | 0x342, 2 | 0x343, _ | 0x344, _ | 0x381, 2 | 0x2C7, 1 | 0x340, 1 | 0x340, 2 | 0x341, 1 => o == .v 0
  | 0x180, 2 | 0x181, 1 | 0x181, 4 => o == .v 0 || int 0 63
  | 0x181, 3 | 0x2C5, 2 | 0x2C8, 2 => int 1 8
  | 0x140, 3 => int 0 5
  | 0x141, 3 => int 0 13
  | 0x144, 3 => int 0 9
  | 0x188, 2 | 0x340, 3 | 0x341, 2 => int 0 3
  | 0x189, 2 | 0x18A, 2 => int 0 5
  | 0x189, 1 => value || o == .e 5
  | 0x18B, 1 => valueOr [.e 5] o
  | 0x18B, 2 => o == .v 0 || int 0 31
  | 0x1CA, 1 => int 1 63
  | 0x202, 1 | 0x203, 1 => valueOr [.zero] o
  | 0x240, 1 | 0x241, 1 | 0x242, 1 | 0x246, 1 => valueOr (if f.inStash then [.zero] else [.litLo]) o
  | 0x200, 1 | 0x201, 1 | 0x207, 1 | 0x243, 1 | 0x244, 1 | 0x245, 1 | 0x204, 1 | 0x302, 1 | 0x303, 1 => valueOr [.litLo] o
  | 0x200, 2 | 0x201, 2 | 0x202, 2 | 0x203, 2 | 0x207, 2 | 0x240, 2 | 0x241, 2 | 0x242, 2 | 0x243, 2 | 0x244, 2 | 0x245, 2 | 0x246, 2 =>
    [.zero, .litLo, .litHi].contains o || int 0 63
  | 0x201, 3 | 0x203, 3 => if f.op4 = .none then value else o == .v 0
  | 0x204, 2 => valueOr [.zero, .litLo, .litHi] o
  | 0x204, 3 => valueOr [.litLo, .litHi] o
  | 0x204, 4 | 0x205, 1 => int 0 15
  | 0x206, 1 => int 0 16
  | 0x240, 4 | 0x241, 4 => int 0 8
  | 0x286, 1 => int 0 8
  | 0x2C1, 1 | 0x2C3, 1 | 0x2C4, 1 | 0x2C4, 3 | 0x2C5, 1 => valueOr [.zero, .litLo, .litHi] o || int 0 63
  | 0x2C4, 2 => valueOr [.litLo, .litHi] o || int 1 63
  | 0x2C5, 3 => o == .none || int 1 1
  | 0x2C7, 2 => int 1 8 || int 16 16
  | 0x2C8, 1 => o == .e 2
  | 0x301, 1 => valueOr [.zero, .litLo, .litHi] o || int 0 63
  | 0x301, 2 => o == .none || int 16 16
  | 0x302, 2 | 0x303, 2 => valueOr [.zero] o
  | 0x302, 3 | 0x303, 3 => (f.op2 == .zero) == (o == .none) && (o == .none || valueOr [.zero, .ones, .litLo, .litHi] o || int 0 63)
  | 0x304, 1 | 0x305, 1 | 0x306, 1 => valueOr [.litLo] o || int 0 63
  | 0x304, 2 => valueOr [.none, .zero, .litLo, .litHi] o || int 0 63
  | 0x304, 3 => int 4 7
  | 0x342, 3 => valueOr [.zero] o || match o with
    | .flt _ => true
    | _ => false
  | 0x380, 1 | 0x383, 1 => int 0 63
  | 0x381, 1 => valueOr [.litLo, .litHi] o || int 0 63
  | 0x381, 3 => int 1 16
  | 0x381, 4 => int 0 4
  | 0x384, 1 => int 0 15
  | 0x385, 1 => int 5 5
  | 0x385, 2 => valueOr [.zero, .ones, .litLo, .litHi] o || int 0 63
  | _, _ => value

/-- The number of results, and the sources in the positions that this form uses (R37). -/
def jCountOk (o : JOp) (f : Fields) : Bool :=
  match specOf o.opc with
  | none => false
  | some sp =>
    let use := (specIn sp o.opc f).use
    let n := o.refs.length + if jCarries o.opc then o.nr - 1 else 0
    decide (n ≤ 4) && jResultsOk o f (hasBit sp.use 0) &&
      [1, 2, 3, 4].all fun k => !hasBit use k || kindOk o.opc f k

/-- Status 4 of one operation. -/
def jFormed (o : JOp) : Bool :=
  let imms (n : Nat) : Bool := o.refs.length == n && o.refs.all fun r => (jImm r).isSome
  let plain : Bool := o.g == 0 && o.x == 0
  let small (r : Nat) (lo hi : Nat) : Bool := match jImm r with
    | some n => decide (lo ≤ n) && decide (n ≤ hi)
    | none => false
  o.refs.all jRefOk && decide (o.x < 2 ^ 42) && decide (o.g ≠ 1) && match o.opc with
    | 0x3C0 => plain && o.nr == 1 && o.refs.length % 2 == 0 && (o.refs.zipIdx).all fun p =>
        if p.2 % 2 = 0 then (jImm p.1).isSome else match jRef p.1 with
          | .value _ => true
          | _ => false
    | 0x3C1 => plain && o.nr == 1 && o.refs.isEmpty
    | 0x3C2 | 0x3C3 => plain && o.nr == 0 && o.refs.length == 1 && o.refs.all fun r => match jRef r with
        | .value _ => true
        | _ => false
    | 0x3C4 | 0x3C5 => plain && o.nr == 0 && imms 2 && small (o.refs.headD 0) 1 2 && small ((o.refs[1]?).getD 0) 1 63
    | 0x3C6 => plain && o.nr == 1 && imms 2 && o.refs.all (fun r => r / 4 < 2 ^ 32) && o.ty != 31 &&
        decide (elemWidth (Ty.ofCode o.ty) * elemCount (Ty.ofCode o.ty) ≤ 64)
    | 0x1C0 => plain && o.nr == 0 && o.refs.length == 3 && (match jRef (o.refs.headD 0) with
        | .value _ => true
        | .imm n => n == 1
        | _ => false) && (o.refs.drop 1).all fun r => (jImm r).isSome
    | _ =>
      let f := jFields o
      jCountOk o f && o.refs.all (fun r => match jImm r with
        | some n => decide (n < 64)
        | none => true) && match check o.opc f with
        | .ok _ => true
        | .error _ => false

/-! ## Control flow and dominance (R395, R397, R398) -/

def isTerminator (opc : Nat) : Bool := opc == 0x1C0 || opc == 0x1C8 || opc == 0x380

/-- The blocks that a block goes to. -/
def jSuccs (b : JBlock) : List Nat :=
  match b.ops.getLast? with
  | some o => if o.opc = 0x1C0 then (o.refs.drop 1).filterMap jImm else []
  | none => []

/-- The blocks that the entry reaches without passing through `avoid`, within so many edges. -/
def jReach (bs : List JBlock) (avoid : Option Nat) : Nat → List Nat
  | 0 => if avoid = some 0 then [] else [0]
  | n + 1 =>
    let r := jReach bs avoid n
    (r ++ r.flatMap fun b => match bs[b]? with
      | some x => (jSuccs x).filter fun t => avoid != some t
      | none => []).eraseDups

/-- Block `a` dominates block `b`. -/
def jDominates (bs : List JBlock) (a b : Nat) : Bool :=
  a == b || (jReach bs none bs.length).contains a && !(jReach bs (some a) bs.length).contains b ||
    !(jReach bs none bs.length).contains b

/-- Where a value is defined: its block and the place of its operation; a parameter has no place. -/
def jDef (bs : List JBlock) (nparam v : Nat) : Option (Option (Nat × Nat)) :=
  if v < nparam then some none
  else bs.zipIdx.findSome? fun b => (b.1.ops.zipIdx).findSome? fun o =>
    if o.1.first ≤ v ∧ v < o.1.first + o.1.nr then some (some (b.2, o.2)) else none

/-- Value `v` may be used by operation `i` of block `b`. -/
def jUseOk (bs : List JBlock) (nparam v b i : Nat) : Bool :=
  match jDef bs nparam v with
  | none => false
  | some none => true
  | some (some (d, j)) => if d = b then decide (j < i) else jDominates bs d b

/-- The values that an operation uses, with the place at which each must be defined: a phi's at the end of its block. -/
def jUses (bs : List JBlock) (o : JOp) (b i : Nat) : List (Nat × Nat × Nat) :=
  let guard := if o.g < 2 then [] else [((o.g - 2) / 2, b, i)]
  let vals (l : List Nat) : List Nat := l.filterMap fun r => match jRef r with
    | .value n => some n
    | _ => none
  if o.opc = 0x3C0 then
    let pairs := (List.range (o.refs.length / 2)).map fun k => ((o.refs[2 * k]?).getD 0 / 4, (o.refs[2 * k + 1]?).getD 0 / 4)
    pairs.map fun p => (p.2, p.1, ((bs[p.1]?).map fun x => x.ops.length).getD 0)
  else guard ++ (vals o.refs).map fun v => (v, b, i)

/-- Status 5 of one operation. -/
def jDefined (bs : List JBlock) (nparam : Nat) (o : JOp) (b i : Nat) : Bool :=
  (jUses bs o b i).all fun u => jUseOk bs nparam u.1 u.2.1 u.2.2

/-- The predecessors of a block. -/
def jPreds (bs : List JBlock) (b : Nat) : List Nat := (bs.zipIdx.filter fun x => (jSuccs x.1).contains b).map fun x => x.2

/-- Status 7 of a block: it ends in its only terminator, which no guard passes over (log entry 7), its targets exist, its phis stand first
and match its predecessors. -/
def jShaped (bs : List JBlock) (x : JBlock) (b : Nat) : Bool :=
  let last := x.ops.length - 1
  let phiOk (o : JOp) : Bool :=
    let named := (List.range (o.refs.length / 2)).map fun k => (o.refs[2 * k]?).getD 0 / 4
    let ps := jPreds bs b
    named.length == ps.length && named.eraseDups.length == named.length && named.all ps.contains
  !x.ops.isEmpty && (x.ops.zipIdx.all fun o => isTerminator o.1.opc == (o.2 == last) && (!isTerminator o.1.opc || o.1.g == 0)) &&
    (jSuccs x).all (fun t => t < bs.length) &&
    (x.ops.zipIdx.all fun o => o.1.opc != 0x3C0 || (phiOk o.1 && (x.ops.take o.2).all fun q => q.opc == 0x3C0))

/-- The value is a token. -/
def isToken (bs : List JBlock) (nparam v : Nat) : Bool :=
  match jDef bs nparam v with
  | some (some (b, i)) => ((bs[b]?).bind fun x => x.ops[i]?).any fun o => o.opc == 0x3C1
  | _ => false

/-- How many CJOINs name a token. -/
def joinsOf (bs : List JBlock) (v : Nat) : Nat :=
  (bs.flatMap fun b => b.ops.filter fun o => o.opc == 0x3C2 && o.refs == [4 * v]).length

/-- The operation joins or leaves token `v`. -/
def JOp.names (o : JOp) (v : Nat) : Bool := (o.opc == 0x3C2 || o.opc == 0x3C3) && o.refs == [4 * v]

/-- The first of some operations that names token `v`, or enrols anew for it: whether it is a use. -/
def firstUse (ops : List JOp) (v : Nat) : Option Bool :=
  (ops.find? fun o => o.names v || (o.opc == 0x3C1 && o.first == v)).map fun o => o.names v

/-- The blocks that so many edges reach from some without an operation of token `v`. -/
def reachPast (bs : List JBlock) (v : Nat) : Nat → List Nat → List Nat
  | 0, l => l
  | n + 1, l => reachPast bs v n (l ++ l.flatMap fun b => match bs[b]? with
      | some x => if (firstUse x.ops v).isNone then jSuccs x else []
      | none => []).eraseDups

/-- After the CJOIN at operation `i` of block `b` a path names the ended token once more before its CENTER (R398). -/
def jReused (bs : List JBlock) (v b i : Nat) : Bool :=
  match bs[b]? with
  | none => false
  | some x => match firstUse (x.ops.drop (i + 1)) v with
    | some used => used
    | none => (reachPast bs v bs.length (jSuccs x)).any fun c => ((bs[c]?).bind fun y => firstUse y.ops v) == some true

/-- Status 8 of one operation: tokens go to CJOIN and CLEAVE alone, these take nothing else, a token is joined once, and no path uses
it after its CJOIN. -/
def jTokens (bs : List JBlock) (nparam : Nat) (o : JOp) (b i : Nat) : Bool :=
  (jUses bs o b i).all fun u =>
    isToken bs nparam u.1 == (o.opc == 0x3C2 || o.opc == 0x3C3) && decide (joinsOf bs u.1 ≤ 1) &&
      !(o.opc == 0x3C2 && jReused bs u.1 b i)

/-! ## Types (R395, R397, R39) -/

/-- What a value is: of a Trikan type, a predicate, or a token. -/
inductive JType where
  | num (t : Ty)
  | pred
  | token
  deriving DecidableEq, Repr

/-- The type of result `r` of an operation: the one that its Trikan destination has (R395); a phi without a Trikan type is one of
predicates. -/
def jResultType (o : JOp) (r : Nat) : JType :=
  let t := Ty.ofCode o.ty
  if jCarries o.opc ∧ r = 1 then .pred
  else match o.opc with
  | 0x140 | 0x141 | 0x142 | 0x144 | 0x146 | 0x244 | 0x246 => .pred
  | 0x188 => if o.refs[1]? = some 13 then .num .b32 else .pred
  | 0x3C0 => if o.ty = 31 then .pred else .num t
  | 0x3C1 => .token
  | 0x04E | 0x04F | 0x050 => .num .n32
  | 0x08D => .num .i32
  | 0x012 => .num (if t = .i8x4 then .i32 else .n32)
  | 0x013 => .num (if t = .i16x2 then .i32 else .n32)
  | 0x102 => .num (readTy 0x101 (jFields o) 1)
  | 0x103 => .num .b32
  | 0x104 => .num (if isSigned t then .i32 else .n32)
  | 0x200 | 0x202 => .num (if t = .i8 ∨ t = .i16 then .i32 else if t = .n8 ∨ t = .n16 then .n32 else t)
  | 0x305 => .num .b32
  | _ => .num t

/-- The type of a value; a parameter is of type b32. -/
def jTypeOf (bs : List JBlock) (nparam v : Nat) : Option JType :=
  match jDef bs nparam v with
  | none => none
  | some none => some (.num .b32)
  | some (some (b, i)) => ((bs[b]?).bind fun x => x.ops[i]?).map fun o => jResultType o (v - o.first)

/-- Registers that a value of a type takes. -/
def tyRegs (t : Ty) : Nat := if is64 t then 2 else 1
def JType.regs : JType → Nat
  | .num t => tyRegs t
  | _ => 0

/-- The registers that position `k` reads of one value; none where it reads several from the first one on (R161 and others). -/
def regsAt (opc : Nat) (f : Fields) (k : Nat) : Option Nat :=
  match opc, k with
  | 0x181, 2 | 0x2C7, 1 | 0x301, 1 | 0x342, 1 | 0x342, 2 | 0x343, 1 | 0x343, 2 | 0x343, 3 | 0x344, 1 | 0x344, 3 | 0x381, 2 => none
  | 0x201, 3 | 0x203, 3 => if f.op4 = .none then some (tyRegs f.ty) else none
  | 0x340, 2 => if f.ty = .f32 then none else some (tyRegs f.ty)
  | 0x302, 3 | 0x303, 3 => some 1
  | 0x340, 1 | 0x341, 1 => some 1
  | _, _ => some (spanOf opc f k)

/-- A value of a type may stand at source `k` of an operation: a predicate where the position holds one, a token at CJOIN and CLEAVE,
and elsewhere a number of as many registers as the position's read type has (R39). Registers hold no type, so values of one width
agree: log entry 7. -/
def typeFits (o : JOp) (k : Nat) (t : JType) : Bool :=
  if o.opc = 0x3C2 ∨ o.opc = 0x3C3 then true
  else if o.opc = 0x3C0 then (match t with
    | .num x => o.ty != 31 && tyRegs x == tyRegs (Ty.ofCode o.ty)
    | .pred => o.ty == 31
    | .token => false)
  else match t with
    | .pred => jPredAt o.opc k
    | .token => true
    | .num x => !jPredAt o.opc k && (regsAt o.opc (jFields o) k).all fun n => n == tyRegs x

/-- Status 6 of one operation: its guard is a predicate, and every source has a type that its position reads. -/
def jTyped (bs : List JBlock) (nparam : Nat) (o : JOp) : Bool :=
  (decide (o.g < 2) || jTypeOf bs nparam ((o.g - 2) / 2) == some .pred) && o.refs.zipIdx.all fun p =>
    match jRef p.1 with
    | .value v => (jTypeOf bs nparam v).all fun t => typeFits o (p.2 + 1) t
    | _ => true

/-! ## Live values (R398, R402) -/

/-- The values that an operation uses where it stands: its guard and its sources; a phi uses its values in the blocks before. -/
def jReads (o : JOp) : List Nat :=
  (if o.g < 2 then [] else [(o.g - 2) / 2]) ++ if o.opc = 0x3C0 then [] else o.refs.filterMap fun r => match jRef r with
    | .value v => some v
    | _ => none

/-- The values live before some operations, from those live after them. -/
def jLiveBefore (ops : List JOp) (out : List Nat) : List Nat :=
  ops.foldr (fun o l => (jReads o ++ l).eraseDups.filter fun v => !(decide (o.first ≤ v) && decide (v < o.first + o.nr))) out

/-- The values that the phis of a block take from block `b`. -/
def phiFrom (x : JBlock) (b : Nat) : List Nat :=
  x.ops.flatMap fun o => if o.opc != 0x3C0 then [] else
    (List.range (o.refs.length / 2)).filterMap fun k =>
      if (o.refs[2 * k]?).getD 0 / 4 = b then some ((o.refs[2 * k + 1]?).getD 0 / 4) else none

/-- The values live at the end of block `b`, from those live at the start of each block. -/
def jLiveOut (bs : List JBlock) (start : List (List Nat)) (x : JBlock) (b : Nat) : List Nat :=
  ((jSuccs x).flatMap fun t => (start[t]?).getD [] ++ ((bs[t]?).map fun y => phiFrom y b).getD []).eraseDups

/-- The values live at the start of each block, along paths of so many blocks. -/
def jLiveIn (bs : List JBlock) : Nat → List (List Nat)
  | 0 => bs.map fun _ => []
  | n + 1 => bs.zipIdx.map fun b => jLiveBefore b.1.ops (jLiveOut bs (jLiveIn bs n) b.1 b.2)

/-- The values live before operation `i` of block `b`. -/
def jLiveAt (bs : List JBlock) (start : List (List Nat)) (b i : Nat) : List Nat :=
  match bs[b]? with
  | none => []
  | some x => jLiveBefore (x.ops.drop i) (jLiveOut bs start x b)

/-- At most 11 tokens are live before operation `i` of block `b` (R398): a token is live from its CENTER to its last use. -/
def jFewLive (bs : List JBlock) (nparam : Nat) (start : List (List Nat)) (b i : Nat) : Bool :=
  decide (((jLiveAt bs start b i).filter (isToken bs nparam)).length ≤ 11)

/-- The vector registers that some live values take: those that are no parameter and are not proven uniform (R402). -/
def jVectors (bs : List JBlock) (nparam : Nat) (uniform live : List Nat) : Nat :=
  (live.map fun v => if v < nparam || uniform.contains v then 0 else ((jTypeOf bs nparam v).map JType.regs).getD 0).sum

/-- The registers live at operation `i` of block `b`: before it, or after it with its own results. -/
def jNeed (bs : List JBlock) (nparam : Nat) (uniform : List Nat) (start : List (List Nat)) (b i : Nat) (o : JOp) : Nat :=
  max (jVectors bs nparam uniform (jLiveAt bs start b i))
    (jVectors bs nparam uniform ((jLiveAt bs start b (i + 1) ++ (List.range o.nr).map (o.first + ·)).eraseDups))

/-- The registers live across a PHASE that stands there. -/
def jCarry (bs : List JBlock) (nparam : Nat) (uniform : List Nat) (start : List (List Nat)) (b i : Nat) (o : JOp) : Nat :=
  if o.opc = 0x286 then jVectors bs nparam uniform (jLiveAt bs start b (i + 1)) else 0

/-- The greatest number that some measure has over the operations. -/
def peakOf (bs : List JBlock) (m : Nat → Nat → JOp → Nat) : Nat :=
  (bs.zipIdx.flatMap fun b => b.1.ops.zipIdx.map fun o => m b.2 o.2 o.1).foldl max 0

/-- Status 9 of one operation. -/
def jClaims (h : Nat) (o : JOp) : Bool :=
  !(o.opc == 0x3C4 || o.opc == 0x3C5) ||
    decide ((o.refs[1]?).getD 0 / 4 ≤ if o.refs.headD 0 / 4 = 1 then jSmax h else jMmax h)

/-! ## Statuses (Table 21.5) -/

/-- The first operation that fails, with its body offset. -/
def firstBad (bs : List JBlock) (p : JOp → Nat → Nat → Bool) : Option Nat :=
  bs.zipIdx.findSome? fun b => (b.1.ops.zipIdx).findSome? fun o => if p o.1 b.2 o.2 then none else some o.1.pos

/-- The status and the detail of a container whose header and varints are good: the lowest that it earns (log entry 7). -/
def bodyStatus (uniform : List Nat) (h : Nat) (bs : List JBlock) (vals : Nat) : Nat × Nat :=
  let np := jNparam h
  let live := jLiveIn bs bs.length
  let found : List (Option (Nat × Nat)) :=
    [(firstBad bs fun o _ _ => jAssigned o).map fun d => (3, d),
     (firstBad bs fun o _ _ => jFormed o).map fun d => (4, d),
     (firstBad bs (jDefined bs np)).map fun d => (5, d),
     if vals = jNval h then none else some (5, 0),
     (firstBad bs fun o _ _ => jTyped bs np o).map fun d => (6, d),
     (bs.zipIdx.find? fun b => !jShaped bs b.1 b.2).map fun b => (7, b.1.pos),
     (firstBad bs fun o b i => jTokens bs np o b i && jFewLive bs np live b i).map fun d => (8, d),
     (firstBad bs fun o _ _ => jClaims h o).map fun d => (9, d),
     (firstBad bs fun o b i => decide (jNeed bs np uniform live b i o ≤ 640) && decide (jCarry bs np uniform live b i o ≤ 64)).map
       fun d => (10, d)]
  (found.findSome? id).getD (0, 0)

/-- The values that the running Jorac image keeps in scalars (R402): literals that it proves uniform, at most 32, and none where REGROUP
moves threads between waves; log entry 7. -/
def uniformOf (s : State) (c : List Byte) (bs : List JBlock) : List Nat :=
  let ops := bs.flatMap fun b => b.ops
  let lits := (ops.filter fun o => o.opc == 0x3C6).map fun o => o.first
  if ops.any fun o => o.opc == 0x288 then []
  else (lits.filter (Config.joracUniform (Config.imageBytes 4 s.booted) c).contains).take 32

/-- The status and the detail of a container. -/
def containerStatus (s : State) (c : List Byte) : Nat × Nat :=
  let h := natLE (c.take 32)
  let body := c.drop 32
  if c.length < 32 then (2, 0)
  else if !jHeaderOk h then (1, 0)
  else if body.length ≠ jBody h then (2, 0)
  else match jBlocks h body with
    | .error d => (2, d)
    | .ok (bs, vals) => bodyStatus (uniformOf s c bs) h bs vals

end Sys2Proof.Machine
end

