-- ==== Sys2Proof/Machine/Finaliser.lean ====
section
/-!
DEFINITION. When a code of one's own making is one of Jorac's for a container of a single block (R396 to R399, R402): its instructions,
followed one by one, perform the container's operations in their order, under the same guards, on the same values, with registers read
only when R43 makes them readable. A container of several blocks has the code of `Emitter` (log entry 7).
-/
namespace Sys2Proof.Machine

/-! ## What a code has to perform -/

/-- An operation whose place a code keeps: a memory, atomic, fence, barrier, engine, tile or system one (R399), a collective, whose
threads depend on where it stands (R396), EXIT, and those of Table 21.1 that lower to an instruction. -/
def jKeeps (opc : Nat) : Bool :=
  (decide (0x200 ≤ opc) && decide (opc < 0x280)) || (decide (0x286 ≤ opc) && decide (opc < 0x3C0)) ||
    (decide (0x180 ≤ opc) && decide (opc < 0x18C)) || opc == 0x1C8 || (decide (0x3C1 ≤ opc) && decide (opc ≤ 0x3C5))

/-- BAR, GBAR, PHASE and REGROUP (R142). -/
def isBarrier (opc : Nat) : Bool := opc == 0x287 || opc == 0x300 || opc == 0x286 || opc == 0x288

/-- What a code performs, in order: operation `i` of the container, or JOINM or WAITM of the whole-wave mask m11. -/
inductive Duty where
  | op (o : JOp) (i : Nat)
  | joinAll
  | waitAll
  deriving DecidableEq, Repr

/-- m11 stands in a kernel with a barrier; one without need not keep it, as the manual's own finalised kernel does not. -/
def needsAll (ops : List JOp) : Bool := ops.any fun o => isBarrier o.opc

/-- The duties of a block: JOINM m11 at entry, WAITM m11 before each barrier, and JOINM m11 again after it (R398). -/
def dutiesOf (ops : List JOp) : List Duty :=
  (if needsAll ops then [.joinAll] else []) ++ ops.zipIdx.flatMap fun o =>
    if isBarrier o.1.opc then [.waitAll, .op o.1 o.2, .joinAll] else if jKeeps o.1.opc then [.op o.1 o.2] else []

/-! ## Code -/

/-- An instruction of a code: its clause's header, whether it is the clause's first, and its opcode and fields. -/
structure KIns where
  hdr   : W128
  first : Bool
  opc   : Nat
  f     : Fields
  deriving DecidableEq, Repr

/-- The word of a code at an offset. -/
def codeWord (code : List Byte) (a : Nat) : W128 := BitVec.ofNat 128 (natLE ((code.drop a).take 16))

/-- The instruction stands where R28 and R29 allow it: in a clause of its class, last if it must end one. -/
def placedOk (h : W128) (i opc : Nat) : Bool :=
  (match classOf opc with
    | none => true
    | some g => g == hdrClass h) && (!mustEnd opc || i == hdrCnt h)

/-- The instructions of a code; `none` where a word is no header, or no instruction that may stand there. -/
def codeIns (code : List Byte) : Nat → Nat → Option (List KIns)
  | 0, _ => some []
  | n + 1, a =>
    if code.length ≤ a then some []
    else
      let h := codeWord code a
      let words := (List.range (hdrCnt h + 1)).map fun i => match decode (codeWord code (a + 16 * (i + 1))) with
        | .ok x => (x.parts.filter fun p => placedOk h i p.1).map fun p => { hdr := h, first := i == 0, opc := p.1, f := p.2 : KIns }
        | .error _ => none
      if !headerOk h || words.contains none || decide (code.length < a + 16 * (hdrCnt h + 2)) then none
      else (codeIns code n (a + 16 * (hdrCnt h + 2))).map fun l => words.filterMap id ++ l

/-- Positions that take scalar registers and no vector ones. -/
def scalarAt (opc : Nat) (f : Fields) (k : Nat) : Bool :=
  match opc, k with
  | 0x204, _ | 0x2C1, _ | 0x2C3, _ | 0x2C4, _ | 0x2C5, 1 | 0x301, _ | 0x302, _ | 0x303, _ | 0x304, _ | 0x305, 1 | 0x306, _ => true
  | 0x2C7, 1 => f.op0 == .e 0
  | 0x342, 2 | 0x343, 2 | 0x344, 3 | 0x381, 1 | 0x385, 2 | 0x18B, 2 => true
  | _, _ => false

/-- The source positions that a word uses. -/
def sourcesIn (opc : Nat) (f : Fields) : List Nat :=
  match specOf opc with
  | none => []
  | some sp => [1, 2, 3, 4].filter fun k => hasBit (specIn sp opc f).use k && !(k == 4 && jCarries opc) && f.op k != .none

/-- Opcodes whose destination is a predicate. -/
def predDest (opc : Nat) (f : Fields) : Bool :=
  [0x140, 0x141, 0x142, 0x144, 0x146, 0x244, 0x246].contains opc || (opc == 0x188 && f.op2 != .int 3)

/-- The kind of an operand with values in place of registers, as `kindOk` takes it. -/
def plainKind : Operand → Operand
  | .v _ | .q _ | .s _ => .v 0
  | .p _ => .p 0
  | o => o

/-- The instruction raises no operand fault within `rb` bundles: every register lies inside, ranges of an even length start at an even
register, and every position holds a kind that is sure to be accepted (R18, R19, R34, R37). -/
def KIns.legal (x : KIns) (rb : Nat) : Bool :=
  let f := x.f
  let inside (k : Nat) : Bool := match f.op k with
    | .v n => decide (n.val + spanOf x.opc f k ≤ 8 * rb) && (spanOf x.opc f k % 2 == 1 || n.val % 2 == 0) && !scalarAt x.opc f k
    | .s n => decide (n.val + spanOf x.opc f k ≤ 128) && (spanOf x.opc f k % 2 == 1 || n.val % 2 == 0) &&
        (k == 0 || scalarAt x.opc f k || decide (x.opc < 0x102) || x.opc / 64 == 5 || (k == 1 && (x.opc / 64 == 8 || x.opc / 64 == 9)))
    | .q n => decide (n.val + spanOf x.opc f k ≤ 16) && decide (spanOf x.opc f k ≤ 2) && (decide (x.opc < 0x102) || x.opc / 64 == 5)
    | _ => true
  let g : Fields := { f with op1 := plainKind f.op1, op2 := plainKind f.op2, op3 := plainKind f.op3, op4 := plainKind f.op4 }
  let named := ((sourcesIn x.opc f).filterMap fun k => match f.op k with
    | .s n => some n.val
    | _ => none).eraseDups
  let dest : Bool := match f.op0 with
    | .v _ => !predDest x.opc f
    | .s _ => isScalar x.opc f || x.opc == 0x305
    | .p _ => predDest x.opc f
    | .none => true
    | .e n => x.opc == 0x2C7 && decide (n.val < 2)
    | .m _ => [0x1C4, 0x1C5, 0x1C6].contains x.opc
    | _ => false
  [0, 1, 2, 3, 4].all inside && dest && (isScalar x.opc f || decide (named.length ≤ 1) || scalarAt x.opc f 1 || scalarAt x.opc f 2) &&
    (sourcesIn x.opc f).all fun k => kindOk x.opc g k

/-! ## Values -/

/-- A value as its operations make it, for the thread at hand: a literal, an operand code in its place, a parameter, result `r` of a kept
operation, an operation that computes from values, its second result, and the halves of a pair; `unknown` agrees with nothing. -/
inductive Sym where
  | unknown
  | lit (n : Nat)
  | code (n : Nat)
  | param (n : Nat)
  | res (op r : Nat)
  | op (opc ty mods : Nat) (a b c d : Sym)
  | second (x : Sym)
  | pair (lo hi : Sym)
  | lo (x : Sym)
  | hi (x : Sym)
  deriving DecidableEq, Repr

/-- The halves of a 64-bit value, and a value from its halves. -/
def Sym.low : Sym → Sym
  | .pair a _ => a
  | .unknown => .unknown
  | x => .lo x
def Sym.high : Sym → Sym
  | .pair _ b => b
  | .unknown => .unknown
  | x => .hi x
def Sym.join (a b : Sym) : Sym :=
  match a, b with
  | .unknown, _ | _, .unknown => .unknown
  | .lo x, .hi y => if x = y then x else .pair a b
  | _, _ => .pair a b

/-- The words of a value of so many registers. -/
def Sym.words (x : Sym) (n : Nat) : List Sym := if n = 2 then [x.low, x.high] else [x]

/-- A literal of 32 or 64 bits. -/
def Sym.literal (wide : Bool) (n : Nat) : Sym := if wide then .pair (.lit (n % 2 ^ 32)) (.lit (n / 2 ^ 32 % 2 ^ 32)) else .lit (n % 2 ^ 32)

/-- Operations whose first two sources may change places. -/
def commutes (opc : Nat) : Bool := [0x000, 0x004, 0x006, 0x007, 0x00E, 0x00F, 0x040, 0x041, 0x042, 0x080, 0x082].contains opc

/-- Rounding, source modifiers and the number of MODE writes before, as one number. -/
def modsOf (f : Fields) (era : Nat) : Nat :=
  f.ro.toNat + 2 ^ 4 * f.sm1.toNat + 2 ^ 16 * f.sm2.toNat + 2 ^ 28 * f.sm3.toNat + 2 ^ 40 * era

/-- Two values are the same: one operation with one type, rounding and modifiers on the same values, in their order or, where the operation
commutes and both have one modifier, exchanged (R399: no contraction, no reassociation, no other type). -/
def Sym.is : Sym → Sym → Bool
  | .lit n, .lit m => n == m
  | .code n, .code m => n == m
  | .param n, .param m => n == m
  | .res i r, .res j q => i == j && r == q
  | .second x, .second y => x.is y
  | .lo x, .lo y => x.is y
  | .hi x, .hi y => x.is y
  | .pair a b, .pair x y => a.is x && b.is y
  | .op o t m a b c d, .op o' t' m' x y z w =>
    o == o' && t == t' && m == m' && c.is z && d.is w &&
      ((a.is x && b.is y) || (commutes o && m / 2 ^ 4 % 2 ^ 12 == m / 2 ^ 16 % 2 ^ 12 && b.is x && a.is y))
  | _, _ => false

/-- What an instruction computes from its sources in the `era` of MODE at hand: MOV and MOVW place values. -/
def computes (opc : Nat) (f : Fields) (era : Nat) (a b c d : Sym) : Sym :=
  let plain : Bool := f.sm1 == 0#12 && f.sm2 == 0#12
  let kept : Sym := .op opc f.ty.code (modsOf f era) a b c d
  if opc = 0x015 ∧ plain = true then (match a with
    | .code 822 => .literal (is64 f.ty) 0
    | .code 825 => .literal (is64 f.ty) (2 ^ 64 - 1)
    | .code n => if 832 ≤ n ∧ n < 896 ∧ [Ty.b32, .i32, .n32, .b64, .i64, .n64].contains f.ty then .literal (is64 f.ty) (n - 832) else kept
    | x => x)
  else if opc = 0x016 ∧ plain = true then a.join b
  else kept

/-- The value that a reference of the container names; what a queue or the literal of a clause gives is not followed. -/
def refSym (env : List Sym) (r : Nat) : Sym :=
  match jRef r with
  | .value v => (env[v]?).getD .unknown
  | .imm n => .code (832 + n)
  | .fixed c => if c < 792 ∨ c = 823 ∨ c = 824 then .unknown else .code c
  | .reserved => .unknown

/-- Result `r` of operation `i` of a block. -/
def resultSym (env : List Sym) (era : Nat) (o : JOp) (i r : Nat) : Sym :=
  if jKeeps o.opc then .res i r
  else if o.opc = 0x3C6 then .literal (is64 (Ty.ofCode o.ty)) (o.refs.headD 0 / 4 + 2 ^ 32 * ((o.refs[1]?).getD 0 / 4))
  else if 0x3C0 ≤ o.opc then .unknown
  else
    let at1 (k : Nat) : Sym := ((o.refs[k]?).map (refSym env)).getD (.code 1023)
    let x := computes o.opc (jFields o) era (at1 0) (at1 1) (at1 2) (at1 3)
    if r = 0 then x else .second x

/-- The values of a block, in order of their numbers, with the number of MODE writes. -/
def valuesOf (nparam : Nat) (ops : List JOp) : List Sym :=
  (ops.zipIdx.foldl (fun env o => (env.1 ++ (List.range o.1.nr).map (resultSym env.1 env.2 o.1 o.2), if o.1.opc = 0x385 then env.2 + 1 else env.2))
    ((List.range nparam).map Sym.param, 0)).1

/-! ## Following a code -/

/-- What a thread's registers hold before an instruction, by operand code; the result queue from the newest entry on; e6; the clk at which
the instruction issues at the earliest; when fixed-latency results are readable; the results of long-latency instructions on the flag
that each counts on; and the number of MODE writes. -/
structure KState where
  regs  : List (Nat × Sym)
  q     : List Sym
  e6    : List Sym
  clk   : Nat
  ready : List (Nat × Nat)
  late  : List (Nat × Option Nat)
  era   : Nat
  deriving DecidableEq, Repr

def KState.get (st : KState) (n : Nat) : Sym := ((st.regs.find? fun x => x.1 == n).map fun x => x.2).getD .unknown
def KState.set (st : KState) (n : Nat) (xs : List Sym) : KState :=
  { st with regs := (xs.zipIdx.map fun p => (n + p.2, p.1)) ++ st.regs.filter fun x => !(decide (n ≤ x.1) && decide (x.1 < n + xs.length)) }

/-- A clause opens once the flags that its header waits on are clear (R30). -/
def KState.opened (st : KState) (h : W128) : KState :=
  { st with late := st.late.filter fun x => match x.2 with
      | some k => !hasBit (hdrWait h) k
      | none => true }

/-- The operand codes of the registers that an operand covers. -/
def codesOf (o : Operand) (n : Nat) : List Nat :=
  match o with
  | .v _ | .s _ => (List.range n).map fun i => o.code + i
  | .p _ | .m _ => [o.code]
  | _ => []

/-- The registers that an instruction writes, and those that it reads. -/
def KIns.writes (x : KIns) : List Nat :=
  codesOf x.f.op0 (spanOf x.opc x.f 0) ++ if jCarries x.opc then codesOf x.f.op4 1 else []
def KIns.reads (x : KIns) : List Nat :=
  [792 + x.f.ga.toNat, 792 + x.f.gb.toNat] ++ (sourcesIn x.opc x.f).flatMap fun k => codesOf (x.f.op k) (spanOf x.opc x.f k)

/-- R43: what the instruction reads is readable at the clk at which it may issue, and nothing is under way to what it writes. -/
def KIns.timely (x : KIns) (st : KState) : Bool :=
  (x.reads ++ x.writes).all fun n => !(st.late.any fun p => p.1 == n) && !(st.ready.any fun p => p.1 == n && decide (st.clk < p.2))

/-- Clks from issue to where a result of a fixed-latency instruction is surely readable (R24, R43, R75). -/
def KIns.wait (x : KIns) : Nat :=
  if isScalar x.opc x.f then 3
  else if x.f.ty = .f64 then 16
  else if is64 x.f.ty ∨ x.opc = 0x100 ∨ (0x181 ≤ x.opc ∧ x.opc < 0x18C) then 8
  else 4

/-- The value of an operand of so many registers. -/
def KState.read (st : KState) (x : KIns) (o : Operand) (n : Nat) : Sym :=
  let two (lo hi : Sym) : Sym := if n = 2 then lo.join hi else lo
  match o with
  | .v _ | .s _ | .p _ | .m _ => two (st.get o.code) (st.get (o.code + 1))
  | .q k => if n = 2 then ((st.q[k.val + 1]?).getD .unknown).join ((st.q[k.val]?).getD .unknown) else (st.q[k.val]?).getD .unknown
  | .e k => if k.val = 6 then st.e6.headD .unknown else .unknown
  | .litLo => .literal (n == 2) (hdrLit x.hdr)
  | .litHi => .literal false (hdrLit x.hdr / 2 ^ 32)
  | o => .code o.code

/-- The value at position `k` of an instruction. -/
def KState.source (st : KState) (x : KIns) (k : Nat) : Sym := st.read x (x.f.op k) ((regsAt x.opc x.f k).getD 1)

/-- The words that an instruction delivers, where it performs operation `i`, `o`; a lane that a guard passes over holds what the manual
leaves unpredictable (R396), so a guard of the code's own makes an unknown value. -/
def delivered (st : KState) (x : KIns) (o : Option (JOp × Nat)) : List Sym :=
  match o with
  | some (op, i) => (List.range op.nr).flatMap fun r => Sym.words (.res i r) (max 1 (jResultType op r).regs)
  | none =>
    let at1 (k : Nat) : Sym := if (sourcesIn x.opc x.f).contains k then st.source x k else .code 1023
    Sym.words (if defaultGuards x.f then computes x.opc x.f st.era (at1 1) (at1 2) (at1 3) (at1 4) else .unknown) (spanOf x.opc x.f 0)

/-- What a thread's registers hold after an instruction (R17, R25, R144), and when they are readable. -/
def KState.after (st : KState) (cb : Nat) (x : KIns) (o : Option (JOp × Nat)) : KState :=
  let ws := delivered st x o
  let long : Bool := (specOf x.opc).any fun sp => sp.long || popsQueue x.f (specIn sp x.opc x.f).use
  let popped : Bool := (sourcesIn x.opc x.f).any fun k => x.f.op k == .e 6
  let flag : Option Nat := if x.f.fsel then hdrFlagB x.hdr else hdrFlagA x.hdr
  let s1 : KState := { st with
    e6 := if popped then st.e6.drop 1 else st.e6, clk := st.clk + 1 + x.f.stall.toNat, era := if x.opc = 0x385 then st.era + 1 else st.era,
    ready := (if long then [] else x.writes.map fun n => (n, st.clk + x.wait)) ++ st.ready.filter fun p => !x.writes.contains p.1,
    late := if long then (x.writes.map fun n => (n, flag)) ++ st.late else st.late }
  if x.opc = 0x286 then { s1 with regs := s1.regs.filter fun r => decide (r.1 < 8 * cb) || decide (640 ≤ r.1), q := [], e6 := [] }
  else if x.opc = 0x288 then { s1 with regs := s1.regs.filter fun r => decide (r.1 < 640) || (decide (792 ≤ r.1) && decide (r.1 < 808)), q := [] }
  else if jToE6 x.opc then { s1 with e6 := s1.e6 ++ ws.take 1 }
  else
    let s2 : KState := if (x.f.op0 == .none || x.writes.isEmpty) then s1 else s1.set x.f.op0.code ws
    let s3 : KState := if jCarries x.opc then s2.set x.f.op4.code [match ws with
      | .unknown :: _ => .unknown
      | .lo y :: _ => .second y
      | y :: _ => .second y
      | [] => .unknown] else s2
    let pushes : Bool := !isScalar x.opc x.f && ((specOf x.opc).any fun sp => hasBit sp.use 0) && match x.f.op0 with
      | .v _ | .none => true
      | _ => false
    if pushes then { s3 with q := ((if defaultGuards x.f then ws else ws.map fun _ => .unknown).reverse ++ s3.q).take 16 } else s3

/-- The instruction has the container operation's guard: none, or a predicate that holds the same value, negated alike. -/
def sameGuard (env : List Sym) (st : KState) (x : KIns) (o : JOp) : Bool :=
  if o.g < 2 then defaultGuards x.f
  else x.f.ga != 15#4 && x.f.gb == 15#4 && !x.f.gbn && !x.f.gc && x.f.gan == (o.g % 2 == 1) &&
    (st.get (792 + x.f.ga.toNat)).is ((env[(o.g - 2) / 2]?).getD .unknown)

/-- An instruction does a duty: those of Table 21.1 as that table lowers them, on a mask register that is not m11; every other operation as
the Trikan instruction with its opcode, type, rounding, HINT, source modifiers and guard, in wide form where the form follows the
operands, on the container's values. -/
def KIns.does (x : KIns) (env : List Sym) (st : KState) (d : Duty) : Bool :=
  let f := x.f
  match d with
  | .joinAll => x.opc == 0x1C4 && f.op0 == .m 11 && defaultGuards f
  | .waitAll => x.opc == 0x1C6 && f.op0 == .m 11 && defaultGuards f
  | .op o _ =>
    let own : Bool := match f.op0 with
      | .m n => n.val != 11 && defaultGuards f
      | _ => false
    let token : Bool := own && (st.get f.op0.code).is (refSym env (o.refs.headD 3))
    let units : Bool := (jImm ((o.refs[1]?).getD 3)).any fun n => f.op1.code == 832 + n
    let ways : Bool := o.refs.headD 0 == 5
    match o.opc with
    | 0x3C0 | 0x3C6 => false
    | 0x3C1 => x.opc == 0x1C4 && own
    | 0x3C2 => x.opc == 0x1C6 && token
    | 0x3C3 => x.opc == 0x1C5 && token
    | 0x3C4 => units && if ways then x.opc == 0x285 && f.op2 == .int 0 else x.opc == 0x280 && f.op2 == .int 2
    | 0x3C5 => units && if ways then x.opc == 0x285 && f.op2 == .int 2 else x.opc == 0x282 && f.op2 == .int 2
    | _ =>
      let g := jFields o
      x.opc == o.opc && f.ty == g.ty && f.ro == g.ro && f.hint == g.hint && f.sm1 == g.sm1 && f.sm2 == g.sm2 && f.sm3 == g.sm3 &&
        (f.op0 == .none) == (g.op0 == .none) && !(isScalar x.opc f && (specOf x.opc).any fun sp => sp.form == .byOperands) &&
        sameGuard env st x o && o.refs.zipIdx.all fun r => (regsAt x.opc f (r.2 + 1)).isSome && (st.source x (r.2 + 1)).is (refSym env r.1)

/-- The instruction's place is free: it computes from registers alone, or is NOP or YIELD. -/
def KIns.mobile (x : KIns) : Bool :=
  (decide (x.opc < 0x180) || x.opc == 0x1C9 || x.opc == 0x1CA) && (match x.f.op0 with
    | .e _ => false
    | _ => true) && [1, 2, 3, 4].all fun k => match x.f.op k with
      | .e n => n == 6
      | _ => true

/-- The instructions do the duties, each in its turn, and compute beside them. -/
def doneBy (env : List Sym) (cb rb : Nat) : List KIns → List Duty → KState → Bool
  | [], ds, _ => ds.isEmpty
  | x :: t, ds, st0 =>
    let st := if x.first then st0.opened x.hdr else st0
    x.legal rb && x.timely st &&
      if x.mobile then doneBy env cb rb t ds (st.after cb x none)
      else match ds with
        | [] => false
        | d :: rest => x.does env st d && doneBy env cb rb t rest (st.after cb x (match d with
            | .op o i => some (o, i)
            | _ => none))

/-- A code that R396 to R399 and R43 allow for a container of one block that does not go back to itself and does not read
MODE, with `cb` carry bundles, which only a PHASE needs, and `rb` bundles of registers. -/
def keptBy (container code : List Byte) (cb rb : Nat) : Bool :=
  let h := natLE (container.take 32)
  match jBlocks h (container.drop 32), codeIns code code.length 0 with
  | .ok ([b], _), some ks =>
    let entry : KState := { regs := (List.range (jNparam h)).map fun i => (656 + i, .param i), q := [], e6 := [], clk := 0, ready := [],
                            late := [], era := 0 }
    decide (cb ≤ 8) && decide (cb ≤ rb) && decide (1 ≤ rb) && decide (rb ≤ 80) && (cb == 0 || b.ops.any fun o => o.opc == 0x286) &&
      !(b.ops.any fun o => o.opc == 0x1C0 || (o.opc == 0x384 && o.refs == [4 * 5 + 1])) &&
      doneBy (valuesOf (jNparam h) b.ops) cb rb ks (dutiesOf b.ops) entry
  | _, _ => false

end Sys2Proof.Machine
end

