-- ==== Sys2Proof/Machine/Emitter.lean ====
section
/-!
DEFINITION. Jorac's code for any container (R396 to R399, R402): a home for each value, and the clauses of each operation, one
instruction to a clause but for collectives and their pops of e6. Each clause waits for the work of the clause before it, and each
instruction stalls longer than any latency (R43). Scalars are shared by the wave's entries, so the clause that reads one has a priority
above every other clause and runs before another entry can write it. What is left free is a choice of Jorac's (`Config.joracPick`); log
entry 7.
-/
namespace Sys2Proof.Machine

/-! ## Homes -/

/-- Where a value stands: vector registers, scalars, a predicate, a mask, from a number on. -/
inductive Home where
  | v (n : Nat)
  | s (n : Nat)
  | p (n : Nat)
  | m (n : Nat)
  deriving DecidableEq, Repr

/-- A value with its type and its home. -/
structure Placed where
  val  : Nat
  ty   : JType
  home : Home
  deriving DecidableEq, Repr

/-- The values that hold something at once, for each place of the container: after an operation, what is live and what it delivers. Tokens
that have a mask each keep it: the threads of a wave share their masks. -/
def livePoints (bs : List JBlock) : List (List Nat) :=
  let start := jLiveIn bs bs.length
  let tokens := (bs.flatMap fun b => b.ops.filter fun o => o.opc == 0x3C1).map fun o => o.first
  (if tokens.length ≤ 11 then [tokens] else []) ++ bs.zipIdx.flatMap fun b => b.1.ops.zipIdx.map fun o =>
    jLiveAt bs start b.2 (o.2 + 1) ++ (List.range o.1.nr).map (o.1.first + ·)

/-- The values that live across a PHASE. -/
def carried (bs : List JBlock) : List Nat :=
  let start := jLiveIn bs bs.length
  (bs.zipIdx.flatMap fun b => b.1.ops.zipIdx.flatMap fun o => if o.1.opc = 0x286 then jLiveAt bs start b.2 (o.2 + 1) else []).eraseDups

/-- Two values hold something at one place. -/
def clash (points : List (List Nat)) (a b : Nat) : Bool := points.any fun p => p.contains a && p.contains b

/-- The words of a value in vector registers. -/
def JType.words : JType → Nat
  | .num t => tyRegs t
  | _ => 1

/-- Two homes of so many words have a register in common. -/
def Home.meets (a : Home) (n : Nat) (b : Home) (m : Nat) : Bool :=
  match a, b with
  | .v x, .v y => decide (x < y + m) && decide (y < x + n)
  | .p x, .p y | .m x, .m y => x == y
  | _, _ => false

/-- The homes that a value may have, in the order in which they are tried: m0 to m10 for a token, p4 to p14 for a predicate, and vector
registers, of which a pair starts at an even one. -/
def homesFor (t : JType) : List Home :=
  let regs (n : Nat) : List Home := (List.range (640 / n)).map fun i => .v (n * i)
  match t with
  | .token => (List.range 11).map .m
  | .pred => (List.range 11).map (fun i => .p (4 + i)) ++ regs 1
  | .num x => regs (tyRegs x)

/-- The values, each placed after those that its definition can meet: by how many blocks dominate its block, then by number. -/
def placingOrder (bs : List JBlock) : List (Nat × JType) :=
  let depth (b : Nat) : Nat := ((List.range bs.length).filter fun a => jDominates bs a b).length
  let vals (b : JBlock) : List (Nat × JType) := b.ops.flatMap fun o => (List.range o.nr).map fun r => (o.first + r, jResultType o r)
  let at1 (d : Nat) : List (Nat × JType) := (bs.zipIdx.filter fun b => depth b.2 == d).flatMap fun b => vals b.1
  (List.range (bs.length + 1)).flatMap at1

/-- Places some values one after another, each at the first home that no value with which it clashes has. -/
def placeAll (points : List (List Nat)) : List (Nat × JType) → List Placed → Option (List Placed)
  | [], done => some done
  | x :: t, done =>
    match (homesFor x.2).find? fun h => done.all fun d => !(h.meets x.2.words d.home d.ty.words && clash points x.1 d.val) with
    | none => none
    | some h => placeAll points t ({ val := x.1, ty := x.2, home := h } :: done)

/-- The first vector register above some placed values. -/
def topOf (l : List Placed) : Nat := (l.map fun d => match d.home with
  | .v n => n + d.ty.words
  | _ => 0).foldl max 0

/-- How Jorac lays a container out: the homes, the carry bundles, and the first vector register above the homes. -/
structure Layout where
  homes : List Placed
  cb    : Nat
  top   : Nat
  deriving DecidableEq, Repr

/-- `x` in a rotation of `n` registers from `lo` by `k` pairs, where it lies among them; pairs stay pairs. -/
def rotated (lo n k x : Nat) : Nat := if lo ≤ x ∧ x < lo + n then lo + (x - lo + 2 * k) % n else x

/-- The layout of a container: what lives across a PHASE lowest, in whole bundles (R144); literals in scalars from s16 on; parameters in
s0 on (R240). Which registers are meant within the carry set and above it is a free rotation. -/
def layoutOf (pick : Nat → Nat) (nparam : Nat) (uniform : List Nat) (bs : List JBlock) : Option Layout :=
  let points := livePoints bs
  let carry := carried bs
  let order := placingOrder bs
  let params : List Placed := (List.range nparam).map fun i => { val := i, ty := .num .b32, home := .s i }
  let lits : List Placed := (order.filter fun x => uniform.contains x.1).zipIdx.map fun x =>
    { val := x.1.1, ty := x.1.2, home := .s (16 + 2 * x.2) }
  let rest := order.filter fun x => !uniform.contains x.1
  match placeAll points (rest.filter fun x => carry.contains x.1) [] with
  | none => none
  | some low =>
    let cb := (topOf low + 7) / 8
    match placeAll points (rest.filter fun x => !carry.contains x.1) low with
    | none => none
    | some all =>
      let top := max (8 * cb) (2 * ((topOf all + 1) / 2))
      let turn (h : Home) : Home := match h with
        | .v n => .v (rotated (8 * cb) (top - 8 * cb) (pick 1) (rotated 0 (8 * cb) (pick 0) n))
        | h => h
      if 8 < cb then none else some { homes := params ++ lits ++ all.map (fun d => { d with home := turn d.home }), cb := cb, top := top }

/-! ## Clauses -/

/-- A clause that is to be written: its instructions, whether it comes before every other clause, its literal where it has one, and where
its branch goes: to a block, or so many clauses on or back. -/
structure JClause where
  ins   : List (Nat × Fields)
  high  : Bool := false
  lit   : Option Nat := none
  block : Option Nat := none
  skip  : Option Int := none
  deriving DecidableEq, Repr

/-- Fields of an unguarded instruction. -/
def bare (ty : Ty) (op0 op1 op2 op3 op4 : Operand) : Fields :=
  { ro := 0, fsel := false, yld := false, stall := 15, hint := 0, gc := false, gbn := false, gb := 15, gan := false, ga := 15,
    sm3 := 0, sm2 := 0, sm1 := 0, op4 := op4, op3 := op3, op2 := op2, op1 := op1, op0 := op0, ty := ty }

/-- A clause of one instruction. -/
def alone (opc : Nat) (f : Fields) : JClause := { ins := [(opc, f)] }
/-- MOV.b32, PTOV.n32 and VTOP.b32. -/
def moves (d a : Operand) : JClause := alone 0x015 (bare .b32 d a .none .none .none)
def fromPred (d p : Operand) : JClause := alone 0x145 (bare .n32 d p .none .none .none)
def toPred (p a : Operand) : JClause := alone 0x146 (bare .b32 p a .none .none .none)
/-- JOINM, LEAVEM or WAITM of a mask. -/
def masks (opc n : Nat) : JClause := alone opc (bare .none (.ofCode (808 + n)) .none .none .none .none)
/-- A branch to a block, and one of the threads that p0 names over so many clauses. -/
def jumps (b : Nat) : JClause := { alone 0x1C0 (bare .none .none .litLo .none .none .none) with block := some b }
def skips (p : BitVec 4) (n : Int) : JClause := { alone 0x1C0 { bare .none .none .litLo .none .none .none with ga := p } with skip := some n }

def vreg (n : Nat) : Operand := .ofCode n
def sreg (n : Nat) : Operand := .ofCode (656 + n)
def preg (n : Nat) : Operand := .ofCode (792 + n)

/-- The place of a value; one that has none stands where no value does. -/
def Layout.place (y : Layout) (v : Nat) : Placed :=
  (y.homes.find? fun d => d.val == v).getD { val := v, ty := .num .b32, home := .v y.top }

/-- The operand of word `j` of a value in a register file. -/
def Placed.word (d : Placed) (j : Nat) : Operand :=
  match d.home with
  | .v n => vreg (n + j)
  | .s n => sreg (n + j)
  | .p n => preg n
  | .m n => .ofCode (808 + n)

/-- Writes word `j` of a value into a vector register or a scalar; and a vector register into it. A predicate's word is 0 or 1. -/
def Placed.load (d : Placed) (j : Nat) (dst : Operand) : JClause :=
  match d.home with
  | .p n => fromPred dst (preg n)
  | _ => moves dst (d.word j)
def Placed.store (d : Placed) (j : Nat) (src : Operand) : JClause :=
  match d.home with
  | .p n => toPred (preg n) src
  | _ => moves (d.word j) src

/-- The words of the values from `v` on, in order of their numbers: `n` of them (log entry 7). -/
def Layout.run (y : Layout) (v n : Nat) : List (Placed × Nat) :=
  (((List.range n).flatMap fun i => let d := y.place (v + i)
    (List.range d.ty.words).map fun j => (d, j))).take n

/-- A predicate value as an operand: its register, or p`t` after a clause that fills it. -/
def Layout.pred (y : Layout) (v t : Nat) : List JClause × Operand :=
  match (y.place v).home with
  | .p n => ([], preg n)
  | h => ([toPred (preg t) ({ y.place v with home := h }.word 0)], preg t)

/-- A list in pieces of 8. -/
def eights {α : Type} : Nat → List α → List (List α)
  | 0, _ => []
  | n + 1, l => if l.isEmpty then [] else l.take 8 :: eights n (l.drop 8)

/-- The threads take some words as scalars, each word with its scalar's number. Threads whose words agree go on together and before all
others, so that none merge with them; those that hold another value than the first one go back and take their turn after. What stands in
a scalar already is copied. -/
def uniformly (t : Nat) (words : List ((Placed × Nat) × Nat)) : List JClause :=
  let vary := words.filter fun w => match w.1.1.home with
    | .s _ => false
    | _ => true
  let head := [alone 0x188 (bare .b32 (vreg t) (preg 15) (.ofCode 835) .none .none), alone 0x050 (bare .b32 (vreg (t + 1)) (vreg t) .none .none .none)]
  let tests := vary.zipIdx.flatMap fun w =>
    ([alone 0x180 (bare .b32 (vreg (t + 2)) (w.1.1.1.word w.1.1.2) (vreg (t + 1)) .none .none),
      alone 0x140 (bare .n32 (preg 3) (vreg (t + 2)) (w.1.1.1.word w.1.1.2) (.ofCode 833) .none),
      skips 3 (-(4 + 3 * (w.2 : Int)))] : List JClause).map fun c => { c with high := w.2 != 0 }
  let taken := (eights words.length words).map fun l => ({ high := true, ins := l.flatMap fun w => match w.1.1.home with
    | .s _ => [(0x015, bare .b32 (sreg w.2) (w.1.1.word w.1.2) .none .none .none)]
    | _ => [(0x189, bare .b32 .none (w.1.1.word w.1.2) (.ofCode 835) .none .none),
            (0x015, bare .b32 (sreg w.2) (.ofCode 790) .none .none .none)] } : JClause)
  (if vary.isEmpty then [] else head ++ tests) ++ taken

/-- What stands at a source position: the clauses before the instruction, the words to be taken as scalars, the operand, and the vector
registers and scalars that are still unused. -/
structure Source where
  pre    : List JClause
  scalar : List ((Placed × Nat) × Nat)
  opd    : Operand
  v      : Nat
  s      : Nat
  deriving DecidableEq, Repr

/-- Source `k` of an operation, with vector registers unused from `t` on and scalars from `s` on. -/
def Layout.source (y : Layout) (o : JOp) (f : Fields) (k r t s : Nat) : Source :=
  match jRef r with
  | .value v =>
    if jPredAt o.opc k then (let p := y.pred v (min 2 k)
      { pre := p.1, scalar := [], opd := p.2, v := t, s := s })
    else
      let words := y.run v ((regsAt o.opc f k).getD (spanOf o.opc f k))
      let even (n : Nat) : Nat := 2 * ((n + 1) / 2)
      if scalarAt o.opc f k then
        { pre := [], scalar := words.zipIdx.map fun w => (w.1, s + w.2), opd := sreg s, v := t, s := s + even words.length }
      else match (y.place v).home, regsAt o.opc f k with
        | .v n, some _ => { pre := [], scalar := [], opd := vreg n, v := t, s := s }
        | _, _ => { pre := words.zipIdx.map fun w => w.1.1.load w.1.2 (vreg (t + w.2)), scalar := [], opd := vreg t, v := t + even words.length, s := s }
  | _ => { pre := [], scalar := [], opd := jOperand o.opc k r, v := t, s := s }

/-- The sources of an operation from position `k` on. -/
def Layout.sources (y : Layout) (o : JOp) (f : Fields) : List Nat → Nat → Nat → Nat → List Source
  | [], _, _, _ => []
  | r :: l, k, t, s => let x := y.source o f k r t s
    x :: y.sources o f l (k + 1) x.v x.s

/-- A memory operation without a register would be of scalar form and act once for its wave: its address goes through a vector register. -/
def widened (opc : Nat) (f : Fields) (t : Nat) : List JClause × Fields :=
  if (opc / 64 = 8 ∨ opc / 64 = 9) ∧ isScalar opc f = true ∧ (specOf opc).all (fun sp => sp.form != .once) = true then
    (([f.op1, if f.op1 = .litLo then .litHi else f.op1].take (spanOf opc f 1)).zipIdx.map fun a => moves (vreg (t + a.2)) a.1,
     { f with op1 := vreg t })
  else ([], f)

/-- Where an instruction delivers a result: at the value's home, or beside it and then moved home. -/
structure Sink where
  opd   : Operand
  after : List JClause
  deriving DecidableEq, Repr

/-- A predicate result: in its register, or in p3 on its way to a vector register. -/
def Placed.predSink (d : Placed) : Sink :=
  match d.home with
  | .p n => { opd := preg n, after := [] }
  | _ => { opd := preg 3, after := [fromPred (d.word 0) (preg 3)] }

/-- The sink of an operation's first destination, with vector registers unused from `t` on and scalar `s`: a single value goes to its
home, the scalar that BLZQ writes and the several values of a range are moved there. -/
def Layout.sink (y : Layout) (o : JOp) (f : Fields) (t s : Nat) : Sink :=
  let outs := (List.range (if jCarries o.opc then 1 else o.nr)).map fun r => y.place (o.first + r)
  match outs with
  | [] => { opd := if o.opc < 0x140 then vreg t else f.op0, after := [] }
  | d :: rest =>
    if d.ty = .pred then d.predSink
    else if o.opc = 0x305 then { opd := sreg s, after := [{ moves (d.word 0) (sreg s) with high := true }] }
    else if rest.isEmpty then { opd := d.word 0, after := [] }
    else { opd := vreg t, after := (outs.flatMap fun x => (List.range x.ty.words).map fun j => (x, j)).zipIdx.map fun w =>
      w.1.1.store w.1.2 (vreg (t + w.2)) }

/-- The clauses of a Trikan operation: its sources, the instruction, and its results to their homes. A collective's scalar is popped from
e6 in the same clause and read in the next (R396). -/
def Layout.trikan (y : Layout) (o : JOp) : List JClause :=
  let f := jFields o
  let s0 := 80 + 16 * (o.pos % 3)
  let srcs := y.sources o f o.refs 1 y.top s0
  let t := (srcs.getLast?.map fun x => x.v).getD y.top
  let opd (k : Nat) : Operand := ((srcs[k]?).map fun x => x.opd).getD .none
  let guard := if o.g < 2 then ([], preg 15) else y.pred ((o.g - 2) / 2) 0
  let words := srcs.flatMap fun x => x.scalar
  let out := y.sink o f t s0
  let carry : Option Sink := if jCarries o.opc then some (y.place (o.first + 1)).predSink else none
  let f1 : Fields := { f with
    stall := 15, ga := BitVec.ofNat 4 (guard.2.code - 792), op0 := if jToE6 o.opc then .none else out.opd,
    op1 := opd 0, op2 := opd 1, op3 := opd 2, op4 := (carry.map fun c => c.opd).getD (opd 3) }
  let (wide, f2) := widened o.opc f1 t
  let high : Bool := !words.isEmpty
  let pop : Fields := bare .b32 (sreg s0) (.ofCode 790) .none .none .none
  let home : JClause := { moves ((y.place o.first).word 0) (sreg s0) with high := true }
  let main : List JClause :=
    if jToE6 o.opc then [{ ins := [(o.opc, f2), (0x015, pop)], high := high }, home]
    else [({ alone o.opc f2 with high := high } : JClause)] ++ out.after
  srcs.flatMap (fun x => x.pre) ++ guard.1 ++ wide ++ uniformly t words ++ main ++ ((carry.map fun c => c.after).getD []) ++
    if o.opc = 0x380 then [alone 0x1C8 (bare .none .none .none .none .none .none)] else []

/-- The slots above the homes in which the phis of a block take their values. -/
def Layout.slots (y : Layout) (x : JBlock) : List (JOp × Nat) :=
  ((x.ops.filter fun o => o.opc == 0x3C0).foldl (fun l o => (l.1 ++ [(o, l.2)], l.2 + (y.place o.first).ty.words)) (([] : List (JOp × Nat)), y.top)).1

/-- What a thread does on the edge from block `b` to block `t`: the phis' values go to their slots, all of them before any phi is written. -/
def Layout.edge (y : Layout) (bs : List JBlock) (b t : Nat) : List JClause :=
  (((bs[t]?).map y.slots).getD []).flatMap fun p =>
    let from1 := (List.range (p.1.refs.length / 2)).findSome? fun k =>
      if (p.1.refs[2 * k]?).getD 0 / 4 = b then some ((p.1.refs[2 * k + 1]?).getD 0 / 4) else none
    match from1 with
    | none => []
    | some v => (y.run v (y.place p.1.first).ty.words).zipIdx.map fun w => w.1.1.load w.1.2 (vreg (p.2 + w.2))

/-- The clauses of an operation of block `b`: those of Table 21.1 as it lowers them, BRA with its two edges, the barriers between WAITM
and JOINM of m11 (R398), and all others as the Trikan instruction (R396). -/
def Layout.clauses (y : Layout) (bs : List JBlock) (x : JBlock) (b : Nat) (o : JOp) : List JClause :=
  let d := y.place o.first
  let units : Operand := .ofCode (832 + (o.refs[1]?).getD 0 / 4)
  let once (opc dir : Nat) : JClause := alone opc (bare .none .none units (.ofCode (832 + dir)) .none .none)
  let ways : Bool := o.refs.headD 0 == 5
  let mask : Nat := match (y.place (o.refs.headD 0 / 4)).home with
    | .m n => n
    | _ => 0
  let target (k : Nat) : Nat := (o.refs[k]?).getD 0 / 4
  let goes (k : Nat) : List JClause := y.edge bs b (target k) ++ [jumps (target k)]
  match o.opc with
  | 0x3C0 => match (y.slots x).find? fun p => p.1 == o with
    | none => []
    | some p => (List.range d.ty.words).map fun j => d.store j (vreg (p.2 + j))
  | 0x3C1 => [masks 0x1C4 (match d.home with
    | .m n => n
    | _ => 0)]
  | 0x3C2 => [masks 0x1C6 mask]
  | 0x3C3 => [masks 0x1C5 mask]
  | 0x3C4 => [if ways then once 0x285 0 else once 0x280 2]
  | 0x3C5 => [if ways then once 0x285 2 else once 0x282 2]
  | 0x3C6 => (List.range d.ty.words).map fun j => { moves (d.word j) .litLo with lit := some ((o.refs[j]?).getD 0 / 4) }
  | 0x1C0 => match jRef (o.refs.headD 3) with
    | .value v => let p := y.pred v 0
      p.1 ++ [skips (BitVec.ofNat 4 (p.2.code - 792)) ((goes 2).length + 1)] ++ goes 2 ++ goes 1
    | _ => goes 1
  | _ => if isBarrier o.opc then [masks 0x1C6 11] ++ y.trikan o ++ [masks 0x1C4 11] else y.trikan o

/-! ## Bytes -/

/-- The bytes of a clause. -/
def JClause.size (c : JClause) : Nat := 16 * (c.ins.length + 1)

/-- A clause at offset `at0` as bytes, its header first: the clause waits for flag `flag`, and its long-latency instructions count on it;
`prio` and what its literal holds beside its own use are free. -/
def JClause.bytes (c : JClause) (flag prio spare at0 : Nat) (goal : Option Nat) : List Byte :=
  let cls := (c.ins.findSome? fun x => classOf x.1).getD 0
  let lit : Nat := match goal, c.lit with
    | some g, _ => bitsOf ((g + 2 ^ 32 - at0)) 0 32 + 2 ^ 32 * (spare / 2 ^ 32 % 2 ^ 32)
    | none, some n => n % 2 ^ 32 + 2 ^ 32 * (spare / 2 ^ 32 % 2 ^ 32)
    | none, none => spare % 2 ^ 64
  let fl := flag % 12
  bytesLE 16 (0xA + 2 ^ 4 * cls + 2 ^ 8 * (c.ins.length - 1) + 2 ^ (12 + fl) + 2 ^ 24 * fl + 2 ^ 28 + 2 ^ 48 * (prio % 2 ^ 16) + 2 ^ 64 * lit) ++
    c.ins.flatMap fun x => bytesLE 16 (wordNat x.1 x.2)

/-- The offset of clause `i`. -/
def clauseOffset (cs : List JClause) (i : Nat) : Nat := ((cs.take i).map JClause.size).sum

/-- The bytes of a code: `starts` has the place of each block's first clause. -/
def codeBytes (pick : Nat → Nat) (cs : List JClause) (starts : List Nat) : List Byte :=
  cs.zipIdx.flatMap fun c =>
    let goal : Option Nat := match c.1.block, c.1.skip with
      | some b, _ => some (clauseOffset cs ((starts[b]?).getD 0))
      | none, some n => some (clauseOffset cs ((c.2 : Int) + n).toNat)
      | none, none => none
    c.1.bytes (pick 2) (if c.1.high then 2 ^ 16 - 1 else pick (3 + 2 * c.2) % (2 ^ 16 - 1)) (pick (4 + 2 * c.2)) (clauseOffset cs c.2) goal

/-- A code, and the launch record's fields for it. -/
structure JCode where
  code : List Byte
  cb   : Nat
  rb   : Nat
  deriving DecidableEq, Repr

/-- Bundles that some clauses name. -/
def bundlesOf (cs : List JClause) : Nat :=
  ((cs.flatMap fun c => c.ins.flatMap fun x => (regsNamed x.1 x.2).map fun r => match r with
    | .v n => n / 8 + 1
    | _ => 0).foldl max 1)

/-- Jorac's code for a container whose status is 0; none where it needs more than 640 vector registers, or more than 64 across a PHASE
(R402, status 10). -/
def emitted (pick : Nat → Nat) (h : Nat) (uniform : List Nat) (bs : List JBlock) : Option JCode :=
  match layoutOf pick (jNparam h) uniform bs with
  | none => none
  | some y =>
    let entry : List JClause := if needsAll (bs.flatMap fun b => b.ops) then [masks 0x1C4 11] else []
    let blocks := bs.zipIdx.map fun b => b.1.ops.flatMap (y.clauses bs b.1 b.2)
    let starts := (List.range bs.length).map fun b => entry.length + ((blocks.take b).map List.length).sum
    let cs := entry ++ blocks.flatten
    let rb := max y.cb (bundlesOf cs)
    if 80 < rb then none else some { code := codeBytes pick cs starts, cb := y.cb, rb := rb }

end Sys2Proof.Machine
end

