-- ==== Sys2Proof/Machine/Jorac.lean ====
section
/-!
DEFINITION. JORAC_FINALISE: the request, the copy of the container, the reply and the cache (R401 to R403).
-/
namespace Sys2Proof.Machine

/-! ## The request (R401 to R403) -/

/-- Fields of the request (Table 21.3). -/
structure JReq where
  cmd  : Nat
  oid  : Nat
  step : Nat
  src  : Nat
  len  : Nat
  ocap : Nat
  out  : Nat
  zero : Bool
  deriving DecidableEq, Repr

def jRequest (s : State) (fn : Nat) : JReq :=
  let x := natLE (readArea s (pageOff fn + 0x1000) 64)
  { cmd := bitsOf x 0 16, oid := bitsOf x 32 12, step := bitsOf x 48 16, src := bitsOf x 64 64, len := bitsOf x 128 32,
    ocap := bitsOf x 160 32, out := bitsOf x 192 64, zero := bitsOf x 16 16 == 0 && bitsOf x 44 4 == 0 && bitsOf x 256 256 == 0 }

/-- What Jorac answers: the reply's fields (Table 21.4), and the code that it writes. -/
structure JAnswer where
  status : Nat
  detail : Nat := 0
  key    : Nat := 0
  step   : Nat := 0
  cb     : Nat := 0
  rb     : Nat := 0
  sm     : Nat := 0
  mm     : Nat := 0
  code   : List Byte := []
  deriving DecidableEq, Repr

/-- The 64 bytes of the reply. -/
def JAnswer.bytes (a : JAnswer) : List Byte :=
  bytesLE 64 (a.status + a.rb * 2 ^ 43 + a.rb * 2 ^ 50 + a.sm * 2 ^ 57 + a.mm * 2 ^ 61 + a.cb * 2 ^ 64 +
    a.detail % 2 ^ 32 * 2 ^ 112 + a.step * 2 ^ 144 + a.code.length % 2 ^ 32 * 2 ^ 160 + a.key * 2 ^ 256)

/-- The code that the running Jorac image makes for a container whose status is 0, and its CB and RB = RM: a code of its own where that is
one of R396 to R399, or the emitted one. None needs more registers than there are (R402, status 10). -/
def made (s : State) (c : List Byte) (step : W16) : Option JCode :=
  let image := Config.imageBytes 4 s.booted
  let own : JCode := { code := Config.joracCode image c step, cb := (Config.joracClaim image c step).1, rb := (Config.joracClaim image c step).2 }
  if keptBy c own.code own.cb own.rb then some own
  else
    let h := natLE (c.take 32)
    match jBlocks h (c.drop 32) with
    | .error _ => none
    | .ok (bs, _) => emitted (Config.joracPick image c step) h (uniformOf s c bs) bs

/-- The finalised code of a container: from the cache, or as Jorac makes it; a hit returns the same bytes (R403). -/
def finalised (s : State) (c : List Byte) (step : W16) : Option JCode :=
  (made s c step).map fun m => match s.jorac.find? fun e => e.container == c && e.step == step with
    | some e => { m with code := e.code }
    | none => m

/-- The cache with a container's code in it. -/
def cacheCode (s : State) (c : List Byte) (step : W16) (code : List Byte) : State :=
  if s.jorac.any fun e => e.container == c && e.step == step then s
  else { s with jorac := { container := c, step := step, code := code } :: s.jorac }

/-- A request whose container has been copied (R402). -/
def finalise (s : State) (q : JReq) (step : Nat) (c : List Byte) : JAnswer × State :=
  let h := natLE (c.take 32)
  match containerStatus s c, finalised s c (BitVec.ofNat 16 step) with
  | (0, _), none => ({ status := 10 }, s)
  | (0, _), some m =>
    if q.ocap < m.code.length then ({ status := 11 }, s)
    else match ownerKeys s q.oid { rd := false, wr := true, fetch := true } q.out m.code.length with
      | .error _ => ({ status := 12 }, s)
      | .ok ks =>
        let s1 := tagLines q.oid (writeKeys (.l2 (homeSlice s (s.ctxGlade q.oid) (ks.headD 0))) s (ks.zip m.code)) ks
        ({ status := 0, key := natLE (shake256 32 (c ++ bytesLE 2 step)), step := step, cb := m.cb,
           rb := m.rb, sm := jSmax h, mm := jMmax h, code := m.code }, cacheCode s1 c (BitVec.ofNat 16 step) m.code)
  | (st, d), _ => ({ status := st, detail := d }, s)

/-- The stepping that a request asks for; 0 means the device's (Table 21.3). -/
def JReq.stepping (q : JReq) : Nat := if q.step = 0 then Config.stepping.toNat else q.step

/-- The answer to a request of a function. -/
def joracAnswer (s : State) (fn : Nat) (q : JReq) : JAnswer × State :=
  let step := q.stepping
  if q.cmd ≠ 1 ∨ q.zero = false ∨ fn = 0 ∨ s.ctxValid q.oid = false ∨ s.ctxGlade q.oid ≠ fn - 1 ∨
      Config.joracSchedules (Config.imageBytes 4 s.booted) (BitVec.ofNat 16 step) = false then ({ status := 13 }, s)
  else if q.out % 16 ≠ 0 then ({ status := 12 }, s)
  else match ownerRead s q.oid q.src q.len with
    | .error _ => ({ status := 12 }, s)
    | .ok c => finalise s q step c

/-- The granules that a request reads and writes: the container, and OUT; they wait for their owners and flips (R325, R363). -/
def jHeld (s : State) (q : JReq) (a : JAnswer) : Bool :=
  pinsHeld s q.oid [(q.src, q.len)] false || pinsHeld s q.oid [(q.out, a.code.length)] true

/-- JORAC_FINALISE (R401 to R403): the code at OUT is written before the reply. A request waits for a takeover (R314), and for the owners
of what it reads and writes. -/
def execJoracFinalise (fn : Nat) (s : State) : Host.Outcome State Fault Refusal :=
  let q := jRequest s fn
  let (a, s1) := joracAnswer s fn q
  if 17 ≤ fn ∨ mbdb s fn = false ∨ s.takingOver.isSome ∨ jHeld s q a = true then .next s
  else .next (reply s1 fn a.bytes)

end Sys2Proof.Machine
end

