-- ==== Sys2Proof/Machine/Trail.lean ====
section
/-!
DEFINITION. The trail engine (R263 to R266): GRAPH_RUN_START and NODE_COMPLETE; and LAUNCH_COMPLETE (R245), which makes room for
nodes that wait.
-/
namespace Sys2Proof.Machine

def State.run? (s : State) (uid : Nat) : Option Run := s.runs.find? fun r => r.uid == uid
def State.mapRun (s : State) (uid : Nat) (g : Run → Run) : State := { s with runs := updWhere (fun r => r.uid == uid) g s.runs }

/-- One record of the trail engine (R265). -/
def runRecord (s : State) (q : RunReq) (cls detail vaddr : Nat) : State :=
  raiseRecord s (Record.plain cls q.oid q.glade q.die 0 vaddr 0 detail)

/-- The run launches no further node (R265). -/
def stopRun (s : State) (uid : Nat) : State := s.mapRun uid fun r => { r with stopped := true, waiting := [] }

/-- A read of a node record, an edge header or a successor entry: its value, a state in which the run waits, for a page to be resolved or
for a command that owns what it reads (R363), or a recorded fault. -/
inductive RunRead where
  | ok (x : Nat)
  | page (s : State)
  | bad (s : State)
  deriving DecidableEq, Repr

def runRead (s : State) (r : Run) (denied : Option Nat) (va n : Nat) : RunRead :=
  if pinsHeld s r.req.oid [(va % 2 ^ 64, n)] false then .page s
  else match ownerRead s r.req.oid (va % 2 ^ 64) n with
  | .ok l => .ok (natLE l)
  | .error (e, a) =>
    if e = .page ∧ denied ≠ some a then .page (postPage s r.req.oid a (.run r.uid))
    else .bad (stopRun (runRecord s r.req e.cls e.detail a) r.uid)

/-! The edge header (Table 11.12). -/
def edgeAddr (r : Run) (i : Nat) : Nat := r.nodes + 272 * i + 256
def edgeSfirst (x : Nat) : Nat := bitsOf x 0 32
def edgeNsucc (x : Nat) : Nat := bitsOf x 32 32
def edgePinit (x : Nat) : Nat := bitsOf x 64 16
def edgeTinit (x : Nat) : Nat := bitsOf x 80 16

/-- An edge header, checked as it is read (R265). -/
def readEdge (s : State) (r : Run) (denied : Option Nat) (i : Nat) : RunRead :=
  match runRead s r denied (edgeAddr r i) 16 with
  | .ok x => if bitsOf x 96 32 ≠ 0 then .bad (stopRun (runRecord s r.req 11 73 (edgeAddr r i)) r.uid) else .ok x
  | y => y

/-- A node is to be launched, unless the run has stopped. -/
def queueNode (s : State) (uid j : Nat) : State :=
  s.mapRun uid fun r => if r.stopped then r else { r with waiting := r.waiting ++ [j] }

/-- Launches the nodes that wait, in order, while the die's pool has room (R246, R264). -/
def launchWaiting (denied : Option Nat) (uid : Nat) : Nat → State → State
  | 0, s => s
  | fuel + 1, s =>
    match s.run? uid with
    | none => s
    | some r =>
      match r.waiting with
      | [] => s
      | j :: rest =>
        if !poolRoom s r.req.die then s
        else match readEdge s r denied j with
          | .page s1 => s1
          | .bad s1 => s1
          | .ok e =>
            let q : Submission :=
              { die := r.req.die, oid := r.req.oid, glade := r.req.glade, cap := r.req.pcls, gen := r.gen,
                addr := r.nodes + 272 * j, cwAddr := 0, cwVal := 0, node := some (uid, j), tinit := edgeTinit e, qid := none,
                producers := [], preds := [] }
            if recordHeld s q then s
            else match submit s q denied with
            | .error va => postPage s r.req.oid va (.run uid)
            | .ok (s1, ok) =>
              let s2 := s1.mapRun uid fun r => { r with waiting := rest, launched := r.launched ++ [j] }
              if ok then launchWaiting denied uid fuel s2 else stopRun s2 uid

/-- Examines PINIT from `scan` on (R264). -/
def scanRoots (denied : Option Nat) (uid : Nat) : Nat → State → State
  | 0, s => s
  | fuel + 1, s =>
    match s.run? uid with
    | none => s
    | some r =>
      if r.stopped ∨ r.nn ≤ r.scan then s
      else match readEdge s r denied r.scan with
        | .page s1 => s1
        | .bad s1 => s1
        | .ok x =>
          let s1 := s.mapRun uid fun r => { r with scan := r.scan + 1 }
          let s2 := if edgePinit x = 0 then launchWaiting denied uid (r.waiting.length + 1) (queueNode s1 uid r.scan) else s1
          if s2.waitsOnPage (.run uid) then s2 else scanRoots denied uid fuel s2

/-- One successor: its counter is reloaded when it belongs to an earlier generation, decremented and written (R264). -/
def countDown (s : State) (r : Run) (whole : Bool) (j edge : Nat) : State :=
  let at0 := r.ctr + 8 * j
  match pinRead s r.req.oid at0 8 with
  | none => doubleFault s r.req.oid r.req.die (pinBad s r.req.oid false [(at0, 8)])
  | some l =>
    let c := natLE l
    let same := bitsOf c 0 16 == r.gen.toNat
    let pc := if same then bitsOf c 16 16 else edgePinit edge
    let tc := if same then bitsOf c 32 16 else edgeTinit edge
    let pc1 := if whole then (pc + 65535) % 65536 else pc
    let tc1 := if whole then tc else (tc + 65535) % 65536
    match pinWrite s r.req.oid at0 (bytesLE 8 (r.gen.toNat + pc1 * 2 ^ 16 + tc1 * 2 ^ 32 + bitsOf c 48 16 * 2 ^ 48)) with
    | none => doubleFault s r.req.oid r.req.die (pinBad s r.req.oid true [(at0, 8)])
    | some s1 => if whole && pc1 == 0 then queueNode s1 r.uid j else s1

/-- Walks the successors of a completed node from where the walk stands; a faulty entry is recorded and passed over. -/
def walkSuccs (denied : Option Nat) (uid edge : Nat) : Nat → State → State
  | 0, s => s.mapRun uid fun r => { r with walk := none }
  | fuel + 1, s =>
    match s.run? uid with
    | none => s
    | some r =>
      match r.walk with
      | none => s
      | some (i, k) =>
        if edgeNsucc edge ≤ k then s.mapRun uid fun r => { r with walk := none }
        else
          let next (s : State) : State := s.mapRun uid fun r => { r with walk := some (i, k + 1) }
          let va := r.succ + 4 * (edgeSfirst edge + k)
          match runRead s r denied va 4 with
          | .page s1 => s1
          | .bad s1 => s1.mapRun uid fun r => { r with walk := none }
          | .ok x =>
            let j := x % 2 ^ 31
            if r.nn ≤ j then walkSuccs denied uid edge fuel (next (stopRun (runRecord s r.req 11 73 va) uid))
            else match readEdge s r denied j with
              | .page s1 => s1
              | .bad s1 => walkSuccs denied uid edge fuel (next s1)
              | .ok e =>
                if pinsHeld s r.req.oid [(r.ctr + 8 * j, 8)] false then s
                else
                let s1 := launchWaiting denied uid (r.waiting.length + 1) (next (countDown s r (x / 2 ^ 31 == 0) j e))
                if s1.waitsOnPage (.run uid) then s1 else walkSuccs denied uid edge fuel s1

/-- The walk of the node that has completed last. -/
def walkNode (denied : Option Nat) (uid : Nat) (s : State) : State :=
  match s.run? uid with
  | none => s
  | some r =>
    match r.walk with
    | none => s
    | some (i, k) =>
      match readEdge s r denied i with
      | .page s1 => s1
      | .bad s1 => s1.mapRun uid fun r => { r with walk := none }
      | .ok e => walkSuccs denied uid e (edgeNsucc e - k + 1) s

/-- A run whose nodes are complete ends: BUSY := 0, then its completion word (R264, R265, R413). -/
def finishRun (denied : Option Nat) (uid : Nat) (s : State) : State :=
  match s.run? uid with
  | none => s
  | some r =>
    let all := r.launched.all fun j => r.complete.contains j
    let ovr := r.walk.isNone && all && r.waiting.isEmpty && (r.stopped || decide (r.nn ≤ r.complete.length))
    if !ovr || pinsHeld s r.req.oid [(r.req.table, 64)] false then s
    else
      let s1 : Option State := if r.ended then some s
        else match pinRead s r.req.oid (r.req.table + 26) 1 with
          | none => none
          | some l => pinWrite s r.req.oid (r.req.table + 26) [BitVec.ofNat 8 (natLE l - natLE l % 2)]
      match s1 with
      | none => doubleFault s r.req.oid r.req.die (r.req.table + 26)
      | some s2 =>
        let (s3, ok) := writeWord s2 r.req.oid r.req.glade r.req.die r.req.cwAddr r.req.cwVal (.run uid) denied
        if ok then { s3 with runs := s3.runs.filter fun r => r.uid != uid }
        else s3.mapRun uid fun r => { r with ended := true }

/-- Goes on with a run as far as it can; `denied` is a page that the executive has refused. -/
def runGo (denied : Option Nat) (s : State) (uid : Nat) : State :=
  match s.run? uid with
  | none => s
  | some r =>
    if s.waitsOnPage (.run uid) then s
    else
      let s1 := if r.ended then s else launchWaiting denied uid r.waiting.length s
      let s2 := if r.ended || s1.waitsOnPage (.run uid) then s1 else walkNode denied uid s1
      let s3 := if r.ended || s2.waitsOnPage (.run uid) then s2 else scanRoots denied uid (r.nn - r.scan) s2
      if s3.waitsOnPage (.run uid) then s3 else finishRun denied uid s3

/-- A run has something left to do that it has not stopped at a page for: it waited for a command (R363). -/
def unfinished (s : State) (r : Run) : Bool :=
  !s.waitsOnPage (.run r.uid) && (r.walk.isSome || (!r.stopped && decide (r.scan < r.nn)) || (!r.waiting.isEmpty && poolRoom s r.req.die) ||
    (r.waiting.isEmpty && r.launched.all fun j => r.complete.contains j))

/-- Runs that have waited for a command go on. -/
def settleRuns (s : State) : State := (s.runs.filter (unfinished s)).foldl (fun s r => runGo none s r.uid) s

/-- Goes on with every run of a die. -/
def runsGo (s : State) (die : Nat) : State :=
  (s.runs.filter fun r => r.req.die == die).foldl (fun s r => runGo none s r.uid) s

/-- A store of a launch's blocks is still in a store path: the end of its block, a release at .dev, is not performed yet (R245, R262). -/
def storesLeft (s : State) (launch : Nat) : Bool :=
  s.path.any fun x => x.core != hwCore && (s.phases.any fun p => p.uid == x.blk && p.launch == launch)

/-- LAUNCH_COMPLETE (R245, R413); nodes that waited for room go on (R246). -/
def execLaunchComplete (launch : Nat) (s : State) : Host.Outcome State Fault Refusal :=
  match s.launch? launch with
  | none => .next s
  | some l =>
    if l.ovr && !s.waitsOnPage (.launch launch) && !storesLeft s launch then .next (runsGo (completeLaunch s l none) l.die)
    else .next s

/-- The check of a graph table header (R265). -/
def tableBad (h : Nat) : Bool :=
  bitsOf h 288 224 != 0 || bitsOf h 209 47 != 0 || bitsOf h 256 32 == 0 || bitsOf h 0 64 % 16 != 0 || bitsOf h 64 64 % 4 != 0 ||
  bitsOf h 128 64 % 8 != 0

/-- What a request meets: its header's number, or a fault on it. -/
def runHeader (s : State) (q : RunReq) : Option Nat := (pinRead s q.oid q.table 64).map natLE

/-- A request that the engine can take: its header faults or is refused, or its graph is not busy. -/
def canTake (s : State) (q : RunReq) : Bool :=
  !pinsHeld s q.oid [(q.table, 64)] false && match runHeader s q with
  | none => true
  | some h => tableBad h || bitAt h 208 == 0

/-- The generation that a run writes back for its graph: the header's one more, and 1 after the greatest. -/
def nextGen (h : Nat) : Nat :=
  let g := (bitsOf h 192 16 + 1) % 2 ^ 16
  if g = 0 then 1 else g

/-- The run of a request whose header reads as `h`. A refused run has no node and has ended. -/
def newRun (uid : Nat) (q : RunReq) (h : Nat) : Run :=
  { uid := uid, req := q, gen := BitVec.ofNat 16 (nextGen h), nn := if tableBad h then 0 else bitsOf h 256 32,
    nodes := bitsOf h 0 64, succ := bitsOf h 64 64, ctr := bitsOf h 128 64, launched := [], complete := [],
    waiting := [], stopped := tableBad h, scan := 0, walk := none, ended := tableBad h }

/-- The state in which a request has become a run. -/
def withRun (s : State) (q : RunReq) (h : Nat) : State :=
  { s with runReqs := s.runReqs.erase q, uids := s.uids + 1, runs := s.runs ++ [newRun s.uids q h] }

/-- No run of the same graph was requested earlier, on any die, and waits still (R264). -/
def firstOfGraph (s : State) (q : RunReq) : Bool :=
  (s.runReqs.takeWhile fun x => x != q).all fun x => x.oid != q.oid || x.table != q.table

/-- GRAPH_RUN_START (R264, R265): the first request of the die whose graph is not busy and has no earlier request. A refused run
keeps nothing but its completion word. -/
def execGraphRunStart (die : Nat) (s : State) : Host.Outcome State Fault Refusal :=
  match s.runReqs.find? fun q => q.die == die && canTake s q && firstOfGraph s q with
  | none => .next s
  | some q =>
    match runHeader s q with
    | none => .next (doubleFault { s with runReqs := s.runReqs.erase q } q.oid q.die (pinBad s q.oid false [(q.table, 64)]))
    | some h =>
      let s1 := withRun s q h
      if tableBad h then .next (runGo none (runRecord s1 q 11 72 q.table) s.uids)
      else match pinWrite s1 q.oid (q.table + 24) (bytesLE 3 (nextGen h + 2 ^ 16)) with
        | none => .next (doubleFault s1 q.oid q.die (pinBad s1 q.oid true [(q.table + 24, 3)]))
        | some s2 => .next (runGo none s2 s.uids)

/-- NODE_COMPLETE (R264, R266): every block of the node is done, or its record was refused; its successors are walked. -/
def execNodeComplete (run node : Nat) (s : State) : Host.Outcome State Fault Refusal :=
  match s.run? run with
  | none => .next s
  | some r =>
    if r.launched.contains node && !r.complete.contains node && r.walk.isNone && !s.waitsOnPage (.run run) &&
        !s.launches.any (fun l => l.node == some (run, node)) then
      .next (runGo none (s.mapRun run fun r => { r with complete := r.complete ++ [node], walk := some (node, 0) }) run)
    else .next s

end Sys2Proof.Machine
end

