-- ==== Sys2Proof/Machine/Tiles.lean ====
section
/-!
DEFINITION. Group 12's launch and tile instructions: LAUNCH, GRUN, BLAZE, BLZQ and BLZDROP (R258 to R261); and BLAZE_PUBLISH (R256).
-/
namespace Sys2Proof.Machine

/-! ## Operands (Table 11.9) -/

/-- A record or graph table address: an s pair or the literal. -/
def addressOperand (c : Ctx) (o : Operand) : Option Nat :=
  match o with
  | .s n => if n.val % 2 = 0 then some (joinPair (c.readS true n) (c.readS true (n + 1))) else none
  | .litLo => some c.lit
  | _ => none

/-- A completion value. -/
def valueOperand (c : Ctx) (o : Operand) : Option W32 :=
  match o with
  | .s n => some (c.readS true n)
  | .int k => some (BitVec.ofNat 32 k.val)
  | .zero => some 0
  | .ones => some 0xFFFFFFFF#32
  | .litLo => some (BitVec.ofNat 32 c.lit)
  | .litHi => some (BitVec.ofNat 32 (c.lit / 2 ^ 32))
  | _ => none

/-- The completion address and value; 822 takes none. -/
def completionOperands (c : Ctx) (f : Fields) : Option (Nat × W32) :=
  match f.op2 with
  | .zero => if f.op3 = .none then some (0, 0) else none
  | .s n => if n.val % 2 = 0 then
      (valueOperand c f.op3).map fun v => (joinPair (c.readS true n) (c.readS true (n + 1)), v) else none
  | _ => none

/-- The gang number and rank of a resident block. -/
def blockGang (s : State) (b : Block) : Option (Nat × Nat) :=
  match s.phase? b.uid with
  | some p => gangPlace s p
  | none => none

/-- A key operand: the key, and whether it is a template key. -/
def keyOperand (s : State) (c : Ctx) (o : Operand) : Except Stop (Nat × Bool) :=
  match o with
  | .s n => if n.val % 2 = 0 then .ok (joinPair (c.readS true n) (c.readS true (n + 1)) % 2 ^ 48, false) else c.illegalOp
  | .litLo => .ok (c.lit % 2 ^ 48, false)
  | .int j =>
    let t := lOutt (recordOf s c.b)
    if tV t = false ∨ tKeys t ≤ j.val then c.resource
    else .ok (tKey t (blockLvl (recordOf s c.b) c.b.n (blockGang s c.b)) j.val, true)
  | _ => c.illegalOp

/-! ## LAUNCH and GRUN (R259) -/

/-- What LAUNCH does, where `denied` is a page of the record or of PARAM that the executive has refused (R241). -/
def launching (denied : Option Nat) (f : Fields) (s : State) (c : Ctx) : Except Stop Go :=
  match addressOperand c f.op1, completionOperands c f with
  | some a, some (cw, v) =>
    if a % 16 ≠ 0 then c.align a
    else if pathStuck s c.b.die c.b.core then c.wait s
    else
      let s1 := releaseAt s c.b 5
      if !poolRoom s1 c.b.die then c.wait s1
      else
        let (mine, preds) := match s1.launch? c.b.launch with
          | some l => (l.uid :: l.producers, l.nodes)
          | none => ([], [])
        let q : Submission :=
          { die := c.b.die, oid := c.b.oid, glade := c.b.glade, cap := c.b.pcls, gen := 0, addr := a, cwAddr := cw, cwVal := v,
            node := none, tinit := 0, qid := none, producers := mine, preds := preds }
        if recordHeld s1 q then c.wait s1
        else match submit s1 q denied with
        | .error va => .error (.record va c.e.mask s1)
        | .ok (s2, _) => .ok (.seq (counted s2 c f))
  | _, _ => c.illegalOp

/-- LAUNCH. -/
def execLaunch (f : Fields) (s : State) : Host.Outcome State Fault Refusal := issue 0x302 f s (launching none f)

/-- GRUN. -/
def execGrun (f : Fields) (s : State) : Host.Outcome State Fault Refusal :=
  issue 0x303 f s fun s c =>
    match addressOperand c f.op1, completionOperands c f with
    | some a, some (cw, v) =>
      if a % 16 ≠ 0 then c.align a
      else if pathStuck s c.b.die c.b.core then c.wait s
      else
        let s1 := releaseAt s c.b 5
        if 16 ≤ (s1.runReqs.filter fun r => r.die == c.b.die).length then c.wait s1
        else
          let r : RunReq := { die := c.b.die, oid := c.b.oid, glade := c.b.glade, pcls := c.b.pcls, table := a, cwAddr := cw,
                              cwVal := v }
          .ok (.seq (counted { s1 with runReqs := s1.runReqs ++ [r] } c f))
    | _, _ => c.illegalOp

/-! ## Blazes -/

/-- A consumer count; `own` is the template's. -/
def countOperand (c : Ctx) (o : Operand) (own : Option Nat) : Option Nat :=
  match o with
  | .s n => some (c.readS true n).toNat
  | .int k => some k.val
  | .zero => some 0
  | .litLo => some (c.lit % 2 ^ 32)
  | .litHi => some (c.lit / 2 ^ 32)
  | .none => own
  | _ => none

/-- The scope operand, 836 to 839. -/
def scopeOperand (o : Operand) : Option Nat :=
  match o with
  | .int n => if 4 ≤ n.val ∧ n.val ≤ 7 then some n.val else none
  | _ => none

/-- The key is one of OUTT's. -/
def isTemplateKey : Operand → Bool
  | .int _ => true
  | _ => false

/-- BLAZE (R260): the release, then the publication on its way to its home die. Its operands' kinds are checked before the key
that a template gives (R42, R258). -/
def execBlaze (f : Fields) (s : State) : Host.Outcome State Fault Refusal :=
  issue 0x304 f s fun s c =>
    match scopeOperand f.op3, countOperand c f.op2 (if isTemplateKey f.op1 then some (tCnt (lOutt (recordOf s c.b))) else none) with
    | some sc, some n =>
      match keyOperand s c f.op1 with
      | .error e => .error e
      | .ok (key, _) =>
        if pathStuck s c.b.die c.b.core then c.wait s
        else
        let (id, s1) := (releaseAt s c.b sc).fresh
        let p : Publication :=
          { id := id, oid := c.b.oid, key := BitVec.ofNat 48 key, gen := c.b.gen, count := min n 4095, blk := c.ref.blk,
            launch := c.b.launch, wave := c.ref.wave, mask := c.e.mask, hdr := c.e.hdr, idx := c.e.idx, op := some id }
        .ok (.seq (countOnFlag { s1 with pubs := s1.pubs ++ [p] } c f id false))
    | _, _ => c.illegalOp

/-- BLZQ (R261). -/
def execBlzq (f : Fields) (s : State) : Host.Outcome State Fault Refusal :=
  issue 0x305 f s fun s c =>
    match f.op0, keyOperand s c f.op1 with
    | .s _, .ok (key, _) =>
      let ovr := if s.overflowed.contains (overflowBit key) then 2 ^ 30 else 0
      let x := match s.blaze? c.b.oid key with
        | some b => 2 ^ 31 + b.count.toNat * 2 ^ 16 + b.gen.toNat
        | none => 0
      .ok (.seq (result s c c.w f f.op0 true true c.e.mask 0 [List.replicate 32 (BitVec.ofNat 32 (x + ovr))] 0))
    | .s _, .error e => .error e
    | _, _ => c.illegalOp

/-- BLZDROP (R261). -/
def execBlzdrop (f : Fields) (s : State) : Host.Outcome State Fault Refusal :=
  issue 0x306 f s fun s c =>
    match keyOperand s c f.op1 with
    | .error e => .error e
    | .ok (key, _) =>
      .ok (.seq (counted { s with blazes := s.blazes.filter fun b => !isBlaze c.b.oid key b } c f))

/-! ## At the home die (R256, R257) -/

/-- A publication's entry; a count of 0 makes it persistent. -/
def Publication.entry (p : Publication) : Blaze :=
  { oid := p.oid, key := p.key, gen := p.gen, count := BitVec.ofNat 12 p.count, persistent := p.count == 0 }

/-- The first free slot of an owner's overflow area. -/
def freeListed (s : State) (oid : Nat) : Option Nat :=
  (List.range 4096).find? fun i => !s.listed.any fun x => x.oid == oid && x.slot == i

/-- A double fault that a publication causes, of the BLAZE that made it. -/
def publisherDouble (s : State) (p : Publication) (va : Nat) : State :=
  match s.block? p.blk with
  | some b => doubleAt s (blockRecord s b (b.wave? p.wave) 14 0 va (16 * p.hdr.toNat) p.idx p.mask true)
  | none => doubleFault s p.oid (homeDie p.key.toNat) va

/-- A publication that finds its set full goes to the owner's overflow area, or is kept nowhere (R256, R257). -/
def listBlaze (s : State) (p : Publication) : State :=
  if s.regBits (0xD0000 + 8 * p.oid) 0 1 = 0 then s
  else match freeListed s p.oid with
    | none => s
    | some i =>
      let base := s.regBits (0xD0000 + 8 * p.oid) 16 48 * 2 ^ 16
      let k := p.key.toNat
      match pinWrite s p.oid (base + 16 * i) (bytesLE 6 k ++ bytesLE 2 p.gen.toNat ++ bytesLE 2 p.count ++ [1, 0, 0, 0, 0, 0]) with
      | none => publisherDouble s p (pinBad s p.oid true [(base + 16 * i, 16)])
      | some s1 =>
        { s1 with listed := s1.listed ++ [{ oid := p.oid, slot := i, blaze := p.entry, launch := p.launch }],
                  overflowed := if s1.overflowed.contains (overflowBit k) then s1.overflowed else overflowBit k :: s1.overflowed }

/-- A publication that finds a newer generation is discarded, with the stale-blaze fault of its block (R256). -/
def stalePublisher (s : State) (p : Publication) (gen : W16) : State :=
  let d := p.gen.toNat * 2 ^ 16 + gen.toNat
  match s.block? p.blk with
  | some b => fatalFault s b (b.wave? p.wave) 9 d p.key.toNat (16 * p.hdr.toNat) p.idx p.mask
  | none => raiseRecord s { Record.plain 9 p.oid (s.ctxGlade p.oid) (homeDie p.key.toNat) (16 * p.hdr.toNat) p.key.toNat 0 d
              with index := p.idx, lmask := p.mask.toNat }

/-- The publication at its set (Table 11.8). -/
def publish (s : State) (p : Publication) : State :=
  let k := p.key.toNat
  let put (b : Blaze) : State := { s with blazes := updWhere (isBlaze p.oid k) (fun _ => b) s.blazes }
  match s.blaze? p.oid k with
  | some b =>
    if b.gen = p.gen then
      let keep := b.persistent || p.count == 0
      put { b with count := if keep then 0 else BitVec.ofNat 12 (min (b.count.toNat + p.count) 4095), persistent := keep }
    else if newer b.gen p.gen then stalePublisher s p b.gen
    else put p.entry
  | none =>
    let full := decide (8 ≤ (s.blazes.filter fun b => overflowBit b.key.toNat == overflowBit k).length)
    if full then listBlaze s p else { s with blazes := s.blazes ++ [p.entry] }

/-- BLAZE_PUBLISH (R256): the publication arrives, and its BLAZE completes. -/
def execBlazePublish (pub : Nat) (s : State) : Host.Outcome State Fault Refusal :=
  match s.pubs.find? fun p => p.id == pub with
  | none => .next s
  | some p =>
    let s1 := publish { s with pubs := s.pubs.filter fun x => x.id != pub } p
    .next (s1.mapWave p.blk p.wave fun w => { w with ops := updWhere (fun o => some o.id == p.op) (fun o => { o with ready := true }) w.ops })

end Sys2Proof.Machine
end

