-- ==== Sys2Proof/Machine/Rounds.lean ====
section
/-!
DEFINITION. Rounds and completions: ROUND_OPEN (R12, R27, R30, R46, R289), LONG_LATENCY_COMPLETE (R30, R43, R355), E6_PUSH (R25),
WAVE_END (R115, R141), BACKGROUND_COMPLETE (R162, R230, R378), the directory's events (R229), and PAGE_FAULT_RESOLVE (R291).
-/
namespace Sys2Proof.Machine

/-! ## Opening a clause -/

/-- The words of the clause at an address, header first; only the header where it fails R27. -/
def fetchClause (s : State) (b : Block) (at0 : Nat) : Except (AccFault × Nat) (List W128) :=
  match fetchWord s b at0 with
  | .error e => .error (e, at0)
  | .ok h =>
    if !headerOk h then .ok [h]
    else (List.range (hdrCnt h + 1)).foldl (fun acc i =>
      match acc with
      | .error e => .error e
      | .ok l => match fetchWord s b (at0 + 16 * (i + 1)) with
        | .error e => .error (e, (at0 + 16 * (i + 1)) % 2 ^ 64)
        | .ok w => .ok (l ++ [w])) (.ok [h])

/-- The flags that a header names as valid. -/
def namedFlags (h : W128) : BitVec 12 :=
  let bit (o : Option Nat) : BitVec 12 := match o with
    | some k => BitVec.ofNat 12 (2 ^ k)
    | none => 0
  bit (hdrFlagA h) ||| bit (hdrFlagB h)

/-- An entry opens its clause, or takes park state 14, waits for its page, or faults; whether it has opened. An entry that goes
on inside a clause it had fetched keeps those words (R46). A clause that opens is never stale, although R46 lets the next two
clauses be: log entry 52. -/
def openEntry (s : State) (r : ERef) (second : Bool) : State × Bool :=
  match ctxAt s r with
  | none => (s, false)
  | some c =>
    let at0 := 16 * c.e.hdr.toNat
    let anew : Bool := c.e.idx == 0 || c.e.clause.isEmpty
    let fault (cls detail va : Nat) : State := fatalFault s c.b (some c.w) cls detail va at0 c.e.idx c.e.mask
    match if anew then fetchClause s c.b at0 else .ok c.e.clause with
    | .error (.page, va) => (takePage s r c.b.oid c.b.glade va c.e.mask, false)
    | .error (e, va) => (fault e.cls e.detail va, false)
    | .ok [] => (s, false)
    | .ok (h :: ws) =>
      let s1 := if anew then fillTlb s c.b.who at0 else s
      if anew && !headerOk h then (fault 1 0 0, false)
      else if hdrCnt h < c.e.idx then
        let s2 := s1.mapEntry r fun e => { e with clause := h :: ws }
        (s2.mapWave r.blk r.wave fun w => settleWave s2 c.b w, false)
      else if !c.w.ilk && flagWait c.w.f h then
        (s1.mapEntry r fun e => { e with park := 14, clause := h :: ws }, false)
      else
        let go (w : Wave) : Wave :=
          { w.mapEntry r.lane (fun e => { e with opn := true, second := second, clause := h :: ws, prio := hdrPrio h }) with f := w.f ||| namedFlags h }
        (s1.mapWave r.blk r.wave go, true)

/-- The slices that hold lanes of a mask (R8). -/
def sliceSet (m : W32) : List Nat := (List.range 8).filter fun k => (m >>> (4 * k)) &&& 0xF#32 != 0

/-- An entry that may open: runnable, and in trap mode with a lane of T (R12, R278). -/
def Wave.mayOpen (w : Wave) (e : Entry) : Bool :=
  e.park == 0 && !e.opn && e.hold == .none && match w.trap with
    | none => true
    | some t => e.mask &&& t.lanes != 0

/-- Inserts an entry in the order of R10. -/
def insertEntry (e : Entry) : List Entry → List Entry
  | [] => [e]
  | a :: t => if a.before e then a :: insertEntry e t else e :: a :: t

def sortEntries (l : List Entry) : List Entry := l.foldr insertEntry []

/-- Opens the primary, then a secondary whose slices are disjoint from the primary's; entries that do not open are passed by. -/
def openRound (blk wave : Nat) : List Entry → Option (List Nat) → State → State
  | [], _, s => s
  | e :: t, primary, s =>
    match (lanesOf e.mask).head? with
    | none => openRound blk wave t primary s
    | some lane =>
      let clash : Bool := match primary with
        | none => false
        | some p => (sliceSet e.mask).any p.contains
      if clash then openRound blk wave t primary s
      else
        let (s1, opened) := openEntry s { blk := blk, wave := wave, lane := lane } primary.isSome
        if !opened then openRound blk wave t primary s1
        else match primary with
          | none => openRound blk wave t (some (sliceSet e.mask)) s1
          | some _ => s1

/-- The words that an entry would fetch lie in a line that a command owns (R363) or in a frame that flips (R325). -/
def fetchHeld (s : State) (b : Block) (e : Entry) : Bool :=
  (e.idx == 0 || e.clause.isEmpty) && rangeHeld s b.who (16 * e.hdr.toNat) 272 false

/-- An entry before a clause has the priority of the clause's header (Table 1.1), also where its page was absent when the entry came
there. -/
def Entry.ranked (s : State) (b : Block) (e : Entry) : Entry :=
  if e.idx = 0 ∧ e.clause = [] then match fetchWord s b (16 * e.hdr.toNat) with
    | .ok h => { e with prio := hdrPrio h }
    | .error _ => e
  else e

/-- ROUND_OPEN (R12). -/
def execRoundOpen (w : WRef) (s : State) : Host.Outcome State Fault Refusal :=
  match s.wave? w with
  | none => .next s
  | some (b, v) =>
    let ready := v.frontier.filter fun e => v.mayOpen e && !fetchHeld s b e
    if b.halt = .halted ∨ v.ended ∨ (v.frontier.any fun e => e.opn) ∨ ready.isEmpty then .next s
    else
      let s1 := s.mapWave w.blk w.wave fun v => { v with frontier := v.frontier.map (Entry.ranked s b) }
      .next (settleAt (openRound w.blk w.wave (sortEntries (ready.map (Entry.ranked s b))) none s1) w)

/-! ## Completions -/

/-- The writes of a register that issued before a long-latency one count no longer in the lanes that it has filled (R43). -/
def Wave.forget (w : Wave) (r : Reg) (lanes : W32) : Wave :=
  { w with recent := w.recent.map fun x => if x.reg = r then { x with mask := x.mask &&& ~~~lanes } else x }

/-- A long-latency write lands; in lanes that a later instruction has written, either value stays (R43). A wide form that issues
within 3 clk of a scalar's writer, which issued at `at0`, still finds the old value on the bus (R24). -/
def landWrite (at0 seed : Nat) (ovr : List (Reg × W32)) (w : Wave) (x : RegWrite) : Wave :=
  let late := ovr.foldl (fun a o => if o.1 = x.reg then a ||| o.2 else a) 0
  let keep := maskOf fun l => late.getLsbD l && Config.freeBit (8 * (seed * 32 + l) + 1)
  let w1 := match x.reg with
    | .s _ => w.remember at0 at0 true x.reg 1
    | _ => w.forget x.reg (x.mask &&& ~~~late)
  w1.put { x with mask := x.mask &&& ~~~keep }

/-- Delivers what long-latency work has computed. -/
def landOp (seed : Nat) (w : Wave) (o : LongOp) : Wave :=
  let w1 := (o.writes.zipIdx).foldl (fun w x => landWrite (o.due - 1) (seed * 64 + x.2) o.ovr w x.1) w
  ({ w1 with ops := w1.ops.filter fun x => x.id != o.id }).sticky o.sticky.toNat

/-- A RAST of the core that issued earlier is outstanding (R355). -/
def earlierRast (s : State) (b : Block) (op : Nat) : Bool :=
  (onCore s b.die b.core).any fun x => x.waves.any fun w => w.ops.any fun o => o.rast.isSome && decide (o.id < op)

/-- LONG_LATENCY_COMPLETE (R30); the last load of a block that stands at a barrier completes it (R143). -/
def execLongLatencyComplete (w : WRef) (op : Nat) (s : State) : Host.Outcome State Fault Refusal :=
  match s.wave? w with
  | none => .next s
  | some (b, v) =>
    match v.ops.find? fun o => o.id == op with
    | none => .next s
    | some o =>
      if !o.ready || decide (s.clkOf b.die < o.due) || (o.rast.isSome && (commandWaits s op || earlierRast s b op)) then .next s
      else
        let s1 := match o.rast with
          | some r => applyRast w.blk w.wave s r
          | none => s
        let s2 : State := { s1.mapWave w.blk w.wave (fun v => landOp s.free v o) with free := s.free + 1 }
        .next (if o.access then checkBarrier (settleAt s2 w) w.blk else settleAt s2 w)

/-- E6_PUSH (R25): the oldest result in flight reaches e6, and the work that sent it is complete. -/
def execE6Push (w : WRef) (s : State) : Host.Outcome State Fault Refusal :=
  match s.wave? w with
  | none => .next s
  | some (b, v) =>
    match v.flights with
    | [] => .next s
    | x :: t =>
      if s.clkOf b.die < x.due then .next s
      else
        let push (v : Wave) : Wave :=
          ({ v with flights := t, e6 := v.e6 ++ [(x.value, x.seq)], ops := v.ops.filter fun o => o.id != x.op }).sticky x.sticky.toNat
        .next (settleAt (s.mapWave w.blk w.wave push) w)

/-- Everything that a wave has issued has completed (R115). -/
def waveWorkDone (s : State) (b : Block) (w : Wave) : Bool :=
  w.ops.isEmpty && w.flights.isEmpty && (match b.tenant with
    | none => true
    | some t => t.queue.all fun q => q.wave != w.wave) && s.copies.all fun c => c.blk != b.uid || c.wave != w.wave

/-- WAVE_END (R115, R141): its claim returns; the block ends with its last wave, whose end is a release at .dev (R262) and so waits for
stores that wait for a command, and a barrier may be complete (R142). -/
def execWaveEnd (w : WRef) (s : State) : Host.Outcome State Fault Refusal :=
  match s.wave? w with
  | none => .next s
  | some (b, v) =>
    if v.ended || v.live != 0 || !waveWorkDone s b v then .next s
    else if b.waves.all fun x => x.ended || x.wave == w.wave then
      -- commands of waves that ended while the block was away from its core (R225)
      if b.queueEmpty && !pathStuck s b.die b.core && s.copies.all fun c => c.blk != w.blk then .next (endBlock s w.blk false) else .next s
    else
      let s1 := s.mapWave w.blk w.wave fun v => { v with ended := true, claim := 0, v := [] }
      .next (retest (checkClaims (checkBarrier s1 w.blk) w.blk) b.die b.core)

/-- BACKGROUND_COMPLETE (R162, R230): a plain store of a core, or a write of the hardware, is performed at its target after the earlier
stores that it follows, and after what R363, R365 and R325 let it wait for; or a peer refuses it, which is fatal to its block (R378). -/
def execBackgroundComplete (die core idx : Nat) (refused : Bool) (s : State) : Host.Outcome State Fault Refusal :=
  let mine := s.path.filter fun p => p.die == die && p.core == core
  match mine[idx]? with
  | none => .next s
  | some p =>
    let peer := decide (2 ^ 40 ≤ p.key) && decide (p.key < 2 ^ 50)
    if (mine.take idx).any p.follows || storeWaits s p || !(s.flipsOf p.key).isEmpty then .next s
    else if !refused then .next (checkBarriers (performStore { s with path := s.path.erase p } p) die core)
    else if !peer then .next s
    else
      let s1 : State := { s with path := s.path.erase p }
      match s1.block? p.blk with
      | none => .next s1
      | some b => .next (fatalFault s1 b (b.wave? p.wave) 6 100 p.va (16 * p.hdr.toNat) p.idx p.mask)

/-! ## The directory (R229) -/

/-- A holder that exists and may hold the line: caches hold device and host lines (R309), a window its own lines. -/
def holderOk (s : State) (line : Nat) (h : Holder) : Bool :=
  let key := 128 * line
  (decide (key < 2 ^ 37) || (decide (2 ^ 51 ≤ key) && decide (key < 2 ^ 52))) && match h with
    | .l1 die core => decide (die < 4) && decide (core < 192)
    | .l2 n => decide (n < 64)
    | .grove die g => decide (die < 4) && decide (g < 12)
    | .engine c => s.copies.any (fun x => x.id == c)
    | .host => true
    | .port => decide (2 ^ 51 ≤ key)
    | .dist _ | .ring _ _ => false
    | .window blk w => match s.block? blk with
      | none => false
      | some b => match b.offOfKey key with
        | none => false
        | some off => (b.winOfOff off).any (fun x => x.win == w) && (fillRefused s b off false).isNone

/-- A window line is marked filled. -/
def markFilled (s : State) (line : Nat) (h : Holder) : State :=
  match h with
  | .window blk _ =>
    match s.block? blk with
    | none => s
    | some b => match b.offOfKey (128 * line) with
      | none => s
      | some off => match b.winOfOff off with
        | none => s
        | some w => fillWindow s blk w (off - w.off)
  | _ => s

/-- The holder is an L1. -/
def l1Holder : Holder → Bool
  | .l1 _ _ => true
  | _ => false

/-- An L1 holds its lines in S alone (R151). -/
def keepShared (h : Holder) (s : State) (line : Nat) : State :=
  if l1Holder h then { s with dir := updWhere (isEnt line h) (fun d => { d with st := .shared }) s.dir } else s

/-- DIR_READ_SHARED. -/
def execDirReadShared (line : Nat) (h : Holder) (s : State) : Host.Outcome State Fault Refusal :=
  if holderOk s line h && (s.dirEnt? line h).isNone && (s.flipsOf (128 * line)).isEmpty && !lineOwned s line h then
    .next (keepShared h (readShared (markFilled s line h) line h) line)
  else .next s

/-- DIR_READ_OWN; an engine that takes a line clears the reservations on it (R169). An L1 never asks for ownership (R151). -/
def execDirReadOwn (line : Nat) (h : Holder) (s : State) : Host.Outcome State Fault Refusal :=
  if holderOk s line h && (s.flipsOf (128 * line)).isEmpty && !lineOwned s line h && !l1Holder h then
    let s1 := readOwn (markFilled s line h) line h
    .next (match h with
      | .engine _ => clearReservations s1 line
      | _ => s1)
  else .next s

/-- DIR_WRITE_BACK: the holder's dirty sectors go to the home; it is then in E (R156, Table 10.7), beside other holders too (log entry 34). A line
that a command owns stays in M (R362). -/
def execDirWriteBack (line : Nat) (h : Holder) (s : State) : Host.Outcome State Fault Refusal :=
  match s.dirEnt? line h with
  | none => .next s
  | some d =>
    if (d.st = .modified ∨ d.st = .owned) ∧ !lineOwned s line .host then
      let s1 := writeBackEnt s d
      .next { s1 with dir := updWhere (isEnt line h) (fun x => { x with st := .exclusive, dirty := 0 }) s1.dir }
    else .next s

/-- DIR_RECALL: the holder writes back its dirty sectors and moves to S, or to I; a line that a command owns is recalled after the
command's write (R363, R370). -/
def execDirRecall (line : Nat) (h : Holder) (toShared : Bool) (s : State) : Host.Outcome State Fault Refusal :=
  match s.dirEnt? line h with
  | none => .next s
  | some d =>
    if lineOwned s line .host then .next s
    else
    let s1 := writeBackEnt s d
    .next { s1 with dir := if toShared then updWhere (isEnt line h) (fun x => { x with st := .shared, dirty := 0 }) s1.dir
                           else s1.dir.filter fun x => !isEnt line h x }

/-! ## Page faults (R291) -/

/-- Where a walk finds the entry with VAL = 0, from level `4 - n`. -/
def missingSlot (s : State) (va : Nat) : Nat → Nat → Option Nat
  | 0, _ => none
  | n + 1, base =>
    let a := base + 8 * (va / 2 ^ levelShift (4 - n) % 4096)
    let e := natLE (s.physBytes a 8)
    if bitAt e 0 = 0 then some a
    else if bitAt e 4 = 1 then none
    else missingSlot s va n (pteAddr e)

/-- The leader writes a leaf where the page's walk ended. -/
def mapPage (s : State) (oid va : Nat) (leaf : W64) : State :=
  match walk s oid va with
  | .page => match missingSlot s va 4 (s.ptroot oid) with
    | some a => pairWrite s (s.regBits 0 8 2) a (bytesLE 8 leaf.toNat)
    | none => s
  | _ => s

/-- The page-table entry that `mapPage` writes is held by a command (R363). -/
def slotHeld (s : State) (oid va : Nat) : Bool :=
  anyHeld s && (missingSlot s va 4 (s.ptroot oid)).any fun a => heldKeys s (owners s) (targetOf a false 0).key 8 true

/-- What a page fault holds goes on: it makes its access again. -/
def replay (s : State) (p : PageFault) : State :=
  let s1 : State := { s with pfs := s.pfs.filter fun x => x.id != p.id }
  match p.who with
  | .entry r => s1.mapEntry r fun e => if e.hold = .page p.id then { e with hold := .none } else e
  | .record r => s1.mapEntry r fun e => if e.hold = .page p.id then { e with hold := .none } else e
  | .copy c => s1.mapCopy c fun x => { x with pf := none }
  | .run u => runGo none s1 u
  | .queue _ | .launch _ | .phase _ => s1

/-- A LAUNCH whose record or PARAM page the executive has refused: the launch is refused with FATAL 0, and the block goes on (R241). -/
def refuseRecord (s : State) (r : ERef) (va : Nat) : State :=
  let s1 := s.mapEntry r fun e => { e with hold := .none }
  match ctxAt s1 r with
  | none => s1
  | some c => match c.e.word.map decode with
    | some (.ok (.launch f)) => issueChecked { s1 with free := s1.free + 1 } c 0x302 f (launching (some va) f)
    | _ => s1

/-- A page fault that the executive does not resolve: fatal to its block with FATAL = 1, or the queue, launch or run goes on
without the page (R244, R241, R265, R413). -/
def denyPage (s : State) (p : PageFault) : State :=
  let s1 : State := { s with pfs := s.pfs.filter fun x => x.id != p.id }
  match p.who with
  | .entry r => match ctxAt s r with
    | none => s1
    | some c => fatalFault s1 c.b (some c.w) 5 0 p.va (16 * c.e.hdr.toNat) c.e.idx p.lanes
  | .record r => refuseRecord s1 r p.va
  | .copy i => match s.copies.find? fun c => c.id == i with
    | none => s1
    | some c => match s.block? c.blk with
      | none => s1
      | some b => copyFault s1 b c 5 0 p.va
  | .queue q => (acceptEntry s1 q (some p.va)).getD s1
  | .launch u => match s.launch? u with
    | none => s1
    | some l => runsGo (completeLaunch s1 l (some p.va)) l.die
  | .run u => runGo (some p.va) s1 u
  | .phase u => match s.phase? u with
    | none => s1
    | some x => match s.launch? x.launch with
      | none => s1
      | some l => phaseFault s1 l x 5 0 p.va

/-- PAGE_FAULT_RESOLVE: the faults of one owner on one page join one resolution (R290); page faults wait for a takeover (R314). -/
def execPageFaultResolve (pf : Nat) (r : PfAnswer) (s : State) : Host.Outcome State Fault Refusal :=
  match s.pfs.find? fun p => p.id == pf && s.takingOver.isNone with
  | none => .next s
  | some p =>
    let all := s.pfs.filter fun x => x.oid == p.oid && x.va / 2 ^ 16 == p.va / 2 ^ 16
    match r with
    | .map leaf => if slotHeld s p.oid p.va then .next s else .next (all.foldl replay (mapPage s p.oid p.va leaf))
    | .deny => .next (all.foldl (fun s x => if s.pfs.contains x then denyPage s x else s) s)

end Sys2Proof.Machine
end

