-- ==== Sys2Proof/Machine/Dispatch.lean ====
section
/-! DEFINITION. `exec`: one arm for each constructor of `Instr`, each a call of that instruction's or event's own meaning. -/
namespace Sys2Proof.Machine

/-- One row of the opcode table carried out in a state. -/
def exec (i : Instr) (s : State) : Host.Outcome State Fault Refusal :=
  match i with
  | .iadd f => Sys2Proof.Machine.execIadd f s
  | .isub f => Sys2Proof.Machine.execIsub f s
  | .iaddc f => Sys2Proof.Machine.execIaddc f s
  | .isubb f => Sys2Proof.Machine.execIsubb f s
  | .iadds f => Sys2Proof.Machine.execIadds f s
  | .isubs f => Sys2Proof.Machine.execIsubs f s
  | .imul f => Sys2Proof.Machine.execImul f s
  | .imulh f => Sys2Proof.Machine.execImulh f s
  | .imad f => Sys2Proof.Machine.execImad f s
  | .imadw f => Sys2Proof.Machine.execImadw f s
  | .idiv f => Sys2Proof.Machine.execIdiv f s
  | .irem f => Sys2Proof.Machine.execIrem f s
  | .ineg f => Sys2Proof.Machine.execIneg f s
  | .iabs f => Sys2Proof.Machine.execIabs f s
  | .imin f => Sys2Proof.Machine.execImin f s
  | .imax f => Sys2Proof.Machine.execImax f s
  | .iclamp f => Sys2Proof.Machine.execIclamp f s
  | .idiff f => Sys2Proof.Machine.execIdiff f s
  | .idp4 f => Sys2Proof.Machine.execIdp4 f s
  | .idp2 f => Sys2Proof.Machine.execIdp2 f s
  | .lea f => Sys2Proof.Machine.execLea f s
  | .mov f => Sys2Proof.Machine.execMov f s
  | .movw f => Sys2Proof.Machine.execMovw f s
  | .and f => Sys2Proof.Machine.execAnd f s
  | .or f => Sys2Proof.Machine.execOr f s
  | .xor f => Sys2Proof.Machine.execXor f s
  | .andn f => Sys2Proof.Machine.execAndn f s
  | .not f => Sys2Proof.Machine.execNot f s
  | .shl f => Sys2Proof.Machine.execShl f s
  | .shr f => Sys2Proof.Machine.execShr f s
  | .sar f => Sys2Proof.Machine.execSar f s
  | .rotl f => Sys2Proof.Machine.execRotl f s
  | .rotr f => Sys2Proof.Machine.execRotr f s
  | .funnel f => Sys2Proof.Machine.execFunnel f s
  | .bfx f => Sys2Proof.Machine.execBfx f s
  | .bfi f => Sys2Proof.Machine.execBfi f s
  | .brev f => Sys2Proof.Machine.execBrev f s
  | .popc f => Sys2Proof.Machine.execPopc f s
  | .clz f => Sys2Proof.Machine.execClz f s
  | .ctz f => Sys2Proof.Machine.execCtz f s
  | .fadd f => Sys2Proof.Machine.execFadd f s
  | .fsub f => Sys2Proof.Machine.execFsub f s
  | .fmul f => Sys2Proof.Machine.execFmul f s
  | .ffma f => Sys2Proof.Machine.execFfma f s
  | .fmin f => Sys2Proof.Machine.execFmin f s
  | .fmax f => Sys2Proof.Machine.execFmax f s
  | .fminn f => Sys2Proof.Machine.execFminn f s
  | .fmaxn f => Sys2Proof.Machine.execFmaxn f s
  | .fabs f => Sys2Proof.Machine.execFabs f s
  | .fclamp f => Sys2Proof.Machine.execFclamp f s
  | .frnd f => Sys2Proof.Machine.execFrnd f s
  | .ffrac f => Sys2Proof.Machine.execFfrac f s
  | .fscl f => Sys2Proof.Machine.execFscl f s
  | .fexpn f => Sys2Proof.Machine.execFexpn f s
  | .fmant f => Sys2Proof.Machine.execFmant f s
  | .fdiv f => Sys2Proof.Machine.execFdiv f s
  | .fsqrt f => Sys2Proof.Machine.execFsqrt f s
  | .frcp f => Sys2Proof.Machine.execFrcp f s
  | .frsq f => Sys2Proof.Machine.execFrsq f s
  | .fexp2 f => Sys2Proof.Machine.execFexp2 f s
  | .flog2 f => Sys2Proof.Machine.execFlog2 f s
  | .fsin f => Sys2Proof.Machine.execFsin f s
  | .fcos f => Sys2Proof.Machine.execFcos f s
  | .ftanh f => Sys2Proof.Machine.execFtanh f s
  | .cvt f => Sys2Proof.Machine.execCvt f s
  | .pack f => Sys2Proof.Machine.execPack f s
  | .unpk f => Sys2Proof.Machine.execUnpk f s
  | .bpack f => Sys2Proof.Machine.execBpack f s
  | .bunpk f => Sys2Proof.Machine.execBunpk f s
  | .isetp f => Sys2Proof.Machine.execIsetp f s
  | .fsetp f => Sys2Proof.Machine.execFsetp f s
  | .fclass f => Sys2Proof.Machine.execFclass f s
  | .sel f => Sys2Proof.Machine.execSel f s
  | .plop f => Sys2Proof.Machine.execPlop f s
  | .ptov f => Sys2Proof.Machine.execPtov f s
  | .vtop f => Sys2Proof.Machine.execVtop f s
  | .shfl f => Sys2Proof.Machine.execShfl f s
  | .tlu f => Sys2Proof.Machine.execTlu f s
  | .zip2 f => Sys2Proof.Machine.execZip2 f s
  | .zip3 f => Sys2Proof.Machine.execZip3 f s
  | .zip4 f => Sys2Proof.Machine.execZip4 f s
  | .unz2 f => Sys2Proof.Machine.execUnz2 f s
  | .unz3 f => Sys2Proof.Machine.execUnz3 f s
  | .unz4 f => Sys2Proof.Machine.execUnz4 f s
  | .vote f => Sys2Proof.Machine.execVote f s
  | .reduce f => Sys2Proof.Machine.execReduce f s
  | .wscan f => Sys2Proof.Machine.execWscan f s
  | .rdlane f => Sys2Proof.Machine.execRdlane f s
  | .bra f => Sys2Proof.Machine.execBra f s
  | .brx f => Sys2Proof.Machine.execBrx f s
  | .call f => Sys2Proof.Machine.execCall f s
  | .callB64 f => Sys2Proof.Machine.execCallB64 f s
  | .ret f => Sys2Proof.Machine.execRet f s
  | .joinm f => Sys2Proof.Machine.execJoinm f s
  | .leavem f => Sys2Proof.Machine.execLeavem f s
  | .waitm f => Sys2Proof.Machine.execWaitm f s
  | .mskmov f => Sys2Proof.Machine.execMskmov f s
  | .exit f => Sys2Proof.Machine.execExit f s
  | .nop f => Sys2Proof.Machine.execNop f s
  | .yield f => Sys2Proof.Machine.execYield f s
  | .ld f => Sys2Proof.Machine.execLd f s
  | .st f => Sys2Proof.Machine.execSt f s
  | .lds f => Sys2Proof.Machine.execLds f s
  | .sts f => Sys2Proof.Machine.execSts f s
  | .stmap f => Sys2Proof.Machine.execStmap f s
  | .stunmap f => Sys2Proof.Machine.execStunmap f s
  | .stflush f => Sys2Proof.Machine.execStflush f s
  | .pref f => Sys2Proof.Machine.execPref f s
  | .atom f => Sys2Proof.Machine.execAtom f s
  | .atomr f => Sys2Proof.Machine.execAtomr f s
  | .cas f => Sys2Proof.Machine.execCas f s
  | .lr f => Sys2Proof.Machine.execLr f s
  | .sc f => Sys2Proof.Machine.execSc f s
  | .fence f => Sys2Proof.Machine.execFence f s
  | .waita f => Sys2Proof.Machine.execWaita f s
  | .waitaReevaluate e => Sys2Proof.Machine.execWaitaReevaluate e s
  | .waitaTimeout e => Sys2Proof.Machine.execWaitaTimeout e s
  | .acqReg f => Sys2Proof.Machine.execAcqReg f s
  | .acqMslot f => Sys2Proof.Machine.execAcqMslot f s
  | .acqt f => Sys2Proof.Machine.execAcqt f s
  | .rel f => Sys2Proof.Machine.execRel f s
  | .give f => Sys2Proof.Machine.execGive f s
  | .claim f => Sys2Proof.Machine.execClaim f s
  | .carveGet f => Sys2Proof.Machine.execCarveGet f s
  | .carveTry f => Sys2Proof.Machine.execCarveTry f s
  | .carvePut f => Sys2Proof.Machine.execCarvePut f s
  | .phase f => Sys2Proof.Machine.execPhase f s
  | .bar f => Sys2Proof.Machine.execBar f s
  | .regroup f => Sys2Proof.Machine.execRegroup f s
  | .mtenQuiesce f => Sys2Proof.Machine.execMtenQuiesce f s
  | .mtenResume f => Sys2Proof.Machine.execMtenResume f s
  | .mtenReset f => Sys2Proof.Machine.execMtenReset f s
  | .mtenCtr f => Sys2Proof.Machine.execMtenCtr f s
  | .mwld f => Sys2Proof.Machine.execMwld f s
  | .mswap f => Sys2Proof.Machine.execMswap f s
  | .mrun f => Sys2Proof.Machine.execMrun f s
  | .minit f => Sys2Proof.Machine.execMinit f s
  | .mrda f => Sys2Proof.Machine.execMrda f s
  | .mrdaOvf f => Sys2Proof.Machine.execMrdaOvf f s
  | .msync f => Sys2Proof.Machine.execMsync f s
  | .enqE0 f => Sys2Proof.Machine.execEnqE0 f s
  | .enqE1 f => Sys2Proof.Machine.execEnqE1 f s
  | .deq f => Sys2Proof.Machine.execDeq f s
  | .mwldExecute blk => Sys2Proof.Machine.execMwldExecute blk s
  | .mswapExecute blk => Sys2Proof.Machine.execMswapExecute blk s
  | .mrunExecute blk => Sys2Proof.Machine.execMrunExecute blk s
  | .minitExecute blk => Sys2Proof.Machine.execMinitExecute blk s
  | .mrdaExecute blk => Sys2Proof.Machine.execMrdaExecute blk s
  | .slotChangeEffect blk => Sys2Proof.Machine.execSlotChangeEffect blk s
  | .gbar f => Sys2Proof.Machine.execGbar f s
  | .gbarComplete gang => Sys2Proof.Machine.execGbarComplete gang s
  | .cpy f => Sys2Proof.Machine.execCpy f s
  | .cpyS f => Sys2Proof.Machine.execCpyS f s
  | .copyExecute cid => Sys2Proof.Machine.execCopyExecute cid s
  | .copyStatusPush cid => Sys2Proof.Machine.execCopyStatusPush cid s
  | .launch f => Sys2Proof.Machine.execLaunch f s
  | .grun f => Sys2Proof.Machine.execGrun f s
  | .blaze f => Sys2Proof.Machine.execBlaze f s
  | .blzq f => Sys2Proof.Machine.execBlzq f s
  | .blzdrop f => Sys2Proof.Machine.execBlzdrop f s
  | .pxst f => Sys2Proof.Machine.execPxst f s
  | .pxld f => Sys2Proof.Machine.execPxld f s
  | .tex f => Sys2Proof.Machine.execTex f s
  | .texf f => Sys2Proof.Machine.execTexf f s
  | .rast f => Sys2Proof.Machine.execRast f s
  | .trap f => Sys2Proof.Machine.execTrap f s
  | .svc f => Sys2Proof.Machine.execSvc f s
  | .rtt f => Sys2Proof.Machine.execRtt f s
  | .brkp f => Sys2Proof.Machine.execBrkp f s
  | .mfsr f => Sys2Proof.Machine.execMfsr f s
  | .mtsr f => Sys2Proof.Machine.execMtsr f s
  | .roundOpen w => Sys2Proof.Machine.execRoundOpen w s
  | .longLatencyComplete w op => Sys2Proof.Machine.execLongLatencyComplete w op s
  | .e6Push w => Sys2Proof.Machine.execE6Push w s
  | .waveEnd w => Sys2Proof.Machine.execWaveEnd w s
  | .pendingGrant die core => Sys2Proof.Machine.execPendingGrant die core s
  | .phaseEnd blk => Sys2Proof.Machine.execPhaseEnd blk s
  | .regroupPermute blk => Sys2Proof.Machine.execRegroupPermute blk s
  | .dirReadShared line h => Sys2Proof.Machine.execDirReadShared line h s
  | .dirReadOwn line h => Sys2Proof.Machine.execDirReadOwn line h s
  | .dirWriteBack line h => Sys2Proof.Machine.execDirWriteBack line h s
  | .dirRecall line h toShared => Sys2Proof.Machine.execDirRecall line h toShared s
  | .promote blk => Sys2Proof.Machine.execPromote blk s
  | .racqProceed e => Sys2Proof.Machine.execRacqProceed e s
  | .pageFaultResolve pf r => Sys2Proof.Machine.execPageFaultResolve pf r s
  | .queueArrival qid => Sys2Proof.Machine.execQueueArrival qid s
  | .queueEntryAccept qid => Sys2Proof.Machine.execQueueEntryAccept qid s
  | .blockCreate launch => Sys2Proof.Machine.execBlockCreate launch s
  | .phaseReady phase => Sys2Proof.Machine.execPhaseReady phase s
  | .phaseDispatch die core => Sys2Proof.Machine.execPhaseDispatch die core s
  | .ageingPeriod die => Sys2Proof.Machine.execAgeingPeriod die s
  | .launchComplete launch => Sys2Proof.Machine.execLaunchComplete launch s
  | .quotaPeriodStart die => Sys2Proof.Machine.execQuotaPeriodStart die s
  | .quotaOverrun die oid => Sys2Proof.Machine.execQuotaOverrun die oid s
  | .blazePublish pub => Sys2Proof.Machine.execBlazePublish pub s
  | .graphRunStart die => Sys2Proof.Machine.execGraphRunStart die s
  | .nodeComplete run node => Sys2Proof.Machine.execNodeComplete run node s
  | .priorityPreempt die => Sys2Proof.Machine.execPriorityPreempt die s
  | .blockPark blk => Sys2Proof.Machine.execBlockPark blk s
  | .svcReplyLand oid slot bytes => Sys2Proof.Machine.execSvcReplyLand oid slot bytes s
  | .svcReplyDeliver w => Sys2Proof.Machine.execSvcReplyDeliver w s
  | .precmd v => Sys2Proof.Machine.execPrecmd v s
  | .preemptHalt blk => Sys2Proof.Machine.execPreemptHalt blk s
  | .preemptSave blk => Sys2Proof.Machine.execPreemptSave blk s
  | .tlbi v => Sys2Proof.Machine.execTlbi v s
  | .l2ModeSwitch v => Sys2Proof.Machine.execL2ModeSwitch v s
  | .ftAssign v => Sys2Proof.Machine.execFtAssign v s
  | .ftRelease v => Sys2Proof.Machine.execFtRelease v s
  | .ftBiasToHost v => Sys2Proof.Machine.execFtBiasToHost v s
  | .ftBiasToDevice v => Sys2Proof.Machine.execFtBiasToDevice v s
  | .hostCxlMemRead addr n => Sys2Proof.Machine.execHostCxlMemRead addr n s
  | .hostCxlMemWrite addr bytes => Sys2Proof.Machine.execHostCxlMemWrite addr bytes s
  | .hostSnoop line write => Sys2Proof.Machine.execHostSnoop line write s
  | .hostRegisterRead fn off => Sys2Proof.Machine.execHostRegisterRead fn off s
  | .msixSend fn vec => Sys2Proof.Machine.execMsixSend fn vec s
  | .mailboxDoorbell fn => Sys2Proof.Machine.execMailboxDoorbell fn s
  | .mailboxReply fn bytes => Sys2Proof.Machine.execMailboxReply fn bytes s
  | .joracFinalise fn => Sys2Proof.Machine.execJoracFinalise fn s
  | .lockstepMismatch die => Sys2Proof.Machine.execLockstepMismatch die s
  | .heartbeatTimeout die => Sys2Proof.Machine.execHeartbeatTimeout die s
  | .takeoverAttempt die => Sys2Proof.Machine.execTakeoverAttempt die s
  | .throttleDown die => Sys2Proof.Machine.execThrottleDown die s
  | .throttleUp die => Sys2Proof.Machine.execThrottleUp die s
  | .gladeEnable g => Sys2Proof.Machine.execGladeEnable g s
  | .gladeDisable g => Sys2Proof.Machine.execGladeDisable g s
  | .memlayWrite v => Sys2Proof.Machine.execMemlayWrite v s
  | .accessTableWrite t iid win v => Sys2Proof.Machine.execAccessTableWrite t iid win v s
  | .peerRequest p h addr r => Sys2Proof.Machine.execPeerRequest p h addr r s
  | .shenerMacFailure port => Sys2Proof.Machine.execShenerMacFailure port s
  | .functionLevelReset n => Sys2Proof.Machine.execFunctionLevelReset n s
  | .tagWalkSweep die v => Sys2Proof.Machine.execTagWalkSweep die v s
  | .spdmGetMeasurements fn r => Sys2Proof.Machine.execSpdmGetMeasurements fn r s
  | .rollbackRecord r => Sys2Proof.Machine.execRollbackRecord r s
  | .fatalError cause => Sys2Proof.Machine.execFatalError cause s
  | .frameStart d => Sys2Proof.Machine.execFrameStart d s
  | .mapCommand d v => Sys2Proof.Machine.execMapCommand d v s
  | .captureStart d v => Sys2Proof.Machine.execCaptureStart d v s
  | .displayEnable d v => Sys2Proof.Machine.execDisplayEnable d v s
  | .displayDisable d v => Sys2Proof.Machine.execDisplayDisable d v s
  | .registerWrite port v => Sys2Proof.Machine.execRegisterWrite port v s
  | .backgroundComplete die core idx refused => Sys2Proof.Machine.execBackgroundComplete die core idx refused s
  | .kill t => Sys2Proof.Machine.execKill t s
  | .shenerKeyExchange k => Sys2Proof.Machine.execShenerKeyExchange k s
  | .firmwareImageUpdate u => Sys2Proof.Machine.execFirmwareImageUpdate u s
  | .leaderElection => Sys2Proof.Machine.execLeaderElection s
  | .heartbeat => Sys2Proof.Machine.execHeartbeat s
  | .deviceReset => Sys2Proof.Machine.execDeviceReset s
  | .biasFlipComplete => Sys2Proof.Machine.execBiasFlipComplete s
  | .ideKmKeyProg slot key => Sys2Proof.Machine.execIdeKmKeyProg slot key s

end Sys2Proof.Machine
end

