-- ==== Sys2Proof/Machine/Progress.lean ====
section
/-!
DEFINITION. What happens from step to step: a move is run, and time passes (R10, R12, R35, R42, R247, R251, R272). MODEL: the
order in which independent parts of the device move is one deterministic choice of the model, which `State.agenda` overrides.
-/
namespace Sys2Proof.Machine

/-! ## Running a move -/

/-- The kind of an instruction. -/
def issueKind : Instr → IssueKind
  | .mwld _ | .mswap _ | .mrun _ | .minit _ | .mrda _ | .mrdaOvf _ => .matrix
  | .cpy _ | .cpyS _ => .copy
  | .mov f => if f.op0 = .e 0 then .matrix else if f.op0 = .e 3 then .copy else .plain
  | _ => .plain

/-- The kind of the instruction at which an entry stands. -/
def Entry.kind (e : Entry) : IssueKind :=
  match e.word.map decode with
  | some (.ok i) => issueKind i
  | _ => .plain

/-- The wave issues from an entry: the clk, the entry's place and its kind are noted (R14), and where the entry goes on the wave goes to
the end of its half's order (R148). -/
def Wave.issues (w : Wave) (lane clk n : Nat) (goes : Bool) : Wave :=
  match w.entry? lane with
  | some e =>
    let w1 : Wave := { w with issued := { clk := clk, second := e.second, kind := e.kind } :: w.issued.filter fun i => i.clk == clk }
    if goes then { w1 with turn := n } else w1
  | none => w

/-- The state in which an entry issues: it is the issuing entry, its wave has had its turn where `goes`, and a dispatched phase of
its block is running (R248). -/
def issueFrom (s : State) (r : ERef) (goes : Bool) : State :=
  let clk := match s.block? r.blk with
    | some b => s.clkOf b.die
    | none => 0
  let s1 : State := { s.mapWave r.blk r.wave (fun w => w.issues r.lane clk (s.free + 1) goes) with cur := some r }
  match s.phase? r.blk with
  | some p => if p.st = .dispatched then setPhase s1 r.blk .running else s1
  | none => s1

/-- The entry that a reference names. -/
def entryOf (s : State) (r : ERef) : Option Entry := (s.wave? { blk := r.blk, wave := r.wave }).bind fun x => x.2.entry? r.lane

/-- What the issuing entry's instruction does. -/
def execCur (s : State) : Host.Outcome State Fault Refusal :=
  match ctxOf s with
  | none => .refused .noIssuingEntry
  | some c => match c.e.word with
    | none => .refused .noIssuingEntry
    | some w => match decode w with
      | .error _ => .next (takeFault s c 1 0 0 c.e.mask)
      | .ok i => exec i s

/-- What an entry was blocked on has been removed: its instruction would not block it again. -/
def unblocked (s : State) (r : ERef) (e : Entry) : Bool :=
  match execCur (issueFrom s r false) with
  | .next t => (entryOf t r).all fun x => x.hold != .blocked || x.done != e.done
  | _ => false

/-- An entry's instruction goes on now: it waits for nothing, or what blocked it is gone (R148). -/
def goesNow (s : State) (r : ERef) (e : Entry) : Bool := e.hold == .none || (e.hold == .blocked && unblocked s r e)

/-- The reference of an entry, by its lowest lane. -/
def refOf (b : Block) (w : Wave) (e : Entry) : ERef := { blk := b.uid, wave := w.wave, lane := ((lanesOf e.mask).head?).getD 0 }

/-- An entry that may issue now, apart from the order of waves. -/
def issuable (s : State) (b : Block) (w : Wave) (e : Entry) : Bool :=
  e.ready && decide (e.notBefore ≤ s.clkOf b.die) && b.halt != .halted && !w.ended && goesNow s (refOf b w e) e

/-- A wave's place in its half's round-robin order; one that yields comes after the others (R120, R148). -/
def turnKey (clk : Nat) (w : Wave) : List Nat := [if clk < w.yieldTo then 1 else 0, w.turn]

/-- Another wave of the half comes earlier in its round-robin order and has an issuable instruction (R148). A wave that has
issued is the last in the order, which is what YLD asks for (R35). While the clk stands still, every wave may issue in it. -/
def behind (s : State) (b : Block) (w : Wave) : Bool :=
  (s.pace[b.die]?).getD 0 != 0 && s.blocks.any fun x => x.die == b.die && x.core == b.core && x.waves.any fun y =>
    y.half == w.half && !keysLe (turnKey (s.clkOf b.die) w) (turnKey (s.clkOf b.die) y) && y.frontier.any (issuable s x y)

/-- Where an issue stands among those of one clk on its core (R14, R190): half 0 first, the lower wave slot, the primary first. A wave's
slot is taken to be h0 + WAVE, log entry 52. -/
def issueKey (b : Block) (w : Wave) (second : Bool) : List Nat := [w.half, b.h0 + w.wave, second.toNat]

/-- Of two issues of one clk, the first counts as the later: in one wave the secondary (R14), of two matrix commands of a core by R190, of
two copy records of a grove by their cores and then R190 (R224), and of two others of a block by their waves (R273). -/
def countsLater (x : Block × Wave × Bool × IssueKind) (y : Block × Wave × Bool × IssueKind) : Bool :=
  let key (core : Bool) (z : Block × Wave × Bool × IssueKind) : List Nat := (if core then [z.1.core] else []) ++ issueKey z.1 z.2.1 z.2.2.1
  if x.1.uid == y.1.uid && x.2.1.wave == y.2.1.wave then x.2.2.1 && !y.2.2.1
  else match x.2.2.2, y.2.2.2 with
    | .matrix, .matrix => x.1.die == y.1.die && x.1.core == y.1.core && !keysLe (key false x) (key false y)
    | .copy, .copy => (x.1.grovePlace 0).1 == (y.1.grovePlace 0).1 && !keysLe (key true x) (key true y)
    | .plain, .plain => x.1.uid == y.1.uid && decide (y.2.1.wave < x.2.1.wave)
    | _, _ => false

/-- An instruction that counts as later has issued in this clk. -/
def overtaken (s : State) (b : Block) (w : Wave) (e : Entry) : Bool :=
  s.blocks.any fun x => x.die == b.die && x.waves.any fun y => y.issued.any fun i =>
    i.clk == s.clkOf b.die && countsLater (x, y, i.second, i.kind) (b, w, e.second, e.kind)

/-- An entry that would issue before its wave's turn (R148), or after an instruction of its clk that counts as later (R14, R190). -/
def outOfTurn (s : State) (r : ERef) : Bool :=
  match s.wave? { blk := r.blk, wave := r.wave } with
  | some (b, w) => (w.entry? r.lane).any fun e => overtaken s b w e || (goesNow s r e && behind s b w)
  | none => false

/-- The state in which an entry issues. -/
def toIssue (s : State) (r : ERef) : State := issueFrom s r ((entryOf s r).any (goesNow s r))

/-- The issue of an entry's next instruction (R42); a word that is no instruction is an illegal-instruction fault (R41). -/
def runIssue (s : State) (r : ERef) : Host.Outcome State Fault Refusal :=
  let s1 := toIssue s r
  match ctxOf s1 with
  | none => .refused .noIssuingEntry
  | some c => if c.clk < c.e.notBefore || outOfTurn s r then .refused .noIssuingEntry else execCur s1

/-- Runs a move: the issue of an entry, or a step that no instruction word names. -/
def runMove (s : State) : Move → Host.Outcome State Fault Refusal
  | .issue r => runIssue s r
  | .ev i => if i.parts.isSome then .next s else exec i s

/-- The state after a move, if it changes anything: a step that has no occasion leaves the machine as it stands. The two states are compared
by identity first, which an evaluation sees at once. -/
def taken (s : State) (m : Move) : Option State :=
  match runMove s m with
  | .next t => @ite _ (t = s) (withPtrEqDecEq t s fun _ => inferInstance) none (some t)
  | _ => none

/-! ## Time -/

/-- The distinct (die, core, owner) of resident blocks. -/
def residents (s : State) : List (Nat × Nat × Nat) := (s.blocks.map fun b => (b.die, b.core, b.oid)).eraseDups

/-- Each core adds its clk to USED of the owners that have a resident block on it (R251). -/
def countUsed (s : State) : State :=
  let add (m : Sparse Nat) (x : Nat × Nat × Nat) : Sparse Nat :=
    let k := quotaKey x.1 x.2.2
    spSet 0 k (spGet 0 m k + (s.pace[x.1]?).getD 0) m
  { s with used := (residents s).foldl add s.used }

/-- What a phase's wait is after a step (R247, R295). -/
def waitPhase (s : State) (p : Phase) : Phase :=
  if p.st ≠ .ready then p
  else match s.launch? p.launch with
    | none => p
    | some l =>
      let may := [0, 1, 2, 3].any fun d => mayDispatch s l p d
      let seat := may && [0, 1, 2, 3].any fun d => dispatchable s l p d
      { p with ageClk := if seat then p.ageClk + (s.pace[l.die]?).getD 0 else p.ageClk,
               waitedSince := if may && !seat then some (p.waitedSince.getD (s.clkOf l.die)) else none }

/-- A block that has come back to a core for its commands alone ends when they are done (R225). -/
def settleBlocks (s : State) : State :=
  (s.blocks.filter fun b => b.waves.isEmpty && b.halt != .halted && b.queueEmpty && !pathStuck s b.die b.core &&
    s.copies.all fun c => c.blk != b.uid).foldl
    (fun s b => endBlock s b.uid false) s

/-- What has waited for something else goes on. -/
def settleAll (s : State) : State := settleRuns (settleBlocks (settleClaims (settleBarriers (settlePrecmd (settleTlbi (settleMaps (settleReplies (settleRecords (grantLines s)))))))))

/-- Time passes: every die counts, and what counts with it follows. -/
def tick (s : State) : State :=
  let s1 := clkTenants (countUsed (settleOverrun (settleAll s)))
  let s2 : State := { s1 with clk := s1.clk.zipWith (fun (c : W64) (p : Nat) => c + BitVec.ofNat 64 p) s1.pace }
  if s2.phases.isEmpty then { s2 with eligible := [] }
  else [0, 1, 2, 3].foldl noteEligible { s2 with phases := s2.phases.map (waitPhase s2) }

/-! ## The moves that may take place -/

/-- Every wave, and every entry by its lowest lane. -/
def allWaves (s : State) : List (Block × Wave) := s.blocks.flatMap fun b => b.waves.map fun w => (b, w)
def wref (x : Block × Wave) : WRef := { blk := x.1.uid, wave := x.2.wave }
def allEntries (s : State) : List (Block × Wave × Entry × ERef) :=
  (allWaves s).flatMap fun x => x.2.frontier.filterMap fun e =>
    (lanesOf e.mask).head?.map fun l => (x.1, x.2, e, { blk := x.1.uid, wave := x.2.wave, lane := l })

/-- A takeover ends (R314), and a function-level reset goes on with its next step (R386). -/
def resetMoves (s : State) : List Move :=
  (match s.takingOver with
    | some d => [.ev (.takeoverAttempt d)]
    | none => []) ++
  (List.range 16).filterMap fun g => if s.rstep g = 0 then none else some (.ev (.functionLevelReset (g + 1)))

/-- Pre-emption, completions and engines. -/
def coreMoves (s : State) : List Move :=
  (s.blocks.filter fun b => b.halt == .asked).map (fun b => .ev (.preemptHalt b.uid)) ++
  (allWaves s).flatMap (fun x => (x.2.ops.map fun o => .ev (.longLatencyComplete (wref x) o.id)) ++
    (if x.2.flights.isEmpty then [] else [.ev (.e6Push (wref x))])) ++
  (s.blocks.filter fun b => b.tenant.isSome).flatMap (fun b =>
    [.ev (.mwldExecute b.uid), .ev (.mswapExecute b.uid), .ev (.minitExecute b.uid), .ev (.mrdaExecute b.uid),
     .ev (.mrunExecute b.uid)]) ++
  s.copies.flatMap (fun c => [.ev (.copyExecute c.id), .ev (.copyStatusPush c.id)])

/-- Grants, replies, waits, stores in the background. -/
def waitMoves (s : State) : List Move :=
  s.blocks.map (fun b => .ev (.slotChangeEffect b.uid)) ++
  s.requests.map (fun r => .ev (.pendingGrant r.die r.core)) ++
  (s.svcs.filter fun q => q.landed).map (fun q => .ev (.svcReplyDeliver { blk := q.blk, wave := q.wave })) ++
  (allEntries s).flatMap (fun x => x.2.2.1.watch.filterMap (fun t => (lanesOf t.mask).head?.map fun l => (x.2.2.2, l)) |>.flatMap fun p =>
    [.ev (.waitaReevaluate { p.1 with lane := p.2 }), .ev (.waitaTimeout { p.1 with lane := p.2 })]) ++
  (allEntries s).flatMap (fun x => match x.2.2.1.hold with
    | .racq _ => [.ev (.racqProceed x.2.2.2)]
    | _ => []) ++
  s.rels.map (fun r => .ev (.promote r.blk)) ++
  s.path.map (fun p => .ev (.backgroundComplete p.die p.core 0 false)) ++
  (if s.flips.isEmpty then [] else [.ev .biasFlipComplete]) ++
  s.msix.map (fun x => .ev (.msixSend (x / 4) (x % 4)))

/-- Ends of waves, barriers, phases and blocks. -/
def endMoves (s : State) : List Move :=
  ((allWaves s).filter fun x => x.2.live == 0).map (fun x => .ev (.waveEnd (wref x))) ++
  s.gangs.map (fun g => .ev (.gbarComplete g.uid)) ++
  s.blocks.flatMap fun b =>
    [.ev (.phaseEnd b.uid), .ev (.regroupPermute b.uid), .ev (.blockPark b.uid), .ev (.preemptSave b.uid)]

/-- The distributor and the trail engine. -/
def poolMoves (s : State) : List Move :=
  let queues := (s.dcb.filter fun x => 0x4000 ≤ x.1 && x.1 < 0x5000).map (fun x => (x.1 - 0x4000) / 4)
  s.pubs.map (fun p => .ev (.blazePublish p.id)) ++
  queues.eraseDups.map (fun q => .ev (.queueArrival q)) ++
  s.arrived.map (fun q => .ev (.queueEntryAccept q)) ++
  s.launches.flatMap (fun l => [.ev (.blockCreate l.uid), .ev (.launchComplete l.uid)]) ++
  s.phases.map (fun p => .ev (.phaseReady p.uid)) ++
  s.runs.flatMap (fun r => r.launched.map fun j => .ev (.nodeComplete r.uid j)) ++
  (s.runReqs.map fun q => .ev (.graphRunStart q.die)) ++
  [0, 1, 2, 3].flatMap (fun d => [.ev (.ageingPeriod d), .ev (.quotaPeriodStart d)]) ++
  s.used.map (fun x => .ev (.quotaOverrun (x.1 / 4096) (x.1 % 4096))) ++
  (if s.phases.isEmpty then [] else [0, 1, 2, 3].map fun d => .ev (.priorityPreempt d))

/-- A core for the phase that each die's distributor chooses; those that choose from their own pool go first. -/
def dispatchMoves (s : State) : List Move :=
  if s.phases.isEmpty then []
  else
    let l := [0, 1, 2, 3].filterMap fun d => (chosen s d).map fun c => (d, c)
    ((l.filter fun x => x.2.l.die == x.1) ++ l.filter fun x => x.2.l.die != x.1).filterMap fun x =>
      ((List.range 192).find? fun k => (seating s x.2.l x.2.p x.1 k).isSome).map fun k => .ev (.phaseDispatch x.1 k)

def roundMoves (s : State) : List Move := (allWaves s).map fun x => .ev (.roundOpen (wref x))

/-- Inserts an entry by its keys. -/
def insertIssue (x : List Nat × ERef) : List (List Nat × ERef) → List (List Nat × ERef)
  | [] => [x]
  | y :: t => if keysLe x.1 y.1 then x :: y :: t else y :: insertIssue x t

/-- The entries that may issue: by their waves' turns, which count where the clk moves on (R148); where it stands still, first those
after which nothing that counts as earlier is left (R14, R190, R224, R273); then half 0 first, the lower wave slot, and the primary before
the secondary. Those that what blocks them still holds come last. -/
def issueMoves (s : State) : List Move :=
  let now := ((allEntries s).filter fun x => x.2.2.1.ready && decide (x.2.2.1.notBefore ≤ s.clkOf x.1.die)).map fun x =>
    (x, goesNow s x.2.2.2 x.2.2.1)
  let at0 (x : Block × Wave × Entry × ERef) : Block × Wave × Bool × IssueKind := (x.1, x.2.1, x.2.2.1.second, x.2.2.1.kind)
  let key (q : (Block × Wave × Entry × ERef) × Bool) : List Nat :=
    let x := q.1
    [(!q.2).toNat] ++ (if (s.pace[x.1.die]?).getD 0 ≠ 0 then turnKey (s.clkOf x.1.die) x.2.1
        else [(now.any fun y => y.2 && countsLater (at0 x) (at0 y.1)).toNat, 0]) ++
      [x.1.die, x.1.core] ++ issueKey x.1 x.2.1 x.2.2.1.second
  ((now.map fun q => (key q, q.1.2.2.2)).foldr insertIssue []).map fun x => .issue x.2

/-- The next state of the first group's first move that takes place. -/
def firstMove (s : State) : Option State :=
  [resetMoves, coreMoves, waitMoves, endMoves, poolMoves, dispatchMoves, roundMoves, issueMoves].findSome? fun g => (g s).findSome? (taken s)

/-! ## A step -/

/-- What still takes place once DEVST.FATAL is 1 (R393): the host reads and writes registers, DUMPSEL among them, messages leave, and
the device is reset. -/
def afterFatal : Move → Bool
  | .ev (.hostRegisterRead _ _) | .ev (.registerWrite (.host _ _) _) | .ev (.msixSend _ _) | .ev .deviceReset | .ev (.functionLevelReset 0) => true
  | _ => false

/-- A move of the agenda: one that cannot take place is passed over. -/
def agendaStep (s : State) (m : Move) : Host.Outcome State Fault Refusal :=
  if s.fatal && !afterFatal m then .fault .deviceStopped
  else match runMove s m with
    | .next t => .next (tick t)
    | .fault e => .fault e
    | .refused _ => .next (tick s)

/-- A step without an agenda: the first move that takes place, or time alone. -/
def freeStep (s : State) : Host.Outcome State Fault Refusal :=
  if s.fatal then
    match (s.msix.map fun x => Move.ev (.msixSend (x / 4) (x % 4))).findSome? (taken s) with
    | some t => .next (tick t)
    | none => .fault .deviceStopped
  else match firstMove s with
    | some t => .next (tick t)
    | none => .next (tick s)

/-- One step of the device. -/
def oneStep (s : State) : Host.Outcome State Fault Refusal :=
  match s.agenda with
  | m :: t => agendaStep { s with agenda := t } m
  | [] => freeStep s

/-! ## Placing an instruction -/

/-- A clause header for one instruction word: its class, CNT 0 (Table 2.1). -/
def headerFor (w : W128) : W128 :=
  BitVec.ofNat 128 (0xA + 16 * (classOf (w.toNat % 1024)).getD 0)

/-- A launch of one block of one wave, which claims 80 bundles. -/
def oneLaunch (uid : Nat) : Launch :=
  { uid := uid, die := 0, record := 0, recVa := 0, oid := 0, glade := 0, pcls := 0, gen := 0, cwAddr := 0, cwVal := 0, param := [],
    next := 1, doneN := 0, gangs := 0, units := [], producers := [], preds := [], node := none, tinit := 0, qid := none, dead := false }

/-- A wave whose 32 lanes stand open at the word. -/
def oneWave (s : State) (w : W128) : Wave :=
  { Wave.blank 0 0 80 0 with
    frontier := [{ hdr := 0, idx := 0, prio := 0, mask := 0xFFFFFFFF, park := 0, opn := true, second := false,
                   clause := [headerFor w, w], notBefore := s.clkOf 0, hold := .none, done := 0, watch := [] }] }

/-- The block of that wave, on core 0 of die 0. -/
def oneBlock (s : State) (uid launch : Nat) (w : W128) : Block :=
  { uid := uid, launch := launch, n := 0, oid := 0, glade := 0, gen := 0, pcls := 0, die := 0, core := 0, h0 := 0,
    waves := [oneWave s w], ways := 0, stash := [], windows := [], spare0 := [], spare1 := [], mslots := 0, mend := none,
    tenant := none, barrier := none, halt := .running, since := 0 }

/-- The state with a running block whose one open entry stands at the word, and whose issue is the next move. -/
def placeWord (s : State) (w : W128) : State :=
  let l := s.uids
  let u := s.uids + 1
  let p : Phase := { newPhase u (oneLaunch l) 0 none with st := .running, fresh := false, wlive := 1 }
  { s with uids := s.uids + 2, launches := s.launches ++ [oneLaunch l], phases := s.phases ++ [p],
           blocks := s.blocks ++ [oneBlock s u l w], agenda := [.issue { blk := u, wave := 0, lane := 0 }] }

end Sys2Proof.Machine
end

