-- ==== Sys2Proof/Machine/Step.lean ====
section
/-!
DEFINITION. The step of the machine, and the placing of an instruction where the next step issues it.
-/
namespace Sys2Proof.Machine

/-- One step: a move of the agenda, or else the first move that may take place; then time passes. -/
def step (s : State) : Host.Outcome State Fault Refusal := oneStep s

/-- The state with the instruction whose bits are `w` where the next step issues it. The opcode table's rows hold no bits; the
instruction is its 128-bit word. -/
def State.withFetchWord (s : State) (_nbits w : Nat) : State := placeWord s (BitVec.ofNat 128 w)

end Sys2Proof.Machine
end

