-- ==== Sys2Proof/Safety.lean ====
section
/-!
DEFINITION. What a safe run is, and the terms in which claims speak of one step: an instruction that stands to issue, how it goes on,
and the invariants.
-/
namespace Sys2Proof.Machine

/-! ## Runs -/

/-- A state whose step has a next state. -/
def Goes (s : State) : Prop := ∃ t, step s = .next t

/-- The states that steps reach from a state. -/
inductive Reaches : State → State → Prop where
  | refl (s : State) : Reaches s s
  | next {s t u : State} : step s = .next t → Reaches t u → Reaches s u

/-- A run is safe when every state that it reaches has a next state: the machine neither stops nor refuses. -/
def Safe (s : State) : Prop := ∀ t, Reaches s t → Goes t

/-! ## One instruction -/

/-- An instruction with opcode `opc` and fields `f` stands to issue in context `c`: its entry may issue, no register that it names
is still to be written (R44), its word passes the encoding checks, and it stands where its clause allows it (R28, R29, R42). -/
def Stands (opc : Nat) (f : Fields) (s : State) (c : Ctx) : Prop :=
  ctxOf s = some c ∧ scoreboard c opc f = false ∧ check opc f = .ok () ∧ placedWell c opc = true

/-- The state that an instruction's meaning starts from: the counter of the free values has moved on. -/
def State.begun (s : State) : State := { s with free := s.free + 1 }

/-- The outcome in which the entry goes on to its next position after the effect `t`. -/
def goesOn (c : Ctx) (f : Fields) (t : State) : Host.Outcome State Fault Refusal := .next (advance c f t)

/-- The outcome in which the effect `t` has placed the entry's lanes itself. -/
def goesTo (c : Ctx) (t : State) : Host.Outcome State Fault Refusal := .next (settleAt t { blk := c.ref.blk, wave := c.ref.wave })

/-- The outcome in which the instruction stops: a fault taken, a page fault posted, or a wait. -/
def stopsWith (c : Ctx) (f : Fields) (s : State) (e : Stop) : Host.Outcome State Fault Refusal :=
  .next (stopped s.begun c (e.among c f))

/-! ## Instructions that compute a value from value sources (R74) -/

/-- What an instruction computes: its value sources, whether its result is a pair, its latency, whether it is long-latency, and the
result and flags in one lane from MODE and the sources' values. -/
structure ValueOp where
  srcs : List Nat
  pair : Bool
  lat  : Nat
  long : Bool
  fn   : W32 → List Nat → Res

/-- The operand positions of a list, as `OpSpec.use` counts them. -/
def positions (ks : List Nat) : Nat := ks.foldl (fun a k => a + 2 ^ k) 0

/-- The result of every lane: the same in all for a scalar form, and nothing in lanes that do not participate. -/
def laneResults (v : ValueOp) (c : Ctx) (scalar : Bool) (act : W32) (ls : List (List Nat)) : List Res :=
  let at0 (l : Nat) : List Nat := ls.map fun x => (x[l]?).getD 0
  if scalar then List.replicate 32 (v.fn c.w.mode (at0 0))
  else lanes32.map fun l => if act.getLsbD l then v.fn c.w.mode (at0 l) else (0, 0)

/-- The effect of a value instruction whose sources read as `ls`, the wave after the reading being `w`. -/
def valueEffect (v : ValueOp) (opc : Nat) (f : Fields) (s : State) (c : Ctx) (ls : List (List Nat)) (w : Wave) : State :=
  let rs := laneResults v c (isScalar opc f) (c.parts f) ls
  result s c w f f.op0 (isScalar opc f) (v.long || popsQueue f (positions v.srcs)) (c.parts f) v.lat
    (wordsOf v.pair (rs.map fun r => r.1)) (allFlags rs)

/-- The operands of a value instruction are legal, and its sources read as `ls`. -/
def ValueReady (v : ValueOp) (opc : Nat) (f : Fields) (s : State) (c : Ctx) (ls : List (List Nat)) (w : Wave) : Prop :=
  Stands opc f s c ∧ destOk c f.op0 (isScalar opc f) true v.pair = true ∧
  (isScalar opc f = true ∨ oneScalar f (positions v.srcs) = true) ∧
  readSrcs s.begun c opc f (isScalar opc f) (c.parts f) v.srcs c.w = .ok (ls, w)

/-- Integer arithmetic (group 0, Table 4.3). -/
def integerValue : Instr → Option (Nat × Fields × ValueOp)
  | .iadd f => some (0x000, f, ⟨[1, 2], is64 f.ty, intLat f.ty, false, intOp2 f.ty fun a b => a + b⟩)
  | .isub f => some (0x001, f, ⟨[1, 2], is64 f.ty, intLat f.ty, false, intOp2 f.ty fun a b => a - b⟩)
  | .iadds f => some (0x004, f, ⟨[1, 2], is64 f.ty, intLat f.ty, false, satOp2 f.ty fun a b => a + b⟩)
  | .isubs f => some (0x005, f, ⟨[1, 2], is64 f.ty, intLat f.ty, false, satOp2 f.ty fun a b => a - b⟩)
  | .imul f => some (0x006, f, ⟨[1, 2], is64 f.ty, intLat f.ty, false, intOp2 f.ty fun a b => a * b⟩)
  | .imulh f => some (0x007, f, ⟨[1, 2], is64 f.ty, intLat f.ty, false,
      intOp2 f.ty fun a b => a * b / ((2 ^ elemWidth f.ty : Nat) : Int)⟩)
  | .imad f => some (0x008, f, ⟨[1, 2, 3], is64 f.ty, intLat f.ty, false, intOp3 f.ty fun a b x => a * b + x⟩)
  | .imadw f => some (0x009, f, ⟨[1, 2, 3], true, 8, false, imadwOp f.ty⟩)
  | .idiv f => some (0x00A, f, ⟨[1, 2], is64 f.ty, 4, true, idivOp f.ty⟩)
  | .irem f => some (0x00B, f, ⟨[1, 2], is64 f.ty, 4, true, iremOp f.ty⟩)
  | .ineg f => some (0x00C, f, ⟨[1], is64 f.ty, intLat f.ty, false, intOp1 f.ty fun a => -a⟩)
  | .iabs f => some (0x00D, f, ⟨[1], is64 f.ty, intLat f.ty, false, intOp1 f.ty fun a => a.natAbs⟩)
  | .imin f => some (0x00E, f, ⟨[1, 2], is64 f.ty, intLat f.ty, false, intOp2 f.ty minInt⟩)
  | .imax f => some (0x00F, f, ⟨[1, 2], is64 f.ty, intLat f.ty, false, intOp2 f.ty maxInt⟩)
  | .iclamp f => some (0x010, f, ⟨[1, 2, 3], is64 f.ty, intLat f.ty, false, intOp3 f.ty fun a b x => minInt (maxInt a b) x⟩)
  | .idiff f => some (0x011, f, ⟨[1, 2], false, 4, false, idiffOp f.ty⟩)
  | .idp4 f => some (0x012, f, ⟨[1, 2, 3], false, 4, false, dotOp f.ty (f.op4 == .int 1)⟩)
  | .idp2 f => some (0x013, f, ⟨[1, 2, 3], false, 4, false, dotOp f.ty (f.op4 == .int 1)⟩)
  | .lea f => match f.op3 with
    | .int k => if k.val < 32 then some (0x014, f, ⟨[1, 2], is64 f.ty, intLat f.ty, false, leaOp f.ty (f.op4 == .int 1) k⟩) else none
    | _ => none
  | .mov f => match f.op0 with
    | .e _ => none
    | _ => some (0x015, f, ⟨[1], is64 f.ty, intLat f.ty, false, movOp f.ty⟩)
  | .movw f => some (0x016, f, ⟨[1, 2], true, 8, false, movwOp⟩)
  | _ => none

/-- Bits and logic (group 1, Table 4.5). -/
def bitValue : Instr → Option (Nat × Fields × ValueOp)
  | .and f => some (0x040, f, ⟨[1, 2], is64 f.ty, intLat f.ty, false, bitOp2 f.ty fun a b => a &&& b⟩)
  | .or f => some (0x041, f, ⟨[1, 2], is64 f.ty, intLat f.ty, false, bitOp2 f.ty fun a b => a ||| b⟩)
  | .xor f => some (0x042, f, ⟨[1, 2], is64 f.ty, intLat f.ty, false, bitOp2 f.ty fun a b => a ^^^ b⟩)
  | .andn f => some (0x043, f, ⟨[1, 2], is64 f.ty, intLat f.ty, false, bitOp2 f.ty fun a b => a &&& notBits (elemWidth f.ty) b⟩)
  | .not f => some (0x044, f, ⟨[1], is64 f.ty, intLat f.ty, false, bitOp1 (fun w a => notBits w a) f.ty⟩)
  | .shl f => some (0x045, f, ⟨[1, 2], is64 f.ty, intLat f.ty, false, shiftOp shlBits f.ty⟩)
  | .shr f => some (0x046, f, ⟨[1, 2], is64 f.ty, intLat f.ty, false, shiftOp shrBits f.ty⟩)
  | .sar f => some (0x047, f, ⟨[1, 2], is64 f.ty, intLat f.ty, false, shiftOp sarBits f.ty⟩)
  | .rotl f => some (0x048, f, ⟨[1, 2], is64 f.ty, intLat f.ty, false, shiftOp rotlBits f.ty⟩)
  | .rotr f => some (0x049, f, ⟨[1, 2], is64 f.ty, intLat f.ty, false, shiftOp rotrBits f.ty⟩)
  | .funnel f => some (0x04A, f, ⟨[1, 2, 3], false, 4, false, funnelOp⟩)
  | .bfx f => some (0x04B, f, ⟨[1, 2, 3], is64 f.ty, intLat f.ty, false, bfxOp f.ty⟩)
  | .bfi f => some (0x04C, f, ⟨[1, 2, 3, 4], is64 f.ty, intLat f.ty, false, bfiOp f.ty⟩)
  | .brev f => some (0x04D, f, ⟨[1], is64 f.ty, intLat f.ty, false, bitOp1 reverseBits f.ty⟩)
  | .popc f => some (0x04E, f, ⟨[1], false, intLat f.ty, false, bitOp1 popCount f.ty⟩)
  | .clz f => some (0x04F, f, ⟨[1], false, intLat f.ty, false, bitOp1 leadingZeros f.ty⟩)
  | .ctz f => some (0x050, f, ⟨[1], false, intLat f.ty, false, bitOp1 trailingZeros f.ty⟩)
  | _ => none

/-- A float operation of one element, as a value operation. -/
def floatValueOp (f : Fields) (ks : List Nat) (long : Bool) (g : FEnv → List Nat → Res) : ValueOp :=
  ⟨ks, is64 f.ty, floatLat f.ty, long, floatOp f g⟩

/-- A special function (Table 4.7), as a value operation. -/
def specialValueOp (f : Fields) (fn : SpecialFn) : ValueOp :=
  floatValueOp f [1] true fun e x => (specialF fn e.fmt (64 * e.fmt.eb + e.fmt.fb) e.flush (arg x 0)).res

/-- Float arithmetic and the special functions (groups 2 and 3, Tables 4.6 and 4.7). -/
def floatValue : Instr → Option (Nat × Fields × ValueOp)
  | .fadd f => some (0x080, f, floatValueOp f [1, 2] false fun e x => e.deliver (addE e.rnd (e.read (arg x 0)) (e.read (arg x 1))))
  | .fsub f => some (0x081, f, floatValueOp f [1, 2] false
      fun e x => e.deliver (addE e.rnd (e.read (arg x 0)) (negV (e.read (arg x 1)))))
  | .fmul f => some (0x082, f, floatValueOp f [1, 2] false fun e x => e.deliver (mulE (e.read (arg x 0)) (e.read (arg x 1))))
  | .ffma f => some (0x083, f, floatValueOp f [1, 2, 3] false
      fun e x => e.deliver (fmaE e.rnd (e.read (arg x 0)) (e.read (arg x 1)) (e.read (arg x 2))))
  | .fmin f => some (0x084, f, floatValueOp f [1, 2] false
      fun e x => quiet (e.pick false false (e.read (arg x 0)) (e.read (arg x 1))))
  | .fmax f => some (0x085, f, floatValueOp f [1, 2] false
      fun e x => quiet (e.pick true false (e.read (arg x 0)) (e.read (arg x 1))))
  | .fminn f => some (0x086, f, floatValueOp f [1, 2] false
      fun e x => quiet (e.pick false true (e.read (arg x 0)) (e.read (arg x 1))))
  | .fmaxn f => some (0x087, f, floatValueOp f [1, 2] false
      fun e x => quiet (e.pick true true (e.read (arg x 0)) (e.read (arg x 1))))
  | .fabs f => some (0x088, f, floatValueOp f [1] false fun e x => quiet (encodeV e.fmt (absV (e.read (arg x 0)))))
  | .fclamp f => some (0x089, f, floatValueOp f [1, 2, 3] false
      fun e x => quiet (e.pick false true (decodeF e.fmt (e.pick true true (e.read (arg x 0)) (e.read (arg x 1))))
        (e.read (arg x 2))))
  | .frnd f => some (0x08A, f, floatValueOp f [1] false fun e x => quiet (frndF e.fmt e.rnd (e.read (arg x 0))))
  | .ffrac f => some (0x08B, f, floatValueOp f [1] false fun e x => (deliver e.fmt 1 e.flush (ffracE (e.read (arg x 0)))).res)
  | .fscl f => some (0x08C, f, ⟨[1, 2], is64 f.ty, floatLat f.ty, false, fsclOp f⟩)
  | .fexpn f => some (0x08D, f, ⟨[1], false, floatLat f.ty, false, fexpnOp f⟩)
  | .fmant f => some (0x08E, f, floatValueOp f [1] false fun e x => quiet (fmantF e.fmt (e.read (arg x 0))))
  | .fdiv f => some (0x08F, f, floatValueOp f [1, 2] true fun e x => e.deliver (divE (e.read (arg x 0)) (e.read (arg x 1))))
  | .fsqrt f => some (0x090, f, floatValueOp f [1] true fun e x => e.deliver (sqrtE (e.read (arg x 0))))
  | .frcp f => some (0x0C0, f, specialValueOp f .frcp)
  | .frsq f => some (0x0C1, f, specialValueOp f .frsq)
  | .fexp2 f => some (0x0C2, f, specialValueOp f .fexp2)
  | .flog2 f => some (0x0C3, f, specialValueOp f .flog2)
  | .fsin f => some (0x0C4, f, specialValueOp f .fsin)
  | .fcos f => some (0x0C5, f, specialValueOp f .fcos)
  | .ftanh f => some (0x0C6, f, specialValueOp f .ftanh)
  | _ => none

/-- Conversions that read value sources (group 4, R66 to R68). -/
def conversionValue : Instr → Option (Nat × Fields × ValueOp)
  | .cvt f => some (0x100, f, ⟨[1], is64 f.ty, if is64 f.ty || is64 (cvtSource f) then 8 else 4, false, cvtOp f⟩)
  | .pack f => some (0x101, f, ⟨if elemCount f.ty = 4 then [1, 2, 3, 4] else [1, 2], false, 4, false, packOp f⟩)
  | .unpk f => match f.op2 with
    | .int k => if k.val < elemCount f.ty then some (0x102, f, ⟨[1], false, 4, false, unpkOp f k⟩) else none
    | _ => none
  | _ => none

/-- Every instruction of a table completes, where its operands are legal and read, with the table's operation as its effect. -/
def ValuesComplete (table : Instr → Option (Nat × Fields × ValueOp)) : Prop :=
  ∀ (i : Instr) (opc : Nat) (f : Fields) (v : ValueOp) (s : State) (c : Ctx) (ls : List (List Nat)) (w : Wave),
    table i = some (opc, f, v) → ValueReady v opc f s c ls w → exec i s = goesOn c f (valueEffect v opc f s.begun c ls w)

/-! ## What single instructions compute, store and make -/

/-- The sum and carry, or difference and borrow, of every participating lane (R78). -/
def carryLanes (sub : Bool) (f : Fields) (c : Ctx) (pin : Nat) (ls : List (List Nat)) : List (Nat × Bool) :=
  lanes32.map fun l =>
    if (c.parts f).getLsbD l then
      carryOp sub (elemWidth f.ty) (arg ((ls[0]?).getD []) l) (arg ((ls[1]?).getD []) l) ((c.readP pin).getLsbD l).toNat
    else (0, false)

/-- The carry-out predicate of those lanes. -/
def carryMask (rs : List (Nat × Bool)) : W32 := maskOf fun l => ((rs[l]?).getD (0, false)).2

/-- The issuing entry split in two: the lanes outside `mask` at the next position, and `other` (R116, R171). -/
def splitEntry (c : Ctx) (f : Fields) (mask : W32) (other : Entry) (w : Wave) : Wave :=
  replaceEntry w c.ref.lane [stayEntry c f (c.e.mask &&& ~~~mask), other]

/-- The bytes that an access of `n` bytes finds in a lane: in its own spot, or in the one spot of a scalar form. -/
def spotsRead (s : State) (c : Ctx) (scalar : Bool) (n : Nat) (sp : List (Nat × Spot)) (l : Nat) : List Byte :=
  match sp.find? fun p => p.1 == (if scalar then 0 else l) with
  | some p => spotBytes s c.b n p.2
  | none => []

/-- The state after the caches have taken the lines of reads at addresses `al`, under the instruction's hint. -/
def readsNoted (s : State) (c : Ctx) (f : Fields) (al : List Nat) (sp : List (Nat × Spot)) : State :=
  sp.foldl (fun s p => noteRead s c.b f.hint.toNat ((al[p.1]?).getD 0) p.2) s

/-- The addresses `al` of an access of `n` bytes in lanes `ls`, and its spots, every check passed (R159, R160). -/
def Reaching (s : State) (c : Ctx) (f : Fields) (stash scalar : Bool) (e n : Nat) (ls : List Nat) (need : Need) (al : List Nat)
    (w : Wave) (sp : List (Nat × Spot)) : Prop :=
  addresses s c c.w f stash scalar e (c.parts f) = .ok (al, w) ∧
  spotsOf s c stash ls (fun l => (al[l]?).getD 0) n need scalar = .ok sp

/-- What a WAITA watches: its spots' elements with the values it compares them with, and when its time runs out. -/
def watchOf (c : Ctx) (f : Fields) (al : List Nat) (vs : List (List Nat)) (sp : List (Nat × Spot)) (time : Nat) : Watch :=
  let at0 (l : Nat) (q : Spot) : Nat := if f.inStash then (al[l]?).getD 0 else (q.piece c.b (elemWidth f.ty / 8)).lo
  { mask := if isScalar 0x246 f then c.e.mask else c.parts f, stash := f.inStash, size := elemWidth f.ty / 8, eq := f.condEq, acq := f.ord == 1,
    lanes := sp.map fun p => (p.1, at0 p.1 p.2, argAt vs 0 p.1),
    issued := c.clk, deadline := if time = 0xFFFFFFFF then none else some (c.clk + time), dst := f.op0 }

/-- A new window, whose STMAP completes with the work numbered `op`. -/
def newWindow (c : Ctx) (op win off len va : Nat) (leaves : List (Nat × W64 × Nat)) : Window :=
  { win := win, off := off, len := len, va := va, leaves := leaves, filled := [], owner := c.ref.wave, shown := false, op := op }

/-- The block holds a matrix tenant, and its queue has room for one more command (R190, R194). -/
def TenantReady (s : State) (c : Ctx) : Prop := ∃ t, needTenant s c = .ok t

/-- A block after MTEN.reset (R205): its tenant is new but for its counters and whether it is quiesced, and its queue is dropped. -/
def clearTenant (b : Block) : Block :=
  match b.tenant with
  | none => b
  | some t =>
    let kept : Tenant := { Tenant.new t.high t.slots with ctr := t.ctr, quiesced := t.quiesced }
    { dropOps b t.queue with tenant := some kept }

/-- A vector with zeros in the lanes that do not participate. -/
def zeroOutside (act : W32) (v : List W32) : List W32 := lanes32.map fun i => if act.getLsbD i then (v[i]?).getD 0 else 0

/-- The submission that a LAUNCH makes for its block (R259). -/
def launchOf (s : State) (c : Ctx) (a cw : Nat) (v : W32) : Submission :=
  let (mine, preds) := match s.launch? c.b.launch with
    | some l => (l.uid :: l.producers, l.nodes)
    | none => ([], [])
  { die := c.b.die, oid := c.b.oid, glade := c.b.glade, cap := c.b.pcls, gen := 0, addr := a, cwAddr := cw, cwVal := v,
    node := none, tinit := 0, qid := none, producers := mine, preds := preds }

/-- The submission of a queue entry whose 32 bytes read as `x` (R243, R244): its phases also wait for the queue's earlier launches. -/
def entrySubmission (s : State) (q x : Nat) : Submission :=
  { die := qDie s q, oid := qOid s q, glade := qGlade s q, cap := qPcmax s q, gen := 0, addr := bitsOf x 0 64, cwAddr := bitsOf x 64 64,
    cwVal := BitVec.ofNat 32 (bitsOf x 128 32), node := none, tinit := 0, qid := some q,
    producers := (s.launches.filter fun l => l.qid == some q && !l.dead).map fun l => l.uid, preds := [] }

/-- The graph run that a queue entry asks for (R243). -/
def entryRun (s : State) (q x : Nat) : RunReq :=
  { die := qDie s q, oid := qOid s q, glade := qGlade s q, pcls := qPcmax s q, table := bitsOf x 0 64, cwAddr := bitsOf x 64 64,
    cwVal := BitVec.ofNat 32 (bitsOf x 128 32) }

/-- The graph run that a GRUN asks for (R259). -/
def runOf (c : Ctx) (a cw : Nat) (v : W32) : RunReq :=
  { die := c.b.die, oid := c.b.oid, glade := c.b.glade, pcls := c.b.pcls, table := a, cwAddr := cw, cwVal := v }

/-- The publication that a BLAZE makes (R260). -/
def publicationOf (c : Ctx) (id key n : Nat) : Publication :=
  { id := id, oid := c.b.oid, key := BitVec.ofNat 48 key, gen := c.b.gen, count := min n 4095, blk := c.ref.blk,
    launch := c.b.launch, wave := c.ref.wave, mask := c.e.mask, hdr := c.e.hdr, idx := c.e.idx, op := some id }

/-- The word that BLZQ reads for a key (R261). -/
def blazeWord (s : State) (oid key : Nat) : W32 :=
  let ovr := if s.overflowed.contains (overflowBit key) then 2 ^ 30 else 0
  let x := match s.blaze? oid key with
    | some b => 2 ^ 31 + b.count.toNat * 2 ^ 16 + b.gen.toNat
    | none => 0
  BitVec.ofNat 32 (x + ovr)

/-- The accumulators with `n` rows from `a` set to a bias vector (R201). -/
def biasRows (acc : Sparse W32) (bias : List W32) (a n : Nat) : Sparse W32 :=
  (List.range n).foldl (fun m i =>
    (lanes32.zip bias).foldl (fun (m : Sparse W32) (p : Nat × W32) => spSet 0 (32 * (a + i) + p.1) p.2 m) m) acc

/-! ## Frames -/

/-- `t` is `s` with wave `r` changed by `g`; the identifiers and the counter of free values may have moved on. -/
def OnlyWave (r : WRef) (g : Wave → Wave) (s t : State) : Prop :=
  { t with blocks := s.blocks, uids := s.uids, free := s.free } = s ∧ t.blocks = (s.mapWave r.blk r.wave g).blocks

/-- Two waves are the same wave of their block (number, half, role) and hold the same registers outside `dest`, and the same masks, levels,
written queues, elements under way and exception state; of MODE at most the sticky bits 12:8 differ. -/
def SameOutside (dest : List Reg) (w w' : Wave) : Prop :=
  (∀ n l, Reg.v n ∉ dest → l < 32 → w'.getV n l = w.getV n l) ∧ (∀ n, Reg.s n ∉ dest → w'.getS n = w.getS n) ∧
  (∀ n, Reg.p n ∉ dest → w'.getP n = w.getP n) ∧ w'.m = w.m ∧ w'.lvl = w.lvl ∧ w'.e1 = w.e1 ∧ w'.e3 = w.e3 ∧ w'.e5 = w.e5 ∧
  w'.seqS = w.seqS ∧ w'.reserv = w.reserv ∧ w'.trap = w.trap ∧ w'.svc = w.svc ∧ w'.claim = w.claim ∧
  w'.wave = w.wave ∧ w'.half = w.half ∧ w'.role = w.role ∧ w'.flights = w.flights ∧
  ∀ k, k < 8 ∨ 13 ≤ k → w'.mode.getLsbD k = w.mode.getLsbD k

/-- Two waves hold the same queues that instructions read, and the same sequence number of e6. -/
def SameQueues (w w' : Wave) : Prop :=
  w'.e2 = w.e2 ∧ w'.e4 = w.e4 ∧ w'.e6 = w.e6 ∧ w'.seqE = w.seqE ∧ w'.e7 = w.e7 ∧ w'.q = w.q

/-- One of the sources `ks` names queue `n`. -/
def readsQueue (f : Fields) (ks : List Nat) (n : Fin 8) : Bool := ks.any fun k => f.op k == .e n

/-- The result-queue entries that a value instruction pushes: one for each register of a v destination or of a result without one, none
in scalar form (R17). -/
def valuePushes (v : ValueOp) (opc : Nat) (f : Fields) : Nat :=
  if isScalar opc f then 0 else match f.op0 with
    | .v _ | .none => if v.pair then 2 else 1
    | _ => 0

/-- What a value instruction does to the queues: a queue that no source names stays, one that a source names loses elements from its
front, and the result queue takes the entries pushed, its oldest above 16 leaving, and is else the same. -/
def QueuesAfter (v : ValueOp) (opc : Nat) (f : Fields) (w w' : Wave) : Prop :=
  (∃ n, w'.e2 = w.e2.drop n ∧ (readsQueue f v.srcs 2 = false → n = 0)) ∧
  (∃ n, w'.e4 = w.e4.drop n ∧ (readsQueue f v.srcs 4 = false → n = 0)) ∧
  (∃ n, w'.e6 = w.e6.drop n ∧ (readsQueue f v.srcs 6 = false → n = 0 ∧ w'.seqE = w.seqE)) ∧
  (∃ n, w'.e7 = w.e7.drop n ∧ (readsQueue f v.srcs 7 = false → n = 0)) ∧
  (valuePushes v opc f = 0 → w'.q = w.q) ∧
  ∃ l : List QEnt, l.length = valuePushes v opc f ∧ (l ≠ [] → w'.q = (l ++ w.q).take 16)

/-- The registers that a destination names. -/
def destRegs (o : Operand) (pair : Bool) : List Reg :=
  match o with
  | .v n => .v n :: if pair then [.v (n + 1)] else []
  | .s n => .s n :: if pair then [.s (n + 1)] else []
  | .p n => [.p n]
  | _ => []

/-- The fields of a word whose guards are p15 and whose other fields are 0, with its type and operands. -/
def plain (ty : Ty) (op0 op1 op2 op3 op4 : Operand) : Fields :=
  { ro := 0, fsel := false, yld := false, stall := 0, hint := 0, gc := false, gbn := false, gb := 15, gan := false, ga := 15,
    sm3 := 0, sm2 := 0, sm1 := 0, op4 := op4, op3 := op3, op2 := op2, op1 := op1, op0 := op0, ty := ty }

/-! ## Invariants -/

/-- The canonical form of memory: addresses strictly rise, and no entry holds the 0 that an unlisted address reads as. -/
def Memory.wf (m : List Host.Cell) : Bool := spWf 0 m

/-- Memory stands in its canonical form. -/
def State.memOk (s : State) : Prop := Memory.wf s.mem = true

/-- The canonical forms of the state's sparse parts, memory, the control block and the frame table: keys strictly rise, and no entry
holds what an unlisted key reads as. -/
def State.Canonical (s : State) : Prop := s.memOk ∧ spKeyed dcbDefault s.dcb = true ∧ spKeyed Frame.default s.frames = true

end Sys2Proof.Machine
end

