-- ==== Sys2Proof/Certificates/Slice0/Obligations.lean ====
section
/-!
DEFINITION. The statements for the provers: what each instruction and each event does where it completes, the machine's own rules, the
encoding, and the invariants. A statement about a free value holds for every value of it.
-/
open Sys2Proof Sys2Proof.Machine

/-- R77 to R82, Table 4.3. Every integer instruction completes: the result of each lane is the table's operation on the values that its sources read,
and the destination, the result queue and the sticky bits take it as R75 says. -/
def Obligations.IntegerValuesComplete : Prop := ValuesComplete integerValue

/-- R83 to R85, Table 4.5. Every instruction of bits and logic completes with the table's operation on the values that its sources read. -/
def Obligations.BitValuesComplete : Prop := ValuesComplete bitValue

/-- R86 to R96, Tables 4.6 and 4.7. Every float instruction and special function completes with the table's operation on the values that its
sources read, rounded and flagged as MODE and RO say; a special function's open values are free within their bounds (log entry 8). That FSCL
delivers the canonical NaN for a NaN is the model's choice between R91 and R87 (log entry 52). -/
def Obligations.FloatValuesComplete : Prop := ValuesComplete floatValue

/-- R66 to R68. CVT, PACK and UNPK complete with the conversion of the values that their sources read. CVT's 8 clk where either of its types
is a 64-bit one is the model's choice (log entry 52). -/
def Obligations.ConversionValuesComplete : Prop := ValuesComplete conversionValue

/-- R78. IADDC and ISUBB complete: the sum or difference of every participating lane goes to the destination, and its carry or borrow
to the carry-out predicate; with a source that pops a queue, when the long-latency work completes. -/
def Obligations.CarryInstructionsComplete : Prop :=
  ∀ (sub : Bool) (f : Fields) (s : State) (c : Ctx) (ls : List (List Nat)) (w : Wave) (pin pout : Nat),
    Stands (if sub then 0x003 else 0x002) f s c → destOk c f.op0 false true (is64 f.ty) = true →
    oneScalar f (positions [1, 2]) = true → predNum f.op3 = some pin → predNum f.op4 = some pout →
    readSrcs s.begun c (if sub then 0x003 else 0x002) f false (c.parts f) [1, 2] c.w = .ok (ls, w) →
    let i : Instr := if sub then .isubb f else .iaddc f
    let rs := carryLanes sub f c pin ls
    let out : RegWrite := { reg := .p pout, mask := c.parts f, vals := [carryMask rs] }
    (popsQueue f (positions [1, 2]) = false →
      exec i s = goesOn c f (s.begun.withWave c
        ((deliverNow c w f.op0 false (c.parts f) (intLat f.ty) (wordsOf (is64 f.ty) (rs.map fun r => r.1)) 0).write
          c.clk (intLat f.ty) false out))) ∧
    (popsQueue f (positions [1, 2]) = true →
      exec i s = goesOn c f (s.begun.fresh.2.withWave c
        (let w1 := startLong c w f s.uids f.op0 false (c.parts f) true (wordsOf (is64 f.ty) (rs.map fun r => r.1)) 0 none
         { w1 with ops := updWhere (fun o => o.id == s.uids) (fun o => { o with writes := out :: o.writes }) w1.ops })))

/-- R82, R112, R192, R200, R221. A MOV to a writable queue completes: one element enters e0, e1 or e5, or one word e3, whose 16th word
makes a copy record that enters the engine once no store of the core waits for a command. -/
def Obligations.MovToQueueCompletes : Prop :=
  ∀ (f : Fields) (n : Fin 8) (s : State) (c : Ctx) (ls : List (List Nat)) (w : Wave),
    f.op0 = .e n → Stands 0x015 f s c →
    readSrcs s.begun c 0x015 f (isScalar 0x015 f) (c.parts f) [1] c.w = .ok (ls, w) →
    let l : List W32 := ((ls[0]?).getD []).map fun x => BitVec.ofNat 32 x
    let present : List W32 := lanes32.map fun i => if (c.parts f).getLsbD i then (l[i]?).getD 0 else 0
    (n = 0 → isScalar 0x015 f = false → is32 f.ty = true → (∃ t, needTenant s.begun c = .ok t) →
      exec (.mov f) s = goesOn c f (enqueue c (s.begun.fresh.2.withWave c w) s.uids .mrun (wordsBytes (present.take 16)) 0 0 none)) ∧
    (n = 1 → isScalar 0x015 f = false → is32 f.ty = true → c.w.e1.length < 16 →
      exec (.mov f) s = goesOn c f (s.begun.withWave c { w with e1 := w.e1 ++ [present] })) ∧
    (n = 5 → isScalar 0x015 f = false → is32 f.ty = true → c.w.e5.length < 4 →
      exec (.mov f) s = goesOn c f (s.begun.withWave c { w with e5 := w.e5 ++ [{ mask := c.parts f, vals := present }] })) ∧
    (n = 3 → isScalar 0x015 f = true → is64 f.ty = false → c.w.e3.length < 64 →
      let q := w.e3 ++ [BitVec.ofNat 32 (movOp f.ty c.w.mode [(l.headD 0).toNat]).1]
      (q.length % 16 ≠ 0 → exec (.mov f) s = goesOn c f (s.begun.withWave c { w with e3 := q })) ∧
      (q.length % 16 = 0 → pathStuck s.begun c.b.die c.b.core = false → exec (.mov f) s = goesOn c f
        (enterCopy (s.begun.withWave c { w with e3 := q.take (q.length - 16) }) c (wordsBytes (q.drop (q.length - 16))))))

/-- R99 to R101. ISETP, FSETP and FCLASS complete: in every participating lane the predicate receives the test of its sources, a scalar
form's register 1 or 0, and the flags that the test raises go to MODE. -/
def Obligations.TestsComplete : Prop :=
  ∀ (f : Fields) (s : State) (c : Ctx) (ls : List (List Nat)) (w : Wave) (i : Instr) (opc lat : Nat) (fn : W32 → List Nat → Bool × Nat),
    (i = .isetp f ∧ opc = 0x140 ∧ lat = intLat f.ty ∧ (condOf 6 f).isSome = true ∧
        fn = (fun _ xs => (condHolds ((condOf 6 f).getD 0) false (decide (intVal f.ty (arg xs 0) < intVal f.ty (arg xs 1)))
          (decide (intVal f.ty (arg xs 0) = intVal f.ty (arg xs 1))), 0)) ∨
     i = .fsetp f ∧ opc = 0x141 ∧ lat = (if is64 f.ty then 8 else 4) ∧ (condOf 14 f).isSome = true ∧
        fn = (fun mode xs =>
          let a := readNumber f.ty mode (arg xs 0)
          let b := readNumber f.ty mode (arg xs 1)
          (condHolds ((condOf 14 f).getD 0) (isNanV a || isNanV b) (ltV false a b) (eqV a b),
            if (isNanV a || isNanV b) && 2 ≤ (condOf 14 f).getD 0 && (condOf 14 f).getD 0 ≤ 5 then 1 else 0)) ∨
     i = .fclass f ∧ opc = 0x142 ∧ lat = 4 ∧
        fn = (fun _ xs => (bitAt (arg xs 1) (classBit (fmtOf f.ty) (arg xs 0 % 2 ^ elemWidth f.ty)) == 1, 0))) →
    Stands opc f s c →
    ((∃ n, f.op0 = .p n) ∨ (isScalar opc f = true ∧ ∃ n, f.op0 = .s n)) →
    (isScalar opc f = true ∨ oneScalar f (positions [1, 2]) = true) →
    readSrcs s.begun c opc f (isScalar opc f) (c.parts f) [1, 2] c.w = .ok (ls, w) →
    let at0 (l : Nat) : List Nat := ls.map fun v => (v[l]?).getD 0
    let rs : List (Bool × Nat) := lanes32.map fun l =>
      if isScalar opc f then fn c.w.mode (at0 0) else if (c.parts f).getLsbD l then fn c.w.mode (at0 l) else (false, 0)
    exec i s = goesOn c f (result s.begun c w f f.op0 (isScalar opc f) (popsQueue f (positions [1, 2])) (c.parts f) lat
      [rs.map fun r => if r.1 then 1 else 0] (allFlags (rs.map fun r => (0, r.2))))

/-- R102. SEL, PLOP, PTOV and VTOP complete: SEL takes one of two values by a predicate, PLOP combines predicates, PTOV turns a predicate
into a value and VTOP a value into a predicate, each in the participating lanes. -/
def Obligations.PredicateInstructionsComplete : Prop :=
  (∀ (f : Fields) (s : State) (c : Ctx) (ls : List (List Nat)) (w : Wave) (n : Nat),
    Stands 0x143 f s c → oneScalar f (positions [2, 3]) = true → f.op0 ≠ .none → destOk c f.op0 false true (is64 f.ty) = true →
    predNum f.op1 = some n → readSrcs s.begun c 0x143 f false (c.parts f) [2, 3] c.w = .ok (ls, w) →
    exec (.sel f) s = goesOn c f (result s.begun c w f f.op0 false (popsQueue f (positions [2, 3])) (c.parts f) (intLat f.ty)
      (wordsOf (is64 f.ty) (lanes32.map fun l => arg ((ls[if (c.readP n).getLsbD l then 0 else 1]?).getD []) l)) 0)) ∧
  (∀ (f : Fields) (s : State) (c : Ctx) (d a b : Nat) (op : Fin 64),
    Stands 0x144 f s c → predNum f.op0 = some d → predNum f.op1 = some a → f.op3 = .int op →
    (op.val < 8 ∧ predNum f.op2 = some b ∨ 8 ≤ op.val ∧ op.val ≤ 9 ∧ f.op2 = .none ∧ b = 15) →
    exec (.plop f) s = goesOn c f (s.begun.withWave c (c.w.write c.clk 4 false
      { reg := .p d, mask := c.parts f, vals := [plopBits op (c.readP a) (c.readP b)] }))) ∧
  (∀ (f : Fields) (s : State) (c : Ctx) (n : Nat),
    Stands 0x145 f s c → f.op0 ≠ .none → destOk c f.op0 false true false = true → predNum f.op1 = some n →
    exec (.ptov f) s = goesOn c f (result s.begun c c.w f f.op0 false false (c.parts f) 4
      (wordsOf false (lanes32.map fun l => if (c.readP n).getLsbD l then (if f.ty = .b32 then 2 ^ 32 - 1 else 1) else 0)) 0)) ∧
  (∀ (f : Fields) (s : State) (c : Ctx) (ls : List (List Nat)) (w : Wave) (d : Nat),
    Stands 0x146 f s c → predNum f.op0 = some d → readSrcs s.begun c 0x146 f false (c.parts f) [1] c.w = .ok (ls, w) →
    exec (.vtop f) s = goesOn c f (result s.begun c w f f.op0 false (popsQueue f (positions [1])) (c.parts f) 4
      [((ls[0]?).getD []).map fun x => if x = 0 then 0 else 1] 0))

/-- R69, R70. BPACK and BUNPK complete: 64 elements become the bit planes of a group, and elements are rebuilt from their top planes. -/
def Obligations.PlaneInstructionsComplete : Prop :=
  (∀ (f : Fields) (s : State) (c : Ctx) (ls : List (List Nat)) (w : Wave) (a b : Fin 640),
    Stands 0x103 f s c → destOk c f.op0 false true false = true → f.op1 = .v a → f.op2 = .v b →
    readSrcs s.begun c 0x103 f false (c.parts f) [1, 2] c.w = .ok (ls, w) →
    let es := (((ls[0]?).getD []) ++ ((ls[1]?).getD [])).map (planeElem f.ty)
    exec (.bpack f) s = goesOn c f (result s.begun c w f f.op0 false false (c.parts f) 8 (wordsOf false (lanes32.map fun l =>
      if l < 2 * elemWidth f.ty then planeWord (l / 2) es / 2 ^ (32 * (l % 2)) % 2 ^ 32 else 0)) 0)) ∧
  (∀ (f : Fields) (s : State) (c : Ctx) (ls : List (List Nat)) (w : Wave) (a : Fin 640) (h p : Fin 64),
    Stands 0x104 f s c → destOk c f.op0 false true false = true → f.op1 = .v a → f.op2 = .int h → f.op3 = .int p →
    h.val < 2 → p.val ≠ 0 → p.val ≤ elemWidth f.ty →
    readSrcs s.begun c 0x104 f false (c.parts f) [1] c.w = .ok (ls, w) →
    let v := (ls[0]?).getD []
    let word (i : Nat) : Nat := arg v (2 * i) % 2 ^ 32 + 2 ^ 32 * (arg v (2 * i + 1) % 2 ^ 32)
    exec (.bunpk f) s = goesOn c f (result s.begun c w f f.op0 false false (c.parts f) 8 (wordsOf false (lanes32.map fun l =>
      planeVal f.ty p (joinElems 1 ((List.range (elemWidth f.ty)).map fun i => bitAt (word i) (32 * h.val + l))))) 0))

/-- R104 to R107. SHFL, TLU, ZIP and UNZ, and VOTE complete: SHFL takes each lane's source from the lane that its index names, TLU
looks four bytes up in a register table, ZIPk and UNZk interleave k sources and undo it, and VOTE tells what its predicate holds in the
participating lanes. -/
def Obligations.LaneMovesComplete : Prop :=
  (∀ (f : Fields) (s : State) (c : Ctx) (ix a : List Nat) (w w1 : Wave),
    Stands 0x180 f s c → f.op0 ≠ .none → destOk c f.op0 false true (is64 f.ty) = true → laneKind false f.op1 = true →
    laneKind true f.op2 = true → readSrc s.begun c c.w 0x180 f false (c.parts f) 2 = .ok (ix, w) →
    readLanes s.begun c w 0x180 f false ((lanesOf (c.parts f)).map fun l => (l, arg ix l % 32)) 1 = .ok (a, w1) →
    exec (.shfl f) s = goesOn c f (result s.begun c w1 f f.op0 false false (c.parts f) (if is64 f.ty then 8 else 4)
      (wordsOf (is64 f.ty) (lanes32.map fun l => arg a (arg ix l % 32))) 0)) ∧
  (∀ (f : Fields) (s : State) (c : Ctx) (t : Fin 640) (n : Fin 64) (ls : List (List Nat)) (w : Wave),
    Stands 0x181 f s c → f.op2 = .v t → f.op3 = .int n → 1 ≤ n.val → n.val ≤ 8 → t.val + n.val ≤ 8 * c.w.claim →
    f.op0 ≠ .none → destOk c f.op0 false true false = true → laneKind true f.op1 = true → laneKind true f.op4 = true →
    oneScalar f (positions [1, 4]) = true → readSrcs s.begun c 0x181 f false (c.parts f) [1, 4] c.w = .ok (ls, w) →
    exec (.tlu f) s = goesOn c f (result s.begun c w f f.op0 false false (c.parts f) 8 (wordsOf false (lanes32.map fun l =>
      joinElems 8 ((List.range 4).map fun j =>
        if elemAt 8 j (arg ((ls[0]?).getD []) l) < 4 * n.val then
          elemAt 8 (elemAt 8 j (arg ((ls[0]?).getD []) l) % 4)
            (c.readV (t.val + elemAt 8 j (arg ((ls[0]?).getD []) l) / 4) l).toNat
        else arg ((ls[1]?).getD []) l % 256))) 0)) ∧
  (∀ (f : Fields) (s : State) (c : Ctx) (i : Instr) (opc k : Nat) (unz : Bool) (vs : List (List Nat)),
    (i, opc, k, unz) ∈ [(Instr.zip2 f, 0x182, 2, false), (.zip3 f, 0x183, 3, false), (.zip4 f, 0x184, 4, false),
      (.unz2 f, 0x185, 2, true), (.unz3 f, 0x186, 3, true), (.unz4 f, 0x187, 4, true)] →
    Stands opc f s c → vectorsOk c f.op0 k = true →
    (∀ j, j < k → laneKind false (f.op (j + 1)) = true ∧ ∃ w, readLanes s.begun c c.w opc f false
      ((lanesOf (c.parts f)).flatMap fun l => (List.range k).filterMap fun r =>
        if (zipFrom unz k r l).1 = j then some (l, (zipFrom unz k r l).2) else none) (j + 1) = .ok ((vs[j]?).getD [], w)) →
    exec i s = goesOn c f (result s.begun c c.w f f.op0 false false (c.parts f) 8
      ((List.range k).map fun r => lanes32.map fun l =>
        BitVec.ofNat 32 (arg ((vs[(zipFrom unz k r l).1]?).getD []) (zipFrom unz k r l).2)) 0)) ∧
  (∀ (f : Fields) (s : State) (c : Ctx) (n : Nat) (op : Fin 64),
    Stands 0x188 f s c → predNum f.op1 = some n → f.op2 = .int op → op.val ≤ 3 →
    (op.val = 3 → destOk c f.op0 false true false = true) →
    let x := c.readP n &&& c.parts f
    exec (.vote f) s = goesOn c f (result s.begun c c.w f f.op0 false false (c.parts f) 4 [List.replicate 32
      (if op.val = 0 then (if x = c.parts f then 1 else 0)
       else if op.val = 1 then (if x = 0 then 0 else 1)
       else if op.val = 2 then (if x = c.parts f ∨ x = 0 then 1 else 0)
       else x)] 0))

/-- R25, R109 to R112. REDUCE, WSCAN and RDLANE complete: REDUCE sends the combination of the participating lanes toward e6, WSCAN
gives each participating lane the combination of those up to it (or before it), and RDLANE sends one lane's value toward e6. -/
def Obligations.CollectivesComplete : Prop :=
  (∀ (f : Fields) (s : State) (c : Ctx) (op : Nat) (v : List Nat) (present : W32) (w : Wave),
    Stands 0x189 f s c → collectiveOf f = some op → c.w.e6.length + c.w.flights.length < 4 →
    treeSource s.begun c 0x189 f (c.parts f) = .ok (v, present, w) →
    let r := treeReduce (combine f c.w.mode op) 5
      (lanes32.map fun i => if (c.parts f &&& present).getLsbD i then some (arg v i) else none) 0
    exec (.reduce f) s = goesOn c f (towardE6 s.begun c w f (c.parts f) (r.1.getD (identityOf op f.ty)) r.2)) ∧
  (∀ (f : Fields) (s : State) (c : Ctx) (op : Nat) (ls : List (List Nat)) (w : Wave),
    Stands 0x18A f s c → collectiveOf f = some op → f.op0 ≠ .none → destOk c f.op0 false true false = true →
    readSrcs s.begun c 0x18A f false (c.parts f) [1] c.w = .ok (ls, w) →
    let r := scanLanes (combine f c.w.mode op) (f.op3 == .int 1) (identityOf op f.ty)
      (lanes32.map fun i => if (c.parts f).getLsbD i then some (arg ((ls[0]?).getD []) i) else none) none
    exec (.wscan f) s = goesOn c f (result s.begun c w f f.op0 false (popsQueue f (positions [1])) (c.parts f) 8
      (wordsOf false r.1) r.2)) ∧
  (∀ (f : Fields) (s : State) (c : Ctx) (k : Nat) (v : List Nat) (present : W32) (w : Wave),
    Stands 0x18B f s c →
    (f.op2 = .int (Fin.ofNat 64 k) ∧ k < 32 ∨ ∃ n : Fin 128, f.op2 = .s n ∧ k = (c.readS false n).toNat % 32) →
    ((∃ n, f.op1 = .v n) ∨ (∃ n, f.op1 = .q n) ∨ f.op1 = .e 5) → c.w.e6.length + c.w.flights.length < 4 →
    treeSource s.begun c 0x18B f (1#32 <<< k) = .ok (v, present, w) →
    exec (.rdlane f) s = goesOn c f
      (towardE6 s.begun c w f (c.parts f) (if present.getLsbD k then arg v k else 0) 0))

/-- R114. BRA, BRX, RET and the two CALLs complete: each participating lane stands at its target's header, the other lanes of the entry
at the next header, and a CALL has written the address of the next header to its destination pair first. A relative target is the
clause's header address plus a signed literal half, an absolute one the source's value, both multiples of 16. -/
def Obligations.BranchesComplete : Prop :=
  (∀ (f : Fields) (s : State) (c : Ctx) (t : Nat),
    Stands 0x1C0 f s c → relTarget c f.op1 = some t → t % 16 = 0 →
    exec (.bra f) s = goesTo c (branch s.begun c f (c.parts f) fun _ => BitVec.ofNat 60 (t / 16))) ∧
  (∀ (f : Fields) (s : State) (c : Ctx) (i : Instr) (opc : Nat) (l : List Nat) (ls : List (List Nat)) (w : Wave),
    (i = .brx f ∧ opc = 0x1C1 ∨ i = .ret f ∧ opc = 0x1C3) → Stands opc f s c →
    ((∃ n, f.op1 = .v n) ∨ (∃ n, f.op1 = .q n) ∨ (∃ n, f.op1 = .s n) ∨ f.op1 = .litLo) →
    readSrcs s.begun c opc f false (c.parts f) [1] c.w = .ok (l :: ls, w) → (∀ j ∈ lanesOf (c.parts f), arg l j % 16 = 0) →
    exec i s = goesTo c (branch s.begun c f (c.parts f) fun j => BitVec.ofNat 60 (arg l j / 16))) ∧
  (∀ (f : Fields) (s : State) (c : Ctx) (t : Nat),
    Stands 0x1C2 f s c → relTarget c f.op1 = some t → t % 16 = 0 → f.op0 ≠ .none → destOk c f.op0 false true true = true →
    exec (.call f) s = goesTo c (branch
      (s.begun.withWave c (deliverNow c c.w f.op0 false (c.parts f) 8 (wordsOf true (List.replicate 32 (16 * c.e.nextHdr.toNat))) 0))
      c f (c.parts f) fun _ => BitVec.ofNat 60 (t / 16))) ∧
  (∀ (f : Fields) (s : State) (c : Ctx) (l : List Nat) (ls : List (List Nat)) (w : Wave),
    Stands 0x1C2 f s c → ((∃ n, f.op1 = .v n) ∨ (∃ n, f.op1 = .q n) ∨ (∃ n, f.op1 = .s n) ∨ f.op1 = .litLo) →
    readSrcs s.begun c 0x1C2 f false (c.parts f) [1] c.w = .ok (l :: ls, w) → (∀ j ∈ lanesOf (c.parts f), arg l j % 16 = 0) →
    f.op0 ≠ .none → destOk c f.op0 false true true = true →
    exec (.callB64 f) s = goesTo c (branch
      (s.begun.withWave c (deliverNow c c.w f.op0 false (c.parts f) 8 (wordsOf true (List.replicate 32 (16 * c.e.nextHdr.toNat))) 0))
      c f (c.parts f) fun j => BitVec.ofNat 60 (arg l j / 16)))

/-- R114. A branch whose operands are legal and whose target is not a multiple of 16 traps: an alignment fault with that target as its
address, before anything is written. R114 lets the target of any participating lane of a BRX, a RET and a CALL.b64 be the cause; that the
record names the lowest such lane's target is log entry 49, and which lanes its LMASK names log entry 15, both DEDUCED. -/
def Obligations.MisalignedBranchFaults : Prop :=
  (∀ (f : Fields) (s : State) (c : Ctx) (t : Nat), relTarget c f.op1 = some t → t % 16 ≠ 0 →
    (Stands 0x1C0 f s c → exec (.bra f) s = stopsWith c f s (.fault 4 0 t c.e.mask)) ∧
    (Stands 0x1C2 f s c → f.op0 ≠ .none → destOk c f.op0 false true true = true →
      exec (.call f) s = stopsWith c f s (.fault 4 0 t c.e.mask))) ∧
  (∀ (f : Fields) (s : State) (c : Ctx) (i : Instr) (opc j : Nat) (l : List Nat) (ls : List (List Nat)) (w : Wave),
    (i = .brx f ∧ opc = 0x1C1 ∨ i = .ret f ∧ opc = 0x1C3 ∨
      i = .callB64 f ∧ opc = 0x1C2 ∧ f.op0 ≠ .none ∧ destOk c f.op0 false true true = true) → Stands opc f s c →
    ((∃ n, f.op1 = .v n) ∨ (∃ n, f.op1 = .q n) ∨ (∃ n, f.op1 = .s n) ∨ f.op1 = .litLo) →
    readSrcs s.begun c opc f false (c.parts f) [1] c.w = .ok (l :: ls, w) →
    (lanesOf (c.parts f)).find? (fun j => arg l j % 16 != 0) = some j →
    exec i s = stopsWith c f s (.fault 4 0 (arg l j) c.e.mask))

/-- R116 to R118. JOINM, LEAVEM, WAITM and MSKMOV complete: JOINM enrols the participating lanes, LEAVEM withdraws them, WAITM parks
those enrolled until every enrolled lane has arrived, and MSKMOV moves a whole mask in or out. That MSKMOV to an s register writes nothing
where no lane participates, and when a wide form may read what it wrote, are the model's choices (log entry 52). -/
def Obligations.MaskInstructionsComplete : Prop :=
  (∀ (f : Fields) (s : State) (c : Ctx) (m : Fin 12), f.op0 = .m m →
    (Stands 0x1C4 f s c →
      exec (.joinm f) s = goesOn c f (s.begun.withWave c (c.w.setM m (c.w.getM m ||| c.parts f)))) ∧
    (Stands 0x1C5 f s c →
      exec (.leavem f) s = goesOn c f (s.begun.withWave c ((c.w.setM m (c.w.getM m &&& ~~~c.parts f)).checkMask m))) ∧
    (Stands 0x1C6 f s c →
      let arr := c.parts f &&& c.w.getM m
      let r : WRef := { blk := c.ref.blk, wave := c.ref.wave }
      (arr = 0 → exec (.waitm f) s = goesOn c f s.begun) ∧
      (arr ≠ 0 → c.w.maskDone m arr = true → exec (.waitm f) s = goesOn c f (s.begun.withWave c (c.w.releaseMask m))) ∧
      (arr ≠ 0 → c.w.maskDone m arr = false → exec (.waitm f) s = goesTo c (checkDeadlock (settleAt (s.begun.withWave c
        (splitEntry c f arr { stayEntry c f arr with park := m + 1, opn := false } c.w)) r) r)))) ∧
  (∀ (f : Fields) (s : State) (c : Ctx), Stands 0x1C7 f s c →
    (∀ (d : Fin 12) (x : W32), f.op0 = .m d →
      ((∃ n, f.op1 = .s n ∧ x = c.readS false n) ∨ (∃ n, f.op1 = .int n ∧ x = BitVec.ofNat 32 n.val) ∨ (f.op1 = .zero ∧ x = 0) ∨
       (f.op1 = .ones ∧ x = 0xFFFFFFFF) ∨ (f.op1 = .litLo ∧ x = BitVec.ofNat 32 c.lit) ∨
       (f.op1 = .litHi ∧ x = BitVec.ofNat 32 (c.lit / 2 ^ 32)) ∨ (∃ n, f.op1 = .m n ∧ x = c.w.getM n)) →
      exec (.mskmov f) s = goesOn c f
        (if c.parts f = 0 then s.begun else s.begun.withWave c ((c.w.setM d (x &&& c.w.live)).checkMask d))) ∧
    (∀ n, f.op1 = .m n →
      (∀ d : Fin 128, f.op0 = .s d → exec (.mskmov f) s = goesOn c f (if c.parts f = 0 then s.begun else
        s.begun.withWave c (c.w.write c.clk 1 true { reg := .s d, mask := 1, vals := [c.w.getM n] }))) ∧
      (∀ d : Fin 16, f.op0 = .p d → exec (.mskmov f) s = goesOn c f
        (s.begun.withWave c (c.w.write c.clk 4 false { reg := .p d, mask := c.parts f, vals := [c.w.getM n] }))) ∧
      (∀ d : Fin 640, f.op0 = .v d → destOk c f.op0 false false false = true → exec (.mskmov f) s = goesOn c f
        (result s.begun c c.w f f.op0 false false (c.parts f) 4 [List.replicate 32 (c.w.getM n)] 0))))

/-- R115, R120, R278. EXIT, NOP and YIELD complete: EXIT ends the participating lanes, takes them from every mask and from the trap set,
and lets the rest go on at the next header; NOP does nothing; YIELD keeps its entry from issuing for k clk, in which its half offers its
slots to other waves first. The trap frame, where the trap set ends, can be read, and no engine owns it (R363). -/
def Obligations.ExitNopYieldComplete : Prop :=
  (∀ (f : Fields) (s : State) (c : Ctx) (t : State), Stands 0x1C8 f s c → leaveHeld s.begun c.w c.b.oid (c.parts f) = false →
    let r : WRef := { blk := c.ref.blk, wave := c.ref.wave }
    leaveTrap (s.begun.mapWave r.blk r.wave fun w =>
      (replaceEntry w c.ref.lane [{ c.e with mask := c.parts f }, fallEntry s.begun c f (c.e.mask &&& ~~~c.parts f)]).endLanes
        (c.parts f)) r c.b.oid (c.parts f) = .ok t →
    exec (.exit f) s = goesTo c (checkClaims (checkBarrier (checkDeadlock (settleAt t r) r) r.blk) r.blk)) ∧
  (∀ (f : Fields) (s : State) (c : Ctx), Stands 0x1C9 f s c → exec (.nop f) s = goesOn c f s.begun) ∧
  (∀ (f : Fields) (s : State) (c : Ctx) (k : Fin 64), Stands 0x1CA f s c → f.op1 = .int k → k.val ≠ 0 →
    exec (.yield f) s = goesOn c f (yieldFor s.begun c k.val))

/-- R23, R121, R122. MFSR and MTSR complete: MFSR reads a special register, MODE once no earlier work can still raise a sticky bit;
MTSR writes the fields of MODE that a program may write, leaves the interlock bit, and loses no sticky bit that earlier work is still to raise.
A scalar form of MFSR of LVL1 to LVL7 delivers lane 0's value (log entry 52), and MODE and QUOTA read as log entry 48 chooses. -/
def Obligations.SpecialRegisterMovesComplete : Prop :=
  (∀ (f : Fields) (s : State) (c : Ctx) (n : Fin 64), Stands 0x384 f s c → f.op1 = .int n → n.val < 16 →
    (isScalar 0x384 f = true → n.val ≠ 0 ∧ n.val ≠ 8) → destOk c f.op0 (isScalar 0x384 f) false false = true →
    (n.val = 5 → stickyDue c = false) →
    exec (.mfsr f) s = goesOn c f (result s.begun c c.w f f.op0 (isScalar 0x384 f) false (c.parts f) 4
      (wordsOf false (lanes32.map fun l => specialReg s.begun c n.val l)) 0)) ∧
  (∀ (f : Fields) (s : State) (c : Ctx) (x : W32), Stands 0x385 f s c → f.op1 = .int 5 → x.toNat % 8 < 5 →
    ((∃ n, f.op2 = .s n ∧ x = c.readS true n) ∨ (∃ n, f.op2 = .int n ∧ x = BitVec.ofNat 32 n.val) ∨ (f.op2 = .zero ∧ x = 0) ∨
       (f.op2 = .litLo ∧ x = BitVec.ofNat 32 c.lit) ∨ (f.op2 = .litHi ∧ x = BitVec.ofNat 32 (c.lit / 2 ^ 32))) →
    exec (.mtsr f) s = goesOn c f (s.begun.withWave c
      { c.w with mode := (x &&& 0x1F1F) ||| (c.w.mode &&& 0x10000), late := c.w.late.filter fun d => decide (c.clk < d.1) }))

/-- R161, R162. LD and LDS complete: each participating lane reads its elements, whose values go to the destination registers when the
long-latency work completes, and the caches take the lines. The bytes are those of memory at issue, which is the model's choice (log
entry 16); a lane that reads over a Shener link can still lose its access while it is in flight (R382). -/
def Obligations.LoadsComplete : Prop :=
  ∀ (f : Fields) (s : State) (c : Ctx) (i : Instr) (opc : Nat) (stash : Bool) (al : List Nat) (w : Wave) (sp : List (Nat × Spot)),
    (i = .ld f ∧ opc = 0x200 ∧ stash = false ∨ i = .lds f ∧ opc = 0x202 ∧ stash = true) → Stands opc f s c →
    let k := countOf f.op3
    let e := elemWidth f.ty / 8
    let scalar := isScalar opc f
    rangeOk c f.op0 scalar (is64 f.ty) (if is64 f.ty then 2 * k else k) = true →
    Reaching s.begun c f stash scalar e (e * k) (accLanes scalar (c.parts f)) { rd := true, wr := false } al w sp →
    let t := readsNoted s.begun c f al sp
    exec i s = goesOn c f (inFlight (result t c c.w f f.op0 scalar true (c.parts f) 0
      (loadWords f.ty k (spotsRead s.begun c scalar (e * k) sp)) 0) c al sp)

/-- R30, R161, R162. ST and STS complete: the participating lanes store their elements in ascending order, so that where lanes meet the
highest-numbered lane's bytes remain; a store whose value pops a queue is counted on its flag. -/
def Obligations.StoresComplete : Prop :=
  ∀ (f : Fields) (s : State) (c : Ctx) (i : Instr) (opc : Nat) (stash : Bool) (al : List Nat) (w w1 : Wave) (bs : List (List Byte))
    (sp : List (Nat × Spot)),
    (i = .st f ∧ opc = 0x201 ∧ stash = false ∨ i = .sts f ∧ opc = 0x203 ∧ stash = true) → Stands opc f s c →
    let k := countOf f.op4
    let e := elemWidth f.ty / 8
    let scalar := isScalar opc f
    (scalar = true ∨ oneScalar f (positions [1, 3]) = true) → storeBytes s.begun c opc f scalar (c.parts f) k = .ok (bs, w1) →
    Reaching s.begun c f stash scalar e (e * k) (accLanes scalar (c.parts f)) { rd := false, wr := true } al w sp →
    exec i s = goesOn c f (countPops (storeLanes (s.begun.withWave c w1) c f.hint.toNat al bs sp) c f 0b01000)

/-- R153 to R157, R163. STMAP, STUNMAP, STFLUSH and PREF complete: STMAP maps a range of the stash onto global memory, after the core's own
stores to its lines (log entry 19), where no flip and no owning command holds it up; STUNMAP writes a window back and takes it away, STFLUSH
writes windows back and keeps them, and PREF brings in the lines of the lanes whose access passes its checks, one lane after another, and
does nothing for a lane whose access fails one or would wait for an owning command or a flip, which is the model's choice (log entry 52). -/
def Obligations.WindowInstructionsComplete : Prop :=
  (∀ (f : Fields) (s : State) (c : Ctx) (g o n : Nat) (w : Fin 64) (lv : List (Nat × W64 × Nat)), Stands 0x204 f s c →
    ((∃ r : Fin 128, f.op1 = .s r ∧ r.val % 2 = 0 ∧ g = joinPair (c.readS true r) (c.readS true (r + 1))) ∨ f.op1 = .litLo ∧ g = c.lit) →
    stmapScalar c f.op2 true = some o → stmapScalar c f.op3 false = some n → f.op4 = .int w → w.val < 16 →
    o % 128 = 0 → n % 128 = 0 → g % 128 = 0 → 128 ≤ n → o + n ≤ c.b.z → g + n ≤ 2 ^ 64 →
    (c.b.windows.all fun x => x.win == w.val || ((decide (x.off + x.len ≤ o) || decide (o + n ≤ x.off)) &&
      (decide (x.va + x.len ≤ g) || decide (g + n ≤ x.va)))) = true →
    windowLeaves s.begun c.b.who g n = .ok lv → ((c.b.windows.any fun x => x.win == w.val) = true → mayTouch s.begun c.b = false) →
    let new := newWindow c s.uids w o n g lv
    windowStuck s.begun c.b new = false →
    exec (.stmap f) s = goesOn c f (counted ((drainPath (unmapWindow s.begun c.ref.blk w)
        fun p => onCorePath c.b.die c.b.core p && new.holds p.key).mapBlock c.ref.blk fun b =>
      { b with windows := b.windows ++ [new], stash := dropRange b.stash o n }) c f)) ∧
  (∀ (f : Fields) (s : State) (c : Ctx) (w : Fin 64), Stands 0x205 f s c → f.op1 = .int w → w.val < 16 →
    ((c.b.windows.any fun x => x.win == w.val) = false → exec (.stunmap f) s = goesOn c f (counted s.begun c f)) ∧
    ((c.b.windows.any fun x => x.win == w.val) = true → mayTouch s.begun c.b = false →
      exec (.stunmap f) s = goesOn c f (counted (unmapWindow s.begun c.ref.blk w) c f))) ∧
  (∀ (f : Fields) (s : State) (c : Ctx) (w : Fin 64), Stands 0x206 f s c → f.op1 = .int w → w.val ≤ 16 →
    exec (.stflush f) s = goesOn c f
      (counted (writeBackWindows s.begun c.ref.blk fun x => w.val == 16 || x == w.val) c f)) ∧
  (∀ (f : Fields) (s : State) (c : Ctx) (al : List Nat) (w : Wave), Stands 0x207 f s c →
    addresses s.begun c c.w f false (isScalar 0x207 f) 4 (c.parts f) = .ok (al, w) →
    exec (.pref f) s = goesOn c f
      ((accLanes (isScalar 0x207 f) (c.parts f)).foldl (fun s l => prefetch s c f.hint.toNat ((al[l]?).getD 0)) s.begun))

/-- R165 to R168. ATOM, ATOMR and CAS complete: each participating lane in ascending order reads its element, computes the new one and
writes it as one operation, after the release that its order asks for; ATOMR and CAS deliver the old elements, and an ATOM is counted on its
flag only where its value pops a queue (R30). No remote acquire and no store that waits for a command stands in the way. -/
def Obligations.AtomicsComplete : Prop :=
  ∀ (f : Fields) (s : State) (c : Ctx) (i : Instr) (opc : Nat) (ret : Bool) (srcs : List Nat) (new : List (List Nat) → Nat → Nat → Option Nat)
    (al : List Nat) (vs : List (List Nat)) (w w1 : Wave) (sp : List (Nat × Spot)),
    ((∃ op : Fin 64, op.val < 9 ∧ f.op4 = .int op ∧ (i = .atom f ∧ opc = 0x240 ∧ ret = false ∨ i = .atomr f ∧ opc = 0x241 ∧ ret = true) ∧
        srcs = [3] ∧ new = fun vs l old => some (atomNew op f.ty old (argAt vs 0 l))) ∨
     i = .cas f ∧ opc = 0x242 ∧ ret = true ∧ srcs = [3, 4] ∧
        new = fun vs l old => if old = argAt vs 0 l then some (argAt vs 1 l) else none) →
    Stands opc f s c →
    let scalar := isScalar opc f
    let e := elemWidth f.ty / 8
    (ret = true → rangeOk c f.op0 scalar (is64 f.ty) (if is64 f.ty then 2 else 1) = true) →
    (scalar = true ∨ oneScalar f (positions (1 :: srcs)) = true) →
    Reaching s.begun c f f.inStash scalar e e (accLanes scalar (c.parts f)) { rd := true, wr := true } al w sp →
    readSrcs s.begun c opc f scalar (c.parts f) srcs w = .ok (vs, w1) →
    (f.rmt = true → racqLines s.begun c.b sp = []) → releaseStuck s.begun c.b f.scope f.ord = false →
    let t := sp.foldl (fun s p => fillTlb s c.b.who ((al[p.1]?).getD 0)) (releaseFor (s.begun.withWave c w1) c.b f.scope f.ord)
    let r := atomLanes c.b f.scope f.hint.toNat f.ord e (new vs) sp t
    exec i s = goesOn c f (if ret then
      inFlight (result r.2 c (c.now r.2) f f.op0 scalar true (c.parts f) 0 (elemWords f.ty r.1 scalar) 0) c al sp
      else countPops r.2 c f 0b01000)

/-- R165, R169. LR and SC complete. LR reads the lowest participating lane's element, which has its home on a device memory stack, and
sets the reservation; SC stores only if the reservation is still held, gives it up, and tells its destination whether it stored. That LR asks
for read permission alone (log entry 52) and reads at issue (log entry 16) are the model's choices. -/
def Obligations.ReservationsComplete : Prop :=
  (∀ (f : Fields) (s : State) (c : Ctx) (al : List Nat) (w : Wave) (l : Nat) (q : Spot) (sp : List (Nat × Spot)), Stands 0x243 f s c →
    let scalar := isScalar 0x243 f
    let e := elemWidth f.ty / 8
    rangeOk c f.op0 scalar (is64 f.ty) (if is64 f.ty then 2 else 1) = true →
    Reaching s.begun c f false scalar e e (oneLane scalar (c.parts f)) { rd := true, wr := false } al w ((l, q) :: sp) →
    homeIsDevice c.b q = true →
    let a := (al[l]?).getD 0
    let r := atomRead (fillTlb s.begun c.b.who a) c.b e q
    let t := noteRead r.2 c.b f.hint.toNat a q
    exec (.lr f) s = goesOn c f (result t c { c.now t with reserv := some ((q.piece c.b e).lo, e) } f f.op0 scalar true (c.parts f) 0
      (wordsOf (is64 f.ty) (List.replicate 32 r.1)) 0)) ∧
  (∀ (f : Fields) (s : State) (c : Ctx) (al : List Nat) (vs : List (List Nat)) (w w1 : Wave) (l : Nat) (q : Spot) (sp : List (Nat × Spot)),
    Stands 0x244 f s c →
    let scalar := isScalar 0x244 f
    let e := elemWidth f.ty / 8
    ((∃ n, f.op0 = .p n) ∧ scalar = false ∧ oneScalar f (positions [1, 3]) = true ∨ (∃ n, f.op0 = .s n) ∧ scalar = true) →
    Reaching s.begun c f false scalar e e (oneLane scalar (c.parts f)) { rd := true, wr := true } al w ((l, q) :: sp) →
    readSrcs s.begun c 0x244 f scalar (c.parts f) [3] w = .ok (vs, w1) → homeIsDevice c.b q = true →
    releaseStuck s.begun c.b f.scope f.ord = false →
    let t := (atomRead (releaseFor (s.begun.withWave c w1) c.b f.scope f.ord) c.b e q).2
    let won := (c.now t).reserv = some ((q.piece c.b e).lo, e)
    let u := if won then atomWrite t c.b f.scope f.hint.toNat (bytesLE e (argAt vs 0 l)) q else t
    exec (.sc f) s = goesOn c f (result u c { c.now u with reserv := none } f f.op0 scalar true (c.parts f) 0
      [List.replicate 32 (if won then 1 else 0)] 0))

/-- R156, R170, R171, R230. FENCE and WAITA complete: a releasing FENCE drains the core's stores, at every scope (log entry 17), and writes
back what its scope asks for, where none of them waits for a command, and an acquiring one with no remote acquire in the way does nothing
more; WAITA goes on at once where every lane is satisfied or the time is 0, and else parks its lanes with what they watch. A WAITA whose
value or time pops a queue is counted on its flag (R30). -/
def Obligations.FenceAndWaitaComplete : Prop :=
  (∀ (f : Fields) (s : State) (c : Ctx), Stands 0x245 f s c →
    (f.rmt = false → releaseStuck s.begun c.b f.scope f.ord = false → exec (.fence f) s = goesOn c f
      (if 2 ≤ f.ord then releaseAt (drainCore s.begun c.b.die c.b.core) c.b f.scope else s.begun)) ∧
    (f.rmt = true → ∀ (al : List Nat) (w : Wave) (sp : List (Nat × Spot)),
      addresses s.begun c c.w f false false 1 c.e.mask = .ok (al, w) →
      spotsOf s.begun c false (lanesOf c.e.mask) (fun l => (al[l]?).getD 0) 1 { rd := true, wr := false } false = .ok sp →
      racqLines s.begun c.b sp = [] → exec (.fence f) s = goesOn c f (s.begun.withWave c w))) ∧
  (∀ (f : Fields) (s : State) (c : Ctx) (al : List Nat) (vs : List (List Nat)) (w w1 : Wave) (sp : List (Nat × Spot)), Stands 0x246 f s c →
    let scalar := isScalar 0x246 f
    let e := elemWidth f.ty / 8
    let ls := accLanes scalar (c.parts f)
    ((∃ n, f.op0 = .p n) ∧ scalar = false ∧ oneScalar f (positions [1, 3, 4]) = true ∨ (∃ n, f.op0 = .s n) ∧ scalar = true) →
    Reaching s.begun c f f.inStash scalar e e ls { rd := true, wr := false } al w sp →
    readSrcs s.begun c 0x246 f scalar (c.parts f) [3, 4] w = .ok (vs, w1) →
    let time := ls.foldl (fun a l => min a (argAt vs 1 l)) 0xFFFFFFFF
    let watch := watchOf c f al vs sp time
    let t := readsNoted (s.begun.withWave c w1) c f al sp
    let sat := satisfied t (c.b.seenBy c.ref.wave) watch
    let mask := if scalar then c.e.mask else c.parts f
    let u := countPops t c f 0b11000
    exec (.waita f) s =
      if sat = (if scalar then 1#32 else c.parts f) ∨ time = 0 then
        goesOn c f (u.mapWave c.ref.blk c.ref.wave fun w => waitaWrite w c.clk f.op0 (c.parts f) sat)
      else goesTo c (u.mapWave c.ref.blk c.ref.wave (splitEntry c f mask
        { stayEntry c f mask with park := 13, opn := false, watch := [watch] })))

/-- R131, R134 to R136, R139. ACQ, ACQT and CARVE's requests complete at issue when the count is 0 or the request is granted with nothing
to wait for: the wave or block receives the units. ACQT and CARVE.try also complete when they are not granted, and tell why. -/
def Obligations.RequestsComplete : Prop :=
  (∀ (f : Fields) (s : State) (c : Ctx) (i : Instr) (opc kind k : Nat) (cnt : Operand),
    ((i = .acqReg f ∨ i = .acqMslot f) ∧ opc = 0x280 ∧ kindOf f.op2 = some kind ∨ i = .carveGet f ∧ opc = 0x285 ∧ f.op2 = .int 0 ∧ kind = 1) →
    cnt = f.op1 → Stands opc f s c → readCount c cnt = .ok k →
    (k = 0 → exec i s = goesOn c f s.begun) ∧
    (k ≠ 0 → decideRequest s.begun c.b c.w kind k = .granted →
      slotsPending (giveUnits s.begun c.ref.blk c.ref.wave kind k) c.ref.blk kind = false →
      exec i s = goesOn c f (giveUnits s.begun c.ref.blk c.ref.wave kind k))) ∧
  (∀ (f : Fields) (s : State) (c : Ctx) (i : Instr) (opc kind k : Nat),
    (i = .acqt f ∧ opc = 0x281 ∧ kindOf f.op2 = some kind ∨ i = .carveTry f ∧ opc = 0x285 ∧ kind = 1) → Stands opc f s c →
    ((∃ n, f.op0 = .s n) ∨ f.op0 = .none) → (∃ n, f.op3 = .p n) → readCount c f.op1 = .ok k →
    (k = 0 → exec i s = goesOn c f (reportStatus s.begun c f 0)) ∧
    (k ≠ 0 → decideRequest s.begun c.b c.w kind k = .busy → exec i s = goesOn c f (reportStatus s.begun c f 1)) ∧
    (k ≠ 0 → decideRequest s.begun c.b c.w kind k = .risky → exec i s = goesOn c f (reportStatus s.begun c f 2)) ∧
    (k ≠ 0 → decideRequest s.begun c.b c.w kind k = .granted →
      slotsPending (reportStatus (giveUnits s.begun c.ref.blk c.ref.wave kind k) c f 0) c.ref.blk kind = false →
      exec i s = goesOn c f (reportStatus (giveUnits s.begun c.ref.blk c.ref.wave kind k) c f 0)))

/-- R137 to R139. REL, GIVE, CLAIM and CARVE.put complete: REL gives bundles or slots back, GIVE moves the top bundles of a claim to the
spare pool, CLAIM takes the newest of them, and CARVE.put gives the top ways back after unmapping the windows in them. No write
to what is given up is still under way; the core's pending requests are tested again for what is returned. -/
def Obligations.ReleasesComplete : Prop :=
  ∀ (f : Fields) (s : State) (c : Ctx) (k : Nat), readCount c f.op1 = .ok k → k ≠ 0 →
    (Stands 0x282 f s c →
      (kindOf f.op2 = some 0 → k < c.w.claim → c.w.writesFrom c.clk (c.w.claim - k) = false →
        exec (.rel f) s = goesOn c f (retest (s.begun.withWave c (c.w.cutClaim (c.w.claim - k))) c.b.die c.b.core)) ∧
      (kindOf f.op2 = some 2 → k ≤ c.b.mslots → c.b.queueEmpty = true →
        exec (.rel f) s = goesOn c f
          (retest (s.begun.mapBlock c.ref.blk fun b => effectSlots { b with mslots := b.mslots - k }) c.b.die c.b.core))) ∧
    (Stands 0x283 f s c → k < c.w.claim → c.w.writesFrom c.clk (c.w.claim - k) = false →
      let given := (List.range k).map fun i => c.w.bundle (c.w.claim - k + i)
      exec (.give f) s = goesOn c f ((s.begun.withWave c (c.w.cutClaim (c.w.claim - k))).mapBlock c.ref.blk fun b =>
        if c.w.half = 0 then { b with spare0 := b.spare0 ++ given } else { b with spare1 := b.spare1 ++ given })) ∧
    (Stands 0x284 f s c → c.w.claim + k ≤ 80 → k ≤ (c.b.spare c.w.half).length →
      exec (.claim f) s = goesOn c f (takeSpare s.begun c.ref.blk c.ref.wave c.w.half k)) ∧
    (Stands 0x285 f s c → k ≤ c.b.ways → mayTouch s.begun c.b = false →
      let lo := 32768 * (c.b.ways - k)
      let gone := (c.b.windows.filter fun w => decide (lo < w.off + w.len)).map fun w => w.win
      exec (.carvePut f) s = goesOn c f (retest ((gone.foldl (fun s w => unmapWindow s c.ref.blk w) s.begun).mapBlock c.ref.blk fun b =>
        { b with ways := b.ways - k, stash := b.stash.filter fun p => decide (p.1 < lo) }) c.b.die c.b.core))

/-- R137, R138. REL and GIVE of as much as the wave claims, or of more, stop with a resource-protocol fault. -/
def Obligations.ReleasingTheWholeClaimFaults : Prop :=
  ∀ (f : Fields) (s : State) (c : Ctx) (k : Nat), readCount c f.op1 = .ok k → k ≠ 0 → c.w.claim ≤ k →
    (Stands 0x282 f s c → kindOf f.op2 = some 0 → exec (.rel f) s = stopsWith c f s (.fault 11 0 0 c.e.mask)) ∧
    (Stands 0x283 f s c → exec (.give f) s = stopsWith c f s (.fault 11 0 0 c.e.mask))

/-- R142 to R147, R218. PHASE, BAR, GBAR and REGROUP complete: with every live lane of its wave, and at the address and of the kind that
the first arrival recorded, the entry is held at the block's barrier, which goes on when the last wave has arrived. -/
def Obligations.BarrierArrivalsComplete : Prop :=
  ∀ (f : Fields) (s : State) (c : Ctx) (i : Instr) (opc tmpl : Nat) (kind : BarKind) (key : Operand),
    ((∃ t : Fin 64, i = .phase f ∧ opc = 0x286 ∧ f.op1 = .int t ∧ t.val ≤ 8 ∧ (t.val < 8 → tV (lItpl (recordOf s.begun c.b) t.val) = true) ∧
        lCb (recordOf s.begun c.b) ≤ c.w.claim ∧ c.w.trap = none ∧ (c.b.waves.all fun w => w.trap.isNone) = true ∧
        kind = .phase ∧ tmpl = t.val ∧ key = .none) ∨
     (i = .bar f ∧ opc = 0x287 ∧ kind = .bar ∧ tmpl = 0 ∧ key = .none) ∨
     (i = .gbar f ∧ opc = 0x300 ∧ kind = .gbar ∧ tmpl = 0 ∧ key = .none) ∨
     (i = .regroup f ∧ opc = 0x288 ∧ kind = .regroup ∧ tmpl = 0 ∧ key = f.op1 ∧
        ((∃ n : Fin 640, f.op1 = .v n ∧ n.val < 8 * c.w.claim) ∨
         (∃ k q, f.op1 = .q k ∧ c.w.q[k.val]? = some q ∧ c.e.mask &&& ~~~q.valid = 0)))) →
    Stands opc f s c → c.e.mask = c.w.live → (c.b.barrier.all fun br => br.kind == kind && br.addr == c.iaddr) = true →
    let br : Barrier := match c.b.barrier with
      | none => { kind := kind, addr := c.iaddr, arrived := [c.ref.wave], tmpl := tmpl, full := false, key := key }
      | some br => { br with arrived := c.ref.wave :: br.arrived }
    exec i s = goesTo c (checkClaims (checkBarrier ((s.begun.mapBlock c.ref.blk fun b => { b with barrier := some br }).mapEntry c.ref
      fun e => { e with idx := e.idx + 1, hold := .barrier, notBefore := max e.notBefore (nextClk c f) }) c.ref.blk) c.ref.blk)

/-- R186 to R188, R190, R193 to R195, R201, R202, R205. MWLD, MSWAP, MRUN, MINIT, MRDA and MSYNC complete: where the block holds a
matrix slot and its command queue has room, the command with what it captures from the stash enters the queue, MWLD and MRUN counted on
their flag, MRDA's registers waiting for it; MSYNC goes on once the queue holds no command of its wave. -/
def Obligations.MatrixCommandsComplete : Prop :=
  ∀ (f : Fields) (s : State) (c : Ctx), TenantReady s.begun c →
    (∀ (off : Nat) (l : List Byte) (t : State), Stands 0x2C1 f s c → offsetOperand c f.op1 32 true = some off →
      capture s.begun c off 32 32 = .ok (l, t) → exec (.mwld f) s = goesOn c f (enqueueCounted t c f .mwld l)) ∧
    (Stands 0x2C2 f s c → exec (.mswap f) s = goesOn c f (enqueue c s.begun.fresh.2 s.uids .mswap [] 0 0 none)) ∧
    (∀ (off : Nat) (l : List Byte) (t : State), Stands 0x2C3 f s c → offsetOperand c f.op1 64 true = some off →
      capture s.begun c off 64 64 = .ok (l, t) → exec (.mrun f) s = goesOn c f (enqueueCounted t c f .mrun l)) ∧
    (∀ (a n off : Nat) (l : List Byte) (t : State), Stands 0x2C4 f s c → rowOperand c true f.op1 = some a → rowOperand c true f.op2 = some n →
      (n ≠ 0 ∨ ∃ r, f.op2 = .s r) →
      (f.op3 = .zero ∧ l = [] ∧ t = s.begun ∨
        f.op3 ≠ .zero ∧ offsetOperand c f.op3 128 false = some off ∧ capture s.begun c off 128 128 = .ok (l, t)) →
      exec (.minit f) s = goesOn c f (enqueue c t.fresh.2 t.uids .minit l a n none)) ∧
    (∀ (a n : Nat), Stands 0x2C5 f s c → rowOperand c false f.op1 = some a → count8 f.op2 = some n → rangeOk c f.op0 false false n = true →
      exec (.mrda f) s = goesOn c f ((enqueue c s.begun.fresh.2 s.uids .mrda [] a n (some s.uids)).mapWave c.ref.blk c.ref.wave fun w =>
        startLong c w f s.uids f.op0 false (c.parts f) false (List.replicate n (List.replicate 32 0)) 0 none)) ∧
    (∀ d, Stands 0x2C5 f s c → f.op0 = .s d →
      exec (.mrdaOvf f) s = goesOn c f ((enqueue c s.begun.fresh.2 s.uids .ovf [] 0 0 (some s.uids)).mapWave c.ref.blk c.ref.wave fun w =>
        startLong c w f s.uids f.op0 true c.e.mask false [List.replicate 32 0] 0 none)) ∧
    (∀ t, Stands 0x2C6 f s c → c.b.tenant = some t → (t.queue.any fun q => q.wave == c.ref.wave) = false →
      exec (.msync f) s = goesOn c f s.begun)

/-- R192, R194, R200, R203. ENQ and DEQ complete: ENQ hands 16 scalars to the command queue as an MRUN header, or puts the rest of its n
elements in e1 where they fit, lanes that do not participate as zeros; DEQ takes the rest of its n elements from e2 where they exist.
Where only some fit or exist, those move, and the entry waits to move the rest. -/
def Obligations.MatrixQueueInstructionsComplete : Prop :=
  ∀ (f : Fields) (s : State) (c : Ctx),
    (∀ n : Fin 128, Stands 0x2C7 f s c → TenantReady s.begun c → f.op0 = .e 0 → f.op1 = .s n → f.op2 = .int 16 → n.val ≤ 112 →
      exec (.enqE0 f) s = goesOn c f (enqueue c s.begun.fresh.2 s.uids .mrun
        (wordsBytes ((List.range 16).map fun i => c.readS true (n + i))) 0 0 none)) ∧
    (∀ (n : Nat) (t : Tenant) (l : List (List W32)), Stands 0x2C7 f s c → c.b.tenant = some t → f.op0 = .e 1 → count8 f.op2 = some n →
      enqElements s.begun c f.op1 n (c.parts f) = .ok l → c.e.done < n → c.w.e1.length < 16 →
      let k := min (n - c.e.done) (16 - c.w.e1.length)
      let u := s.begun.withWave c { c.w with e1 := c.w.e1 ++ ((l.drop c.e.done).take k).map (zeroOutside (c.parts f)) }
      exec (.enqE1 f) s = if c.e.done + k = n then goesOn c f u
        else stopsWith c f s (.hold .blocked (u.mapEntry c.ref fun e => { e with done := e.done + k }))) ∧
    (∀ (n : Nat) (t : Tenant), Stands 0x2C8 f s c → c.b.tenant = some t → f.op1 = .e 2 → count8 f.op2 = some n →
      rangeOk c f.op0 false false n = true → c.e.done < n → c.w.e2 ≠ [] →
      let k := min (n - c.e.done) c.w.e2.length
      let u := result s.begun c { c.w with e2 := c.w.e2.drop k } f (shifted f.op0 c.e.done) false true (c.parts f) 0 (c.w.e2.take k) 0
      exec (.deq f) s = if c.e.done + k = n then goesOn c f u
        else stopsWith c f s (.hold .blocked (u.mapEntry c.ref fun e => { e with done := e.done + k })))

/-- R205. MTEN completes for system code in trap mode: quiesce and resume stop and restart the tenant that the scalar names, reset clears
it but for its counters and whether it is quiesced and settles the flags of its block's waves, and ctr reads one of its counters, or 0 where there is no such tenant. -/
def Obligations.TenantControlCompletes : Prop :=
  ∀ (f : Fields) (s : State) (c : Ctx) (n : Fin 128) (op : Fin 64), Stands 0x2C0 f s c → c.b.oid = 0 → c.w.trap.isSome = true →
    f.op1 = .s n → f.op2 = .int op → op.val < 4 →
    let a := c.readS true n
    exec (.mtenQuiesce f) s = goesOn c f (onTenant s.begun c a fun t => { t with quiesced := true }) ∧
    exec (.mtenResume f) s = goesOn c f (onTenant s.begun c a fun t => { t with quiesced := false }) ∧
    (tenantAt s.begun c (a.getLsbD 0) = none → exec (.mtenReset f) s = goesOn c f s.begun) ∧
    (∀ b, tenantAt s.begun c (a.getLsbD 0) = some b → exec (.mtenReset f) s = goesOn c f
      (b.waves.foldl (fun t w => settleAt t { blk := b.uid, wave := w.wave }) (s.begun.mapBlock b.uid clearTenant))) ∧
    (rangeOk c f.op0 true false 1 = true → ∀ x : W32,
      (∀ b t, tenantAt s.begun c (a.getLsbD 0) = some b → b.tenant = some t → x = (t.ctr[bitsOf a.toNat 1 4]?).getD 0) →
      (tenantAt s.begun c (a.getLsbD 0) = none → x = 0) →
      (∀ b, tenantAt s.begun c (a.getLsbD 0) = some b → b.tenant.isSome = true) →
      exec (.mtenCtr f) s = goesOn c f (result s.begun c c.w f f.op0 true false c.e.mask 1 [List.replicate 32 x] 0))

/-- R205. MTEN outside trap mode, or by another owner than system code, is a privileged-instruction fault. -/
def Obligations.TenantControlIsPrivileged : Prop :=
  ∀ (f : Fields) (s : State) (c : Ctx), Stands 0x2C0 f s c → c.b.oid ≠ 0 ∨ c.w.trap = none →
    ∀ i ∈ [Instr.mtenQuiesce f, .mtenResume f, .mtenReset f, .mtenCtr f], exec i s = stopsWith c f s (.fault 3 0 0 c.e.mask)

/-- R220, R221, R256 to R261. CPY, LAUNCH, GRUN, BLAZE, BLZQ and BLZDROP complete: a copy record enters the engine; LAUNCH, after a release
at .dev, submits its record to its die's pool where there is room; GRUN hands over a graph run; BLAZE sends a publication to its home;
BLZQ reads an owner's entry; BLZDROP drops it. Where a store of the core waits for a command, the first five wait too, and LAUNCH waits
while its record's bytes are held. That BLZQ and BLZDROP act at issue is log entry 24 (DEDUCED). -/
def Obligations.LaunchInstructionsComplete : Prop :=
  ∀ (f : Fields) (s : State) (c : Ctx),
   (pathStuck s.begun c.b.die c.b.core = false →
    (∀ (off : Nat) (l : List Byte) (t : State), Stands 0x301 f s c → c.w.e3 = [] → f.op2 = .none →
      offsetOperand c f.op1 64 true = some off → capture s.begun c off 64 64 = .ok (l, t) →
      exec (.cpy f) s = goesOn c f (enterCopy t c l)) ∧
    (∀ n : Fin 128, Stands 0x301 f s c → c.w.e3 = [] → f.op2 = .int 16 → f.op1 = .s n → n.val ≤ 112 →
      exec (.cpyS f) s = goesOn c f (enterCopy s.begun c (wordsBytes ((List.range 16).map fun i => c.readS true (n + i))))) ∧
    (∀ (a cw : Nat) (v : W32) (t : State) (ok : Bool), Stands 0x302 f s c → addressOperand c f.op1 = some a →
      completionOperands c f = some (cw, v) → a % 16 = 0 → poolRoom (releaseAt s.begun c.b 5) c.b.die = true →
      recordHeld (releaseAt s.begun c.b 5) (launchOf (releaseAt s.begun c.b 5) c a cw v) = false →
      submit (releaseAt s.begun c.b 5) (launchOf (releaseAt s.begun c.b 5) c a cw v) none = .ok (t, ok) →
      exec (.launch f) s = goesOn c f (counted t c f)) ∧
    (∀ (a cw : Nat) (v : W32), Stands 0x303 f s c → addressOperand c f.op1 = some a → completionOperands c f = some (cw, v) → a % 16 = 0 →
      ((releaseAt s.begun c.b 5).runReqs.filter fun r => r.die == c.b.die).length < 16 →
      let t := releaseAt s.begun c.b 5
      exec (.grun f) s = goesOn c f (counted { t with runReqs := t.runReqs ++ [runOf c a cw v] } c f)) ∧
    (∀ (sc key n : Nat) (own : Bool), Stands 0x304 f s c → scopeOperand f.op3 = some sc → keyOperand s.begun c f.op1 = .ok (key, own) →
      countOperand c f.op2 (if isTemplateKey f.op1 then some (tCnt (lOutt (recordOf s.begun c.b))) else none) = some n →
      let t := (releaseAt s.begun c.b sc).fresh.2
      let id := (releaseAt s.begun c.b sc).uids
      exec (.blaze f) s = goesOn c f (countOnFlag { t with pubs := t.pubs ++ [publicationOf c id key n] } c f id false))) ∧
    (∀ (key : Nat) (own : Bool), keyOperand s.begun c f.op1 = .ok (key, own) →
      (∀ d, Stands 0x305 f s c → f.op0 = .s d → exec (.blzq f) s = goesOn c f
        (result s.begun c c.w f f.op0 true true c.e.mask 0 [List.replicate 32 (blazeWord s.begun c.b.oid key)] 0)) ∧
      (Stands 0x306 f s c → exec (.blzdrop f) s = goesOn c f (counted
        { s.begun with blazes := s.begun.blazes.filter fun b => !isBlaze c.b.oid key b } c f)))

/-- R337 to R339. PXST and PXLD complete: PXST stores the pixels of the lanes whose pixel the owner's layer and the map let it write, and
records the rest as one map violation; PXLD reads the pixels of the layer's back surface, or zeros outside it. The map check at issue, on
the layer table of the frame in progress, is log entry 56 (DEDUCED), and PXLD's read at issue log entry 16 (DESIGN CHOICE). -/
def Obligations.PixelInstructionsComplete : Prop :=
  (∀ (f : Fields) (s : State) (c : Ctx) (xy : List Nat) (w : Wave) (n d : Nat) (rec : Option Nat) (sp : List (Nat × Spot)),
    Stands 0x340 f s c → coordOperand s.begun c f.op1 (c.parts f) = .ok (xy, w) → pixelRange c f.ty f.op2 = some n →
    dispOperand f.op3 = some d → c.layerRecord s.begun d = .ok rec → widthBad f.ty rec = false →
    let fmt := (rec.map yFmt).getD 0
    let tgt (l : Nat) : Option Nat := pxstTarget s.begun c.b.oid d rec ((xy[l]?).getD 0)
    checkAccesses s.begun c false (pixelAccesses (c.parts f) tgt { rd := f.op4 == .int 1, wr := true }) (pixelSize fmt) false = .ok sp →
    let t := pixelsStored (s.begun.withWave c w) c f d fmt n xy tgt sp
    let lost := (lanesOf (c.parts f)).filter fun l => (tgt l).isNone
    exec (.pxst f) s = goesOn c f (match lost with
      | [] => t
      | l :: _ => noteFault t c 7 (lost.length + 2 ^ 8 * d) ((xy[l]?).getD 0) (maskOf fun i => lost.contains i))) ∧
  (∀ (f : Fields) (s : State) (c : Ctx) (xy : List Nat) (w : Wave) (n d : Nat) (rec : Option Nat) (sp : List (Nat × Spot)),
    Stands 0x341 f s c → coordOperand s.begun c f.op1 (c.parts f) = .ok (xy, w) → pixelRange c f.ty f.op0 = some n →
    dispOperand f.op2 = some d → c.layerRecord s.begun d = .ok rec → widthBad f.ty rec = false →
    let fmt := (rec.map yFmt).getD 0
    let tgt (l : Nat) : Option Nat := pxldTarget rec ((xy[l]?).getD 0)
    checkAccesses s.begun c false (pixelAccesses (c.parts f) tgt { rd := true, wr := false }) (pixelSize fmt) false = .ok sp →
    let t := sp.foldl (fun s p => noteRead s c.b f.hint.toNat ((tgt p.1).getD 0) p.2) (s.begun.withWave c w)
    exec (.pxld f) s = goesOn c f (inFlight (result t c (c.now t) f f.op0 false true (c.parts f) 0 (pixelWords s.begun c f fmt sp) 0) c
      (lanes32.map fun l => (tgt l).getD 0) sp))

/-- R351 to R355. TEX, TEXF and RAST complete: TEX and TEXF deliver the weighted sum of each lane's four texels, lanes without the
grant that a gated texel asks for taken out and recorded as one sharing violation; RAST hands its triangles to the raster engine, which owns
the tile from then on, and does nothing where no lane participates. That a lane without consent makes no access is log entry 30 (DEDUCED),
and that texels are read at issue log entry 16 (DESIGN CHOICE). -/
def Obligations.SamplingAndRasterComplete : Prop :=
  (∀ (f : Fields) (s : State) (c : Ctx) (i : Instr) (opc : Nat) (w : Wave) (t cv : Nat) (lam : Nat → Nat) (sp : List (Nat × Spot)),
    (i = .tex f ∧ opc = 0x342 ∧ ((∃ n, f.op3 = .v n) ∨ (∃ n, f.op3 = .q n) ∨ (∃ n, f.op3 = .flt n) ∨ f.op3 = .zero ∨ ((∃ n, f.op3 = .s n) ∧ f.op3 = f.op2)) ∧
        (∃ l, readRaw s.begun c c.w f.op3 .f32 false (c.parts f) = .ok (l, w) ∧ lam = fun k => (l[k]?).getD 0) ∨
     i = .texf f ∧ opc = 0x343 ∧ w = c.w ∧
        ∃ g : Fin 640, f.op3 = .v g ∧ g.val + 4 ≤ 8 * c.w.claim ∧ lam = fun k => texfLevel t (lanePx c g k)) →
    Stands opc f s c → texRegs c f = some cv → descriptor c f.op2 = some t → descriptorBad t = false →
    let act := c.parts f
    let tx := laneTexels c t cv lam
    let acc := texelAccesses s.begun c t act tx
    checkAccesses s.begun c false acc (xSize t) false = .ok sp →
    let u := (sp.zip acc).foldl (fun s p => noteRead s c.b f.hint.toNat p.2.2.1 p.1.2) (s.begun.withWave c w)
    let first (l : Nat) : Nat := match acc.find? fun a => a.1 == l with
      | some a => a.2.1
      | none => 0
    let v := inFlight (result u c (c.now u) f f.op0 false true act 0 (sampledWords s.begun c t act tx sp) 0) c (lanes32.map first) sp
    exec i s = goesOn c f (match lostLanes s.begun c t act tx with
      | [] => v
      | l :: m => noteFault v c 8 (xGidx t) ((gatedTexels s.begun c tx l).headD 0) (maskOf fun i => (l :: m).contains i))) ∧
  (∀ (f : Fields) (s : State) (c : Ctx) (a : Fin 640) (n : Fin 128) (vis : List Nat) (w : Wave), Stands 0x344 f s c →
    f.op1 = .v a → ((∃ m, f.op2 = .v m) ∨ ∃ m, f.op2 = .q m) → f.op3 = .s n → n.val % 2 = 0 → a.val + 9 ≤ 8 * c.w.claim →
    readRaw s.begun c c.w f.op2 .b32 false (c.parts f) = .ok (vis, w) →
    (c.parts f = 0 → exec (.rast f) s = goesOn c f (s.begun.withWave c w)) ∧
    (c.parts f ≠ 0 → (c.readS false n).toNat % 128 = 0 → (c.readS false n).toNat + 8192 ≤ c.b.z → ∀ t : State,
      fillRanges s.begun c.b c.ref.wave true [((c.readS false n).toNat, 8192)] = .ok t →
      pathStuck s.begun c.b.die c.b.core = false → tileFlips s.begun c.b c.ref.wave (c.readS false n).toNat = false →
      let u := drainCore t c.b.die c.b.core
      exec (.rast f) s = goesOn c f (takeLines (u.fresh.2.withWave c
        (startLong c w f u.uids .none true (c.parts f) true [] 0 (some (rastOf c a n vis (c.parts f))))) c.b u.uids)))

/-- R276, R277, R280. TRAP and BRKP complete by entering the handler, where the owner has trap frames, a free one takes the frame's bytes,
no access to it is held, and the wave is not in trap mode; BRKP needs the debug permission too. MODE stays. Without a participating lane TRAP only goes on at the
next header and BRKP at the next position. -/
def Obligations.TrapEntryCompletes : Prop :=
  ∀ (f : Fields) (s : State) (c : Ctx) (k : Nat), intUpTo f.op1 63 = some k →
    (c.parts f = 0 → (Stands 0x380 f s c → exec (.trap f) s = goesTo c (s.begun.mapWave c.ref.blk c.ref.wave fun w =>
        replaceEntry w c.ref.lane [fallEntry s.begun c f (c.e.mask &&& ~~~c.parts f)])) ∧
      (Stands 0x383 f s c → exec (.brkp f) s = goesOn c f s.begun)) ∧
    (c.parts f ≠ 0 → c.w.trap = none → s.begun.ctxTslog c.b.oid ≠ 0 → ∀ (i : Nat) (t : State), freeFrame? s.begun c.b.oid = some i →
      frameHeld s.begun c.b.oid i true = false →
      (Stands 0x380 f s c →
        pinWrite s.begun c.b.oid (s.begun.tstack c.b.oid + 64 * i) (frameBytes c 0 k (c.parts f) (16 * c.e.nextHdr.toNat)) = some t →
        exec (.trap f) s = goesTo c (trapTaken t c i k (c.parts f) [fallEntry s.begun c f (c.e.mask &&& ~~~c.parts f)] (nextClk c f))) ∧
      (Stands 0x383 f s c → s.begun.ctxDbg c.b.oid = true →
        let ret := if c.e.idx + 1 ≤ hdrCnt c.hdr then c.caddr + (c.e.idx + 1) else 16 * c.e.nextHdr.toNat
        pinWrite s.begun c.b.oid (s.begun.tstack c.b.oid + 64 * i) (frameBytes c 1 k (c.parts f) ret) = some t →
        exec (.brkp f) s = goesTo c (trapTaken t c i k (c.parts f) [stayEntry c f (c.e.mask &&& ~~~c.parts f)] (nextClk c f))))

/-- R277, R280. A TRAP of an owner without trap frames, and a BRKP without the debug permission, are privileged-instruction faults; in
trap mode both are illegal-instruction faults. That a BRKP of an owner without trap frames (TSLOG 0) is one as well is log entry 31
(DEDUCED). -/
def Obligations.TrapsRefusedFault : Prop :=
  ∀ (f : Fields) (s : State) (c : Ctx) (k : Nat), intUpTo f.op1 63 = some k → c.parts f ≠ 0 →
    (c.w.trap.isSome = true → (Stands 0x380 f s c → exec (.trap f) s = stopsWith c f s (.fault 1 0 0 c.e.mask)) ∧
      (Stands 0x383 f s c → exec (.brkp f) s = stopsWith c f s (.fault 1 0 0 c.e.mask))) ∧
    (c.w.trap = none → (Stands 0x380 f s c → s.begun.ctxTslog c.b.oid = 0 → exec (.trap f) s = stopsWith c f s (.fault 3 0 0 c.e.mask)) ∧
      (Stands 0x383 f s c → s.begun.ctxDbg c.b.oid = false ∨ s.begun.ctxTslog c.b.oid = 0 → exec (.brkp f) s = stopsWith c f s (.fault 3 0 0 c.e.mask)))

/-- R278, R279. RTT completes in trap mode for lanes of the trap set, after the core's own stores to the frame, none of which waits for a
command, while no access to the frame is held: the lanes stand at the frame's position and leave the trap set, whose rest the frame
records; when none is left, s120 to s127 and MODE come back from the frame and the frame is free. That the core's own stores to the frame
are performed first is log entry 57 (DEDUCED). -/
def Obligations.TrapReturnCompletes : Prop :=
  ∀ (f : Fields) (s : State) (c : Ctx) (t : TrapSt), Stands 0x382 f s c → c.w.trap = some t → c.parts f &&& ~~~t.lanes = 0 →
    (c.parts f = 0 → exec (.rtt f) s = goesTo c (s.begun.mapWave c.ref.blk c.ref.wave fun w =>
      replaceEntry w c.ref.lane [fallEntry s.begun c f (c.e.mask &&& ~~~c.parts f)])) ∧
    (c.parts f ≠ 0 → s.path = [] ∨ stuckStores s.begun (frameStore s.begun c.b t.frame) s.path = [] →
      frameHeld s.begun c.b.oid t.frame true = false → ∀ (l : List Byte) (u v : State),
      let s0 := if s.path.isEmpty then s.begun else drainPath s.begun (frameStore s.begun c.b t.frame)
      let fa := s.begun.tstack c.b.oid + 64 * t.frame
      let left := t.lanes &&& ~~~c.parts f
      frameRead s0 c.b t.frame = some l → (left = 0 → natLE ((l.drop 0x38).take 4) % 8 < 5) →
      pinWrite s0 c.b.oid (fa + 0x3C) (bytesLE 4 left.toNat) = some u →
      leaveTrap (u.mapWave c.ref.blk c.ref.wave fun w => replaceEntry w c.ref.lane
        [returnEntry u c f (c.parts f) (natLE ((l.drop 0x20).take 8)), fallEntry s.begun c f (c.e.mask &&& ~~~c.parts f)])
        { blk := c.ref.blk, wave := c.ref.wave } c.b.oid (c.parts f) = .ok v →
      exec (.rtt f) s = goesTo c v)

/-- R281, R282. SVC completes where the ring has a free slot and its structures can be written: each participating lane's argument block
and the header are written, PUT rises after a release at .sys, vector 1 of the owner's glade is notified, and the lanes park until the
reply is delivered. Without a participating lane it does nothing. -/
def Obligations.ServiceCallCompletes : Prop :=
  ∀ (f : Fields) (s : State) (c : Ctx) (func k r : Nat) (a : Fin 640), Stands 0x381 f s c → serviceOperand c f.op1 = some func →
    f.op2 = .v a → intUpTo f.op3 16 = some k → intUpTo f.op4 4 = some r → k ≠ 0 →
    (c.parts f = 0 → exec (.svc f) s = goesOn c f s.begun) ∧
    (c.parts f ≠ 0 → a.val + k ≤ 8 * c.w.claim → s.begun.ctxSrlog c.b.oid ≠ 0 → c.w.svc = [] → pathStuck s.begun c.b.die c.b.core = false →
      pinsHeld s.begun c.b.oid [(s.begun.sring c.b.oid, 4), (s.begun.sring c.b.oid + 128, 4)] false = false →
      ∀ (pb gb : List Byte) (t u : State), pinRead s.begun c.b.oid (s.begun.sring c.b.oid) 4 = some pb → pinRead s.begun c.b.oid (s.begun.sring c.b.oid + 128) 4 = some gb →
      let put := natLE pb
      let size := 2 ^ s.begun.ctxSrlog c.b.oid
      let slot := put % size
      (put + 2 ^ 32 - natLE gb) % 2 ^ 32 ≠ size → (s.begun.svcs.any fun x => x.oid == c.b.oid && x.slot == slot) = false →
      pinWrites c.b.oid (((lanesOf (c.parts f)).map fun l => (svcArgs s.begun c.b.oid slot + 64 * l, argBlock c a k l)) ++
        [(svcHeader s.begun c.b.oid slot, svcHeaderBytes s.begun c func r put (c.parts f))]) s.begun = some t →
      pinWrite (releaseAt t c.b 7) c.b.oid (s.begun.sring c.b.oid) (bytesLE 4 (put + 1)) = some u →
      let q : SvcReq := { oid := c.b.oid, slot := slot, launch := c.b.launch, blk := c.ref.blk, wave := c.ref.wave, lmask := c.parts f, nret := r, landed := false, given := 0 }
      let v := holdHeader (notify u (s.begun.ctxGlade c.b.oid + 1) 1) q
      exec (.svc f) s = goesTo c ({ v with svcs := v.svcs ++ [q] }.mapWave c.ref.blk c.ref.wave fun w =>
        { splitEntry c f (c.parts f) { stayEntry c f (c.parts f) with park := 15, opn := false } w with svc := [slot] }))

/-- R10, R12, R25, R30, R115, R171, R232, R284. The events of a wave complete where they are due: entries open in order, long-latency
results land and leave their flag, results reach e6, a wave without lanes and work ends, a parked WAITA goes on when its lanes are
satisfied or its time is up, and a promoted remote acquire proceeds. -/
def Obligations.WaveEventsComplete : Prop :=
  ∀ (s : State) (r : WRef) (b : Block) (v : Wave), s.wave? r = some (b, v) →
    (b.halt ≠ .halted → v.ended = false → (v.frontier.any fun e => e.opn) = false →
      (v.frontier.any fun e => v.mayOpen e && !fetchHeld s b e) = true →
      let ready := v.frontier.filter fun e => v.mayOpen e && !fetchHeld s b e
      exec (.roundOpen r) s = .next (settleAt (openRound r.blk r.wave (sortEntries (ready.map (Entry.ranked s b))) none
        (s.mapWave r.blk r.wave fun v => { v with frontier := v.frontier.map (Entry.ranked s b) })) r)) ∧
    (∀ (id : Nat) (o : LongOp), (v.ops.find? fun o => o.id == id) = some o → o.ready = true → o.due ≤ s.clkOf b.die →
      let loaded (t : State) : State := if o.access then checkBarrier t r.blk else t
      (o.rast = none → exec (.longLatencyComplete r id) s = .next (loaded (settleAt
        { s.mapWave r.blk r.wave fun v => landOp s.free v o with free := s.free + 1 } r))) ∧
      (∀ x, o.rast = some x → commandWaits s id = false → earlierRast s b id = false →
        exec (.longLatencyComplete r id) s = .next (loaded (settleAt
          { (applyRast r.blk r.wave s x).mapWave r.blk r.wave fun v => landOp s.free v o with free := s.free + 1 } r)))) ∧
    (∀ (x : Flight) (l : List Flight), v.flights = x :: l → x.due ≤ s.clkOf b.die →
      exec (.e6Push r) s = .next (settleAt (s.mapWave r.blk r.wave fun v => ({ v with
        flights := l, e6 := v.e6 ++ [(x.value, x.seq)], ops := v.ops.filter fun o => o.id != x.op }).sticky x.sticky.toNat) r)) ∧
    (v.ended = false → v.live = 0 → waveWorkDone s b v = true →
      ((b.waves.all fun x => x.ended || x.wave == r.wave) = true → b.queueEmpty = true → pathStuck s b.die b.core = false →
        (s.copies.all fun c => c.blk != r.blk) = true → exec (.waveEnd r) s = .next (endBlock s r.blk false)) ∧
      ((b.waves.all fun x => x.ended || x.wave == r.wave) = false → exec (.waveEnd r) s = .next (retest (checkClaims (checkBarrier
        (s.mapWave r.blk r.wave fun v => { v with ended := true, claim := 0, v := [] }) r.blk) r.blk) b.die b.core))) ∧
    (∀ (lane : Nat) (x : Entry) (t : Watch), v.entry? lane = some x → x.watchOf lane = some t → x.park = 13 →
      let e : ERef := { blk := r.blk, wave := r.wave, lane := lane }
      let sat := satisfied s (b.seenBy r.wave) t
      ((t.lanes.all fun p => sat.getLsbD p.1) = true → watchHeld s b r.wave t = false →
        exec (.waitaReevaluate e) s = .next (releaseWaita s e b x t sat)) ∧
      (∀ d, t.deadline = some d → d ≤ s.clkOf b.die → exec (.waitaTimeout e) s = .next (releaseWaita s e b x t sat))) ∧
    (∀ (lane : Nat) (x : Entry) (l : List Racq) (f : Fields), v.entry? lane = some x → x.hold = .racq l →
      (∀ a ∈ l, ∀ y ∈ s.rels, y.line = a.line → a.promoted = some y.num ∨ s.block? y.blk = none) →
      let e : ERef := { blk := r.blk, wave := r.wave, lane := lane }
      let s1 : State := { s.mapEntry e (fun x => { x with hold := .none }) with cur := some e }
      ctxOf s1 ≠ none →
      (x.word.map decode = some (.ok (.atomr f)) → ∃ t, exec (.racqProceed e) s = .next t ∧ issue 0x241 f s1 (atomRmw 0x241 true true f) = .next t) ∧
      (x.word.map decode = some (.ok (.fence f)) → ∃ t, exec (.racqProceed e) s = .next t ∧ issue 0x245 f s1 (fenceGo true f) = .next t)) ∧
    (∀ q, (s.svcs.find? fun x => x.landed && x.blk == r.blk && x.wave == r.wave && b.halt != .halted) = some q →
      (v.e7.length < 8 ∨ q.nret ≤ q.given) → pinsHeld s q.oid [(svcArgs s q.oid q.slot, 2048)] false = false → ∀ l, pinRead s q.oid (svcArgs s q.oid q.slot) 2048 = some l →
      let n := min (q.nret - q.given) (8 - v.e7.length)
      let s1 := s.mapWave r.blk r.wave fun v => { v with e7 := v.e7 ++ (List.range n).map fun i => replyElement l q (q.given + i) }
      (q.given + n < q.nret → exec (.svcReplyDeliver r) s = .next
        { s1 with svcs := updWhere (isSvc q) (fun x => { x with given := x.given + n }) s1.svcs }) ∧
      (q.nret ≤ q.given + n →
        let wake (e : Entry) : Entry := if e.park = 15 then { e with park := 0, notBefore := max e.notBefore (s.clkOf b.die + 1) } else e
        exec (.svcReplyDeliver r) s = .next (settleAt { s1.mapWave r.blk r.wave fun v =>
          { v with svc := [], frontier := v.frontier.map wake } with svcs := s1.svcs.filter fun x => !isSvc q x } r)))

/-- R132, R136, R142, R181, R218, R232, R297. Grants and barrier completions take place: the first decidable request of a core is
granted, found to break the protocol, or left until a unit is next returned; a slot change takes effect once the tenant's queue is empty;
a gang's barrier releases every member; a block asked to halt halts, its requests abandoned; and a block that a remote acquire asks to
promote its record performs a release at .dev. -/
def Obligations.GrantEventsComplete : Prop :=
  (∀ (s : State) (die core : Nat) (r : Request) (c : Ctx),
    (s.requests.find? fun r => r.die == die && r.core == core && r.test s) = some r →
    let ref : ERef := { blk := r.blk, wave := r.wave, lane := r.lane }
    let s1 : State := { s with requests := s.requests.erase r }
    ctxAt s ref = some c →
    (r.verdict s = .granted → r.kind = 3 → exec (.pendingGrant die core) s =
      .next (completeEntry (takeSpare s1 r.blk r.wave c.w.half r.count) ref)) ∧
    (r.verdict s = .granted → r.kind ≠ 3 → slotsPending (giveUnits s1 r.blk r.wave r.kind r.count) r.blk r.kind = false →
      exec (.pendingGrant die core) s = .next (completeEntry (giveUnits s1 r.blk r.wave r.kind r.count) ref)) ∧
    (r.verdict s = .busy ∨ r.verdict s = .risky → exec (.pendingGrant die core) s =
      .next { s with requests := updWhere (fun x => x == r) (fun x => { x with due := false }) s.requests }) ∧
    (r.verdict s = .protocol → exec (.pendingGrant die core) s = .next (takeFault s1 c 11 0 0 c.e.mask))) ∧
  (∀ (s : State) (blk : Nat) (b : Block), s.block? blk = some b →
    (b.queueEmpty = true → let held : List ERef := b.waves.flatMap fun w => w.frontier.filterMap fun e =>
        if e.hold = .slots then (lanesOf e.mask).head?.map fun l => { blk := blk, wave := w.wave, lane := l } else none
      (b.slotsNow ≠ b.mslots → exec (.slotChangeEffect blk) s = .next (held.foldl completeEntry (s.mapBlock blk effectSlots))) ∧
      (b.slotsNow = b.mslots → held ≠ [] → exec (.slotChangeEffect blk) s = .next (held.foldl completeEntry s))) ∧
    (b.halt = .asked → exec (.preemptHalt blk) s = .next ((abandonRequests s blk).mapBlock blk fun b => { b with halt := .halted })) ∧
    (∀ (w : Wave) (x : Block) (e : Entry) (l : List Racq) (r : Racq) (y : RelRecord), x ∈ s.blocks → w ∈ x.waves → e ∈ w.frontier →
      e.hold = .racq l → r ∈ l → r.promoted = none → y ∈ s.rels → y.line = r.line → y.blk = blk →
      let u := releaseAt s b 5
      ∃ t, exec (.promote blk) s = .next t ∧ { t with blocks := u.blocks } = u ∧
        ∀ z ∈ u.blocks, ∀ v ∈ z.waves, ∃ z1 ∈ t.blocks, z1.uid = z.uid ∧ ∃ v1 ∈ z1.waves, v1.wave = v.wave ∧
          { v1 with frontier := v.frontier } = v)) ∧
  (∀ (s : State) (gang : Nat) (g : Gang), s.gang? gang = some g → g.kind = some .gbar → gangDone s g = true →
    (g.arrived.all fun m => g.ended.contains m || (s.block? m).isSome) = true →
    let t := g.arrived.foldl releaseHeld s
    exec (.gbarComplete gang) s = .next
      { t with gangs := updWhere (fun x => x.uid == gang) (fun x => { x with kind := none, addr := 0, arrived := [] }) t.gangs })

/-- R144 to R147, R216, R217, R283 to R286, R297 to R301. What ends a block's stay on its core completes. A PHASE ends when every wave of
the block stands at it and its work is done, in a gang when that holds of every member: each member's record is written and it leaves its
core, the gang's barrier is free again, and the next phases of all members enter the pool. A REGROUP permutes the contexts of waves with
one claim by their keys once every register write has landed; waves with different claims are the block's fault. A block whose lanes are
all parked, one of them on a service, parks, and is ready again where its reply has landed. A halted block with a free save slot is saved.
A structure that cannot be written is the block's double fault. What a slot and the pool keep of a block (slotParts, keptOf) is log entry
10, word 0x3C of a trap frame at a service call's park (trapParts) log entry 31, the position at the end of a clause that a save records
(savedWave) log entry 32, and the trimming of trap sets at REGROUP log entry 33, all DEDUCED. -/
def Obligations.BlockEventsComplete : Prop :=
  (∀ (s : State) (blk : Nat), blk ∈ phaseMates s blk →
    (∀ m ∈ phaseMates s blk, ∃ b br, s.block? m = some b ∧ b.barrier = some br ∧ br.kind = .phase ∧ br.full = true ∧ b.halt ≠ .halted ∧
      workDone s b = true ∧ pathStuck s b.die b.core = false ∧ s.phase? m ≠ none ∧ s.launch? b.launch ≠ none) →
    exec (.phaseEnd blk) s = .next ((phaseMates s blk).foldl enterPool (gangOpen ((phaseMates s blk).foldl leavePhase s) blk))) ∧
  (∀ (s : State) (blk : Nat) (b : Block) (p : Phase) (l : Launch) (br : Barrier), s.block? blk = some b → s.phase? blk = some p →
    s.launch? b.launch = some l → b.barrier = some br →
    let ws := b.liveWaves.map (afterPhase s b)
    let p1 : Phase := { p with
      reason := 0, ntile := br.tmpl, phno := p.phno + 1, wlive := liveBits ws, fresh := false, kept := Kept.empty }
    let parts := savedParts s l p1 ws .running 0
    (∀ t, pinWrites b.oid parts (releaseAt s b 5) = some t →
      leavePhase s blk = (leaveCore t blk false).mapPhase blk fun x => { p1 with st := x.st }) ∧
    (pinWrites b.oid parts (releaseAt s b 5) = none → leavePhase s blk = partsDouble s b parts)) ∧
  (∀ (s : State) (blk : Nat) (b : Block) (br : Barrier) (w0 : Wave) (ws : List Wave), s.block? blk = some b → b.barrier = some br →
    br.kind = .regroup → br.full = true → b.halt ≠ .halted → b.liveWaves = w0 :: ws →
    (∀ w ∈ w0 :: ws, (∀ o ∈ w.ops, o.writes = [] ∧ o.qtags = []) ∧ ∀ x ∈ w.recent, x.ready ≤ s.clkOf b.die) →
    ((w0 :: ws).any fun w => leaveHeld s w b.oid 0xFFFFFFFF) = false →
    ((∃ w ∈ w0 :: ws, w.claim ≠ w0.claim) → exec (.regroupPermute blk) s = .next (barrierFault s b)) ∧
    ((∀ w ∈ w0 :: ws, w.claim = w0.claim) →
      let seq := sortContexts ((w0 :: ws).flatMap fun w => (lanesOf w.live).map fun l =>
        { wave := w.wave, lane := l, key := regroupKey w br.key l })
      let put (w : Wave) : Wave := match (w0 :: ws).findIdx? fun x => x.wave == w.wave with
        | none => w
        | some j => regrouped b w fun i => seq[32 * j + i]?
      let t := s.mapBlock blk fun b => { b with waves := b.waves.map put }
      exec (.regroupPermute blk) s = .next (releaseHeld (((w0 :: ws).filter fun w => w.trap.isSome).foldl (trimTrap blk) t) blk))) ∧
  (∀ (s : State) (blk : Nat) (b : Block) (p : Phase) (l : Launch), s.block? blk = some b → s.phase? blk = some p →
    s.launch? b.launch = some l → ((b.waves.flatMap fun w => w.frontier).all fun e => e.park != 0 || e.hold == .barrier) = true →
    ((b.waves.flatMap fun w => w.frontier).any fun e => e.park == 15) = true → b.halt ≠ .halted → workDone s b = true →
    pathStuck s b.die b.core = false → (b.waves.all fun w => w.queuesEmpty) = true → pushing s blk = false →
    let ws := b.liveWaves.map (savedWave s b)
    let p1 : Phase := { p with
      reason := 2, wlive := liveBits ws, fresh := false,
      kept := { Kept.empty with frames := (framesOf b).map fun t => t.2.frame, barrier := b.barrier } }
    let parts := trapParts s b ++ savedParts s l p1 ws .running (xsaveOf b 0)
    (∀ t, pinWrites b.oid parts (releaseAt s b 5) = some t →
      let v := setPhase ((leaveCore t blk false).mapPhase blk fun x => { p1 with st := x.st }) blk .parked
      exec (.blockPark blk) s = .next (if replyLanded v blk then readyPhase v blk else v)) ∧
    (pinWrites b.oid parts (releaseAt s b 5) = none → exec (.blockPark blk) s = .next (partsDouble s b parts))) ∧
  (∀ (s : State) (blk : Nat) (b : Block) (p : Phase) (l : Launch) (i : Nat), s.block? blk = some b → s.phase? blk = some p →
    s.launch? b.launch = some l → freeSave? s b.oid = some i → readyToSave b = true → canSave s b.oid = true →
    pathStuck s b.die b.core = false →
    let a := s.svbase b.oid + 2 ^ 20 * i
    let ws := b.liveWaves.map (savedWave s b)
    let copies := (s.copies.filter fun c => c.blk == blk).map fun c => { c with pf := none }
    let p1 : Phase := { p with reason := 1, wlive := liveBits ws, fresh := false, kept := keptOf b ws copies i }
    let s0 := releaseAt s b 5
    let parts := ((slotParts s0 b ws copies).map fun q => (a + q.1, q.2)) ++ trapParts s b ++ savedParts s l p1 ws .ready (xsaveOf b a)
    (∀ t, pinWrites b.oid parts s0 = some t →
      let u := leaveCore t blk false
      exec (.preemptSave blk) s = .next (readyPhase ({ u with
        copies := t.copies.filter fun c => c.blk != blk, saveSlots := t.saveSlots ++ [(b.oid, i)],
        pfs := u.pfs.filter fun f => !(copies.map fun (c : Copy) => PfWho.copy c.id).contains f.who }.mapPhase blk
          fun x => { p1 with st := x.st }) blk)) ∧
    (pinWrites b.oid parts s0 = none → exec (.preemptSave blk) s = .next (partsDouble s b parts)))

/-- R187, R188, R190, R198, R201, R202, R208, R222 to R224, R260. The engines complete: the oldest command of a tenant that nothing holds is
executed if its checks pass and is its block's engine fault if one fails, an MRUN row by row as e1 and e2 allow; a copy moves its rows and
writes its completion word; its status word is pushed where there is room, or dropped where its wave has ended; a publication reaches its home.
Which wave a copy engine serves first (copyTurn) is log entry 54 (DESIGN CHOICE). -/
def Obligations.EngineEventsComplete : Prop :=
  (∀ (s s0 : State) (blk : Nat) (b : Block) (t : Tenant) (q : MCmd),
    (headCmd s blk .mwld = some (b, t, q) →
      (∀ d, mwldCheck (natLE q.data) (8 * t.slots) b.z = some d → exec (.mwldExecute blk) s = .next (engineFault s b q d)) ∧
      (mwldCheck (natLE q.data) (8 * t.slots) b.z = none → fillRanges s b q.wave false (wSources (natLE q.data) (8 * t.slots)) = .ok s0 →
        exec (.mwldExecute blk) s = .next (finishOp (s0.setTenant blk
          (t.setShadow (loadPlane s0 (b.seenBy q.wave) q.data (8 * t.slots) false)).pop) b q []))) ∧
    (headCmd s blk .mswap = some (b, t, q) → exec (.mswapExecute blk) s = .next (s.setTenant blk ({ t with active := !t.active }).pop)) ∧
    (headCmd s blk .minit = some (b, t, q) →
      (q.count ≠ 0 → 128 * t.slots < q.start + q.count → exec (.minitExecute blk) s = .next (engineFault s b q 7)) ∧
      (q.count = 0 ∨ q.start + q.count ≤ 128 * t.slots → exec (.minitExecute blk) s = .next (finishOp (s.setTenant blk
        ({ t with acc := biasRows t.acc (biasWords q.data) q.start q.count }).pop) b q []))) ∧
    (headCmd s blk .ovf = some (b, t, q) → exec (.mrdaExecute blk) s =
      .next (finishOp (s.setTenant blk ({ t with ovf := 0 }).pop) b q [List.replicate 32 t.ovf])) ∧
    (headCmd s blk .ovf = none → headCmd s blk .mrda = some (b, t, q) →
      (128 * t.slots < q.start + q.count → exec (.mrdaExecute blk) s = .next (engineFault s b q 7)) ∧
      (q.start + q.count ≤ 128 * t.slots → exec (.mrdaExecute blk) s = .next (finishOp (s.setTenant blk t.pop) b q
        ((List.range q.count).map fun i => lanes32.map fun l => t.accAt (q.start + i) l)))) ∧
    (headCmd s blk .mrun = some (b, t, q) →
      let p := natLE q.data
      (∀ d, mrunCheck p t b.z = some d → exec (.mrunExecute blk) s = .next (engineFault s b q d)) ∧
      (∀ (row : Nat) (s1 : State) (b1 : Block) (t1 : Tenant), mrunCheck p t b.z = none → mrunFills s b t q = .ok s0 →
        let q := if q.acts = [] then { q with acts := stashRows s0 b q.wave p (rK p (8 * t.slots) t.activePlane.sparse) q.row } else q
        mrunRows blk q p (rM p - q.row) q.row s0 = (row, s1) → row ≠ q.row → s1.block? blk = some b1 → b1.tenant = some t1 →
        (row < rM p → exec (.mrunExecute blk) s =
          .next (s1.setTenant blk { t1 with queue := { q with row := row } :: t1.queue.drop 1 })) ∧
        (rM p ≤ row →
          let s2 := s1.setTenant blk t1.pop
          exec (.mrunExecute blk) s = .next (finishOp
            (if rCwen p then writeStashFor blk q.wave s2 (rCwoff p) (bytesLE 4 (rCwval p)) else s2) b q []))))) ∧
  (∀ (s : State) (cid : Nat) (c : Copy), (s.copies.find? fun c => c.id == cid) = some c →
    (∀ b, s.block? c.blk = some b → c.payload = false → c.pf = none → b.halt ≠ .halted →
      (s.copies.any fun x => x.id < cid && x.blk == c.blk && x.wave == c.wave && !x.payload) = false → commandWaits s cid = false →
      copyTurn s b c = true →
      let r := c.record.toNat
      let s0 := copyTaken s b c
      (∀ d, copyCheck r b.z = some d → exec (.copyExecute cid) s = .next (copyFault s b c 12 d 0)) ∧
      (∀ s1 s2, copyCheck r b.z = none → moveRows c.blk c.wave cid r (copySaved s0 b c) (copyOverlap s0 (b.seenBy c.wave) r)
          (cRows r) c.row c.byte s0 = .done s1 →
        copyWord s1 b c = .ok s2 → exec (.copyExecute cid) s = .next
          (if cSten r then s2.mapCopy cid fun x => { x with payload := true, begun := true }
           else { s2 with copies := s2.copies.filter fun x => x.id != cid }))) ∧
    (s.wave? { blk := c.blk, wave := c.wave } = none → s.block? c.blk ≠ none → c.payload = true →
      exec (.copyStatusPush cid) s = .next { s with copies := s.copies.filter fun x => x.id != cid }) ∧
    (∀ b w, s.wave? { blk := c.blk, wave := c.wave } = some (b, w) → c.payload = true → w.e4.length < 8 →
      (s.copies.any fun x => x.id < cid && x.blk == c.blk && x.wave == c.wave) = false →
      let t := s.mapWave c.blk c.wave fun w => { w with e4 := w.e4 ++ [BitVec.ofNat 32 (cTag c.record.toNat)] }
      exec (.copyStatusPush cid) s = .next { t with copies := t.copies.filter fun x => x.id != cid })) ∧
  (∀ (s : State) (id : Nat) (p : Publication), (s.pubs.find? fun p => p.id == id) = some p →
    exec (.blazePublish id) s = .next ((publish { s with pubs := s.pubs.filter fun x => x.id != id } p).mapWave p.blk p.wave
      fun w => { w with ops := updWhere (fun o => some o.id == p.op) (fun o => { o with ready := true }) w.ops }))

/-- R229 to R231, R291, R325, R378. The memory system's events complete: a holder reads shared or owns a line, a dirty line is written back,
a copy is recalled, a background store is performed or refused by its peer, a page fault is answered, a bias flip ends. What agents
read changes by none of the directory's events. That one owner's faults on one 64 KiB page are answered together, and that MAP writes its
leaf where the walk stopped, is log entry 35 (DESIGN CHOICE); what a peer's refusal does is log entry 36. -/
def Obligations.MemoryEventsComplete : Prop :=
  (∀ (s : State) (line : Nat) (h : Holder), holderOk s line h = true → s.flipsOf (128 * line) = [] → lineOwned s line h = false →
    (s.dirEnt? line h = none → exec (.dirReadShared line h) s = .next (keepShared h (readShared (markFilled s line h) line h) line)) ∧
    (l1Holder h = false → ∃ t, exec (.dirReadOwn line h) s = .next t ∧ t.mem = s.mem ∧ (∃ x, t.dirEnt? line h = some x ∧ x.st = .modified ∧
        ((∀ blk w, h ≠ .window blk w) → x = { (match s.dirEnt? line h with
          | some d => d
          | none => { line := line, holder := h, st := .modified, dirty := 0, valid := 15, tag := lineTag s line }) with st := .modified })) ∧
      ∀ d ∈ t.dir, d.line = line → d.holder = h)) ∧
  (∀ (s : State) (line : Nat) (h : Holder) (d : DirEnt), s.dirEnt? line h = some d →
    (d.st = .modified ∨ d.st = .owned → lineOwned s line .host = false → ∃ t, exec (.dirWriteBack line h) s = .next t ∧ t.mem = s.mem ∧
      t.dir = updWhere (isEnt line h) (fun x => { x with st := .exclusive, dirty := 0 }) s.dir) ∧
    (lineOwned s line .host = false →
      (∃ t, exec (.dirRecall line h true) s = .next t ∧ t.mem = s.mem ∧
        t.dir = updWhere (isEnt line h) (fun x => { x with st := .shared, dirty := 0 }) s.dir) ∧
      (∃ t, exec (.dirRecall line h false) s = .next t ∧ t.mem = s.mem ∧ t.dir = s.dir.filter fun x => !isEnt line h x))) ∧
  (∀ (s : State) (die core idx : Nat) (p : Pending),
    (s.path.filter fun p => p.die == die && p.core == core)[idx]? = some p →
    ((s.path.filter fun p => p.die == die && p.core == core).take idx).any p.follows = false →
    storeWaits s p = false → s.flipsOf p.key = [] →
    exec (.backgroundComplete die core idx false) s =
      .next (checkBarriers (performStore { s with path := s.path.erase p } p) die core) ∧
    (∀ b, 2 ^ 40 ≤ p.key → p.key < 2 ^ 50 → s.block? p.blk = some b → exec (.backgroundComplete die core idx true) s =
      .next (fatalFault { s with path := s.path.erase p } b (b.wave? p.wave) 6 100 p.va (16 * p.hdr.toNat) p.idx p.mask))) ∧
  (∀ (s : State) (pf : Nat) (p : PageFault), (s.pfs.find? fun p => p.id == pf) = some p → s.takingOver = none →
    let all := s.pfs.filter fun x => x.oid == p.oid && x.va / 2 ^ 16 == p.va / 2 ^ 16
    (∀ leaf, slotHeld s p.oid p.va = false → exec (.pageFaultResolve pf (.map leaf)) s = .next (all.foldl replay (mapPage s p.oid p.va leaf))) ∧
    exec (.pageFaultResolve pf .deny) s = .next (all.foldl (fun s x => if s.pfs.contains x then denyPage s x else s) s)) ∧
  (∀ (s : State) (p n : Nat) (toHost : Bool) (l : List (Nat × Bool × Nat)), s.flips = (p, toHost, n) :: l →
    flipWaits s (s.frame p).lin p n = false → spSorted s.frames = true → ∃ t, exec .biasFlipComplete s = .next t ∧ (t.frame p).hb = toHost ∧ (t.frame p).pend = false)

/-- R214, R241, R243, R244, R246 to R248, R255, R256, R295. The distributor's events complete: a queue's arrival is noted and its next entry
accepted, refused, or made a graph run; blocks and gangs are created where the pool has room; a created phase is gated or ready, a gated
phase becomes ready, and one whose key holds a newer generation ends; phases are dispatched to a core with room; phases age; the victim of
a starving phase is pre-empted. The TAIL in peer memory that counts as moved while it differs from HEAD, and the
refusal of a reserved bit with detail 64, are log entry 26 (DEDUCED), the CADDR 0 of the refusal of KIND 2 to 15 is log entry 52 (DESIGN
CHOICE), the stale phase log entry 24 (DEDUCED) and the choice of gangs and of dies log entry 27 (DESIGN CHOICE). -/
def Obligations.PoolEventsComplete : Prop :=
  (∀ (s : State) (q : Nat), qOpen s q = true → s.arrived.contains q = false → s.waitsOnPage (.queue q) = false →
    (∀ k, tailKey s q = some k → if holdable k then s.dirEnt? (k / 128) (.dist q) = none else
      ∃ a b, queueWords s q = .ok (a, b) ∧ a ≠ b) →
    exec (.queueArrival q) s = .next { s with arrived := s.arrived ++ [q] }) ∧
  (∀ (s : State) (q a h : Nat) (ks : List Nat) (l : List Byte),
    (s.arrived.find? fun x => qDie s x == qDie s q && queueTurn s x) = some q →
    let t := holdTail s q
    let n := (a + 2 ^ 32 - h) % 2 ^ 32
    qOpen t q = true → queueHeld t q = false → queueWords t q = .ok (a, h) → n ≠ 0 → n ≤ 2 ^ qNlog t q →
    ownerKeys t (qOid t q) { rd := false, wr := true } (qCtl t q + 128) 4 = .ok ks →
    ownerRead t (qOid t q) (qBase t q + 32 * (h % 2 ^ qNlog t q)) 32 = .ok l →
    let x := natLE l
    let sub := entrySubmission t q x
    (bitsOf x 164 92 ≠ 0 → bitsOf x 160 4 ≠ 0 →
      exec (.queueEntryAccept q) s = .next (bumpHead (refuseLaunch t sub 11 64 0 sub.addr) q h)) ∧
    (∀ t1 ok, bitsOf x 160 4 = 0 → poolRoom t sub.die = true → recordHeld t sub = false →
      submit t { sub with odd := bitsOf x 164 92 != 0 } none = .ok (t1, ok) → exec (.queueEntryAccept q) s = .next (bumpHead t1 q h)) ∧
    (bitsOf x 164 92 = 0 →
      (bitsOf x 160 4 = 1 → (t.runReqs.filter fun r => r.die == sub.die).length < 16 →
        exec (.queueEntryAccept q) s = .next (bumpHead { t with runReqs := t.runReqs ++ [entryRun t q x] } q h)) ∧
      (2 ≤ bitsOf x 160 4 → exec (.queueEntryAccept q) s = .next (bumpHead (refuseLaunch t sub 11 70 0 sub.addr) q h)))) ∧
  (∀ (s : State) (uid : Nat) (l : Launch), s.launch? uid = some l → l.dead = false →
    let r := l.record.toNat
    let left := lNb r - l.next
    let room := 256 - (s.phases.filter fun p => p.launch == uid && p.fresh && p.st != .done).length
    let gp := min (lGp r) left
    let k := if gangFits s l gp then gp else min (lGf r) left
    left ≠ 0 → room ≠ 0 →
    (lGang r = false → exec (.blockCreate uid) s = .next (createBlocks s l 1 false)) ∧
    (lGang r = true → k ≤ room → gangFits s l k = true → exec (.blockCreate uid) s = .next (createBlocks s l k true))) ∧
  (∀ (s : State) (uid : Nat) (p : Phase) (l : Launch), s.phase? uid = some p → s.launch? p.launch = some l →
    (p.st = .created → exec (.phaseReady uid) s = .next (gatePhase s l p)) ∧
    (p.st = .gated → gateOf s l p = .opened → exec (.phaseReady uid) s = .next (readyPhase s p.uid)) ∧
    (∀ va, p.st = .gated → gateOf s l p = .broken va → exec (.phaseReady uid) s = .next (phaseDouble s l p l.die va)) ∧
    (∀ k g, p.st = .gated ∨ p.st = .ready ∧ p.reason = 0 → gateOf s l p = .stale k g →
      exec (.phaseReady uid) s = .next (stalePhase s l p k g))) ∧
  (∀ (s : State) (die core : Nat) (c : Cand) (seats : List (Nat × Nat)), die < 4 → core < 192 → s.regBits 0x10000 2 1 ≠ 1 → chosen s die = some c →
    seating s c.l c.p die core = some seats → seats.any (returnHeld s c.l) = false →
    (∀ t, seats.findSome? (staleNow s c.l) = some t → exec (.phaseDispatch die core) s = .next t) ∧
    (∀ x, seats.findSome? (staleNow s c.l) = none → seats.find? (windowTrouble s c.l die) = some x →
      exec (.phaseDispatch die core) s = .next (seatPhase c.l die s x)) ∧
    (seats.findSome? (staleNow s c.l) = none → seats.find? (windowTrouble s c.l die) = none →
      exec (.phaseDispatch die core) s = .next (seats.foldl (seatPhase c.l die) s))) ∧
  (∀ (s : State) (die : Nat), die < 4 → let now := s.clkOf die / 2 ^ 16
    (s.aged[die]?).getD 0 < now → exec (.ageingPeriod die) s = .next { s with
      aged := setAt s.aged die now,
      phases := updWhere (fun p => (s.launch? p.launch).any fun l => l.die == die) (fun p => { p with age := p.ageClk / 2 ^ 16 }) s.phases }) ∧
  (∀ (s : State) (die : Nat) (early late : List Phase) (p : Phase) (l : Launch) (b : Block) (since : Nat),
    s.phases = early ++ p :: late → (∀ x ∈ early, x.waitedSince = none) → p.st = .ready → p.waitedSince = some since →
    since + 2 ^ 16 ≤ s.clkOf die → s.launch? p.launch = some l → mayDispatch s l p die = true → l.die = die →
    victimFor s l p die = some b → exec (.priorityPreempt die) s = .next (askPreempt s b.uid))

/-- R245, R251, R252, R263 to R267, R303, R413. Quotas, launches, graph runs and kills complete: a period starts and forgives what its budget
covers, an owner over its quota is pre-empted and recorded, a launch whose blocks are done writes its word and leaves, a graph's first
request becomes a run or is refused, a node's end walks its successors, and a kill takes effect. -/
def Obligations.QuotaAndGraphEventsComplete : Prop :=
  (∀ (s : State) (die : Nat), die < 4 →
    let q := (s.reg (0xA8000 + 8 * die)).toNat
    let from0 := (s.quotaAt[die]?).getD 0
    q ≠ 0 → from0 + q ≤ s.clkOf die → spSorted s.used = true → ∃ t, exec (.quotaPeriodStart die) s = .next t ∧
      t.quotaAt = setAt s.quotaAt die (from0 + q) ∧ { t with quotaAt := s.quotaAt, used := s.used } = s ∧
      ∀ d oid, oid < 4096 → usedOf t d oid = if d = die then usedOf s d oid - budgetOf s d oid else usedOf s d oid) ∧
  (∀ (s : State) (die oid : Nat), die < 4 → oid < 4096 → budgetOf s die oid ≠ 0xFFFFFFFF →
    budgetOf s die oid + 256 * s.regBits (quotaOff die oid) 32 24 ≤ usedOf s die oid → s.overrun.contains (quotaKey die oid) = false →
    exec (.quotaOverrun die oid) s = .next (raiseRecord
      ((s.blocks.filter fun x => x.oid == oid && x.die == die).foldl (fun s x => askPreempt s x.uid)
        { s with overrun := quotaKey die oid :: s.overrun })
      (Record.plain 13 oid (s.ctxGlade oid) die 0 0 0 0))) ∧
  (∀ (s : State) (oid : Nat), s.ctxValid oid = true ∨ (∃ b ∈ s.blocks, b.oid = oid) ∨ (∃ l ∈ s.launches, l.oid = oid) →
    exec (.kill (.owner oid)) s = .next (endContext s oid)) ∧
  (∀ (s : State) (uid : Nat) (b : Block), s.block? uid = some b → exec (.kill (.block uid)) s = .next (endBlock s uid true)) ∧
  (∀ (s : State) (uid : Nat) (p : Phase) (l : Launch), s.block? uid = none → s.phase? uid = some p → p.st ≠ .done → s.launch? p.launch = some l →
    let r := removePhase s p
    exec (.kill (.block uid)) s = .next (if r.2 then r.1 else phaseDouble r.1 l p l.die (stateAt s uid))) ∧
  (∀ (s : State) (uid : Nat) (l : Launch), s.launch? uid = some l → l.ovr = true → s.waitsOnPage (.launch uid) = false →
    storesLeft s uid = false → exec (.launchComplete uid) s = .next (runsGo (completeLaunch s l none) l.die)) ∧
  (∀ (s : State) (die : Nat) (q : RunReq), (s.runReqs.find? fun q => q.die == die && canTake s q && firstOfGraph s q) = some q →
    (runHeader s q = none → exec (.graphRunStart die) s = .next
      (doubleFault { s with runReqs := s.runReqs.erase q } q.oid q.die (pinBad s q.oid false [(q.table, 64)]))) ∧
    (∀ h, runHeader s q = some h →
      let s1 := withRun s q h
      (tableBad h = true → exec (.graphRunStart die) s = .next (runGo none (runRecord s1 q 11 72 q.table) s.uids)) ∧
      (∀ t, tableBad h = false → pinWrite s1 q.oid (q.table + 24) (bytesLE 3 (nextGen h + 2 ^ 16)) = some t →
        exec (.graphRunStart die) s = .next (runGo none t s.uids)) ∧
      (tableBad h = false → pinWrite s1 q.oid (q.table + 24) (bytesLE 3 (nextGen h + 2 ^ 16)) = none →
        exec (.graphRunStart die) s = .next (doubleFault s1 q.oid q.die (pinBad s1 q.oid true [(q.table + 24, 3)]))))) ∧
  (∀ (s : State) (run node : Nat) (r : Run), s.run? run = some r → r.launched.contains node = true → r.complete.contains node = false →
    r.walk = none → s.waitsOnPage (.run run) = false → (s.launches.any fun l => l.node == some (run, node)) = false →
    exec (.nodeComplete run node) s = .next
      (runGo none (s.mapRun run fun r => { r with complete := r.complete ++ [node], walk := some (node, 0) }) run))

/-- R228, R292, R296, R313, R323, R325, R371 to R373, R377, R387. The control block's writes complete: translations
are invalidated, the L2 changes its mode or refuses, glades go on and off, a window is written or refused, frames are assigned and
released, flips start, and a register takes what is written to it. The model's readings here: that GO of TLBIC is ignored while BUSY is 1 and
BUSY lasts until the owner's stores are performed, and what a glade leaves in ERR (log entry 37, DEDUCED), the part of the control block that
a function's BAR0 shows and the denied host access that leaves a record (log entry 40, DEDUCED), PMCSR and its values (log entry 53,
PRESUMED), a fenced pair's dropped writes and a command that waits for a takeover (log entry 55), and PRECMD's passing over glades in reset
and blocks without a save area (log entries 51 and 32). -/
def Obligations.RegisterEventsComplete : Prop :=
  (∀ (s : State) (v : W32), v.getLsbD 23 = true →
    (s.regBits tlbicOff 24 1 = 1 → exec (.tlbi v) s = .next s) ∧
    (s.regBits tlbicOff 24 1 ≠ 1 → ∃ t, exec (.tlbi v) s = .next t ∧ (∀ e ∈ t.tlb, tlbiHits t v.toNat e = false) ∧
      t.tlbiWait = t.path.filter (fun p => p.oid == bitsOf v.toNat 0 12 && p.glade == bitsOf v.toNat 12 4) ∧
      (t.tlbiWait ≠ [] → t.regBits tlbicOff 24 1 = 1))) ∧
  (∀ (s : State) (v : W32), v.getLsbD 1 = true →
    (s.blocks ≠ [] ∨ s.copies ≠ [] ∨ v.getLsbD 0 = true ∧ sliceMissing s = true →
      exec (.l2ModeSwitch v) s = .next (s.setRegBits l2ctlOff 3 1 1)) ∧
    (s.blocks = [] → s.copies = [] → v.getLsbD 0 = false ∨ sliceMissing s = false → ∃ t, exec (.l2ModeSwitch v) s = .next t ∧
      t.slices = ((List.range 64).map fun n => s.regBits (l2slgOff n) 0 5) ∧ (∀ d ∈ t.dir, flushed d.holder = false) ∧
      (spSorted s.dcb = true → t.regBits l2ctlOff 0 1 = (v.getLsbD 0).toNat ∧ t.regBits l2ctlOff 3 1 = 0))) ∧
  (∀ (s : State) (t iid win : Nat) (v : W128), t < 10 → iid < 256 → win < 4 →
    ((gladesOn s).all (fun g => !(s.gladeProtected g && forbiddenFor s g t iid v.toNat)) = true →
      exec (.accessTableWrite t iid win v) s = .next ((s.setReg (windowOff t iid win) (BitVec.ofNat 64 v.toNat)).setReg
        (windowOff t iid win + 8) (BitVec.ofNat 64 (v.toNat / 2 ^ 64 % 2 ^ 11)))) ∧
    (∀ g ∈ gladesOn s, s.gladeProtected g = true → forbiddenFor s g t iid v.toNat = true →
      exec (.accessTableWrite t iid win v) s = .next (s.setRegBits 0x100408 0 1 1))) ∧
  (∀ (s : State) (g : Nat), g < 16 →
    let cls := bitAt (s.reg (gldOff g)).toNat 1
    let on := s.setMasked (gldOff g) 3 (1 + 2 * cls)
    (s.gladeState g = 0 → gladeClash on g = false → channelsBad on g = false → (cls = 1 → windowsBad on g = false) →
      exec (.gladeEnable g) s = .next ((on.setRegBits (gldOff g) 4 1 0).setRegBits (gldOff g) 8 4 1)) ∧
    (s.gladeState g = 0 → gladeClash on g = true ∨ channelsBad on g = true ∨ cls = 1 ∧ windowsBad on g = true →
      exec (.gladeEnable g) s = .next (s.setRegBits (gldOff g) 4 1 1)) ∧
    (s.gladeState g = 1 → ((List.range 4096).any fun o => s.ctxValid o && s.ctxGlade o == g) = false →
      exec (.gladeDisable g) s = .next ((s.setRegBits (gldOff g) 0 1 0).setRegBits (gldOff g) 8 4 0)) ∧
    (s.gladeState g = 1 → ((List.range 4096).any fun o => s.ctxValid o && s.ctxGlade o == g) = true →
      exec (.gladeDisable g) s = .next (s.setRegBits (gldOff g) 4 1 1))) ∧
  (∀ (s : State) (v : BitVec 4), (s.memlayDone = true → exec (.memlayWrite v) s = .next s) ∧
    (s.memlayDone = false → ∃ t, exec (.memlayWrite v) s = .next t ∧ t.memlayDone = true ∧ (v ≠ 0 → t.reg 0x100400 = v.setWidth 64))) ∧
  (∀ (s : State) (die : Nat) (v : W32), die < 4 → v.getLsbD 20 = true → exec (.tagWalkSweep die v) s = .next
    (sweepDie (s.setMasked (twcmdOff die) (bitsMask 19 18 + bitsMask 15 0) v.toNat) die (v.getLsbD 19)
      fun t => t.2 == bitsOf v.toNat 12 4 && (v.getLsbD 18 || t.1 == bitsOf v.toNat 0 12))) ∧
  (∀ (s : State) (off : Nat) (v : W64), off % 8 = 0 →
    (off < 2 ^ 24 → exec (.registerWrite (.core off) v) s = .next (writeRegister s off v.toNat)) ∧
    (∀ fn, fn < 17 → off < (if fn = 0 then 2 ^ 24 else 2 ^ 16) →
      (functionShut s fn = true ∨ barOffset fn off = none → exec (.registerWrite (.host fn off) v) s = .next s) ∧
      (∀ o, functionShut s fn = false → barOffset fn off = some o →
        (tableAllows s 4 (0x10 + fn) o false true = true → exec (.registerWrite (.host fn off) v) s =
          .next (if requestHeld s o then s else writeRegister s o v.toNat)) ∧
        (tableAllows s 4 (0x10 + fn) o false true = false → exec (.registerWrite (.host fn off) v) s = .next (hostDenied s)))) ∧
    (∀ fn, fn < 17 → off < 2 ^ 12 → exec (.registerWrite (.config fn off) v) s =
      .next (if off = powerReg then setPower s fn v.toNat else s)) ∧
    (∀ d, pairRuns s d = true → off < 2 ^ 24 →
      (fenced s d = true ∨ tableAllows s 4 (0x30 + d) off false true = false → exec (.registerWrite (.pair d off) v) s = .next s) ∧
      (fenced s d = false → tableAllows s 4 (0x30 + d) off false true = true →
        exec (.registerWrite (.pair d off) v) s = .next (writeRegister s off v.toNat)))) ∧
  (∀ (s : State) (v : W64), s.regBits ftcmdOff 1 1 ≠ 1 → v.getLsbD 0 = true → s.takingOver = none →
    let s1 := s.setMasked ftcmdOff (bitsMask 52 16) v.toNat
    let p := ftPage v.toNat
    (ftOp v.toNat = 0 → exec (.ftAssign v) s = .next
      ((ftAssign s1 p (ftOid v.toNat) (ftLin v.toNat)).2.setRegBits ftcmdOff 8 4 (ftAssign s1 p (ftOid v.toNat) (ftLin v.toNat)).1)) ∧
    (ftOp v.toNat = 1 → exec (.ftRelease v) s = .next ((ftRelease s1 p).2.setRegBits ftcmdOff 8 4 (ftRelease s1 p).1)) ∧
    (ftOp v.toNat = 2 → (s1.frame p).v = true → (s1.frame p).pend = false → (s1.frame p).hb = false →
      ∃ t, exec (.ftBiasToHost v) s = .next t ∧ t.flips = s.flips ++ [(p, true, s.uids)] ∧ (t.frame p).pend = true) ∧
    (ftOp v.toNat = 3 → (s1.frame p).v = true → (s1.frame p).pend = false → (s1.frame p).hb = true →
      ∃ t, exec (.ftBiasToDevice v) s = .next t ∧ t.flips = s.flips ++ [(p, false, s.uids)] ∧ (t.frame p).pend = true)) ∧
  (∀ (s : State) (v : W64), s.regBits ftcmdOff 1 1 ≠ 1 → v.getLsbD 0 = true → s.takingOver ≠ none →
    let t := (s.setMasked ftcmdOff (bitsMask 52 16) v.toNat).setRegBits ftcmdOff 1 1 1
    (ftOp v.toNat = 0 → exec (.ftAssign v) s = .next t) ∧ (ftOp v.toNat = 1 → exec (.ftRelease v) s = .next t) ∧
    (ftOp v.toNat = 2 → exec (.ftBiasToHost v) s = .next t) ∧ (ftOp v.toNat = 3 → exec (.ftBiasToDevice v) s = .next t)) ∧
  (∀ (s : State) (v : W64), (v.getLsbD 0 = false → ∃ t, exec (.precmd v) s = .next t ∧ t.blocks = s.blocks) ∧
    (v.getLsbD 0 = true → bitAt (s.reg precmdOff).toNat 1 = 0 → bitsOf v.toNat 34 2 < 2 → bitsOf v.toNat 52 4 ≠ 0 →
      ∃ t, exec (.precmd v) s = .next t ∧ t.preempting = ((s.blocks.filter fun b => bitAt (bitsOf v.toNat 52 4) b.die == 1 &&
        (if bitsOf v.toNat 34 2 = 0 then b.oid == bitsOf v.toNat 40 12 else b.glade == bitsOf v.toNat 36 4)).filter
          fun b => s.rstep b.glade == 0 && canSave s b.oid).map fun b => b.uid))

/-- R330 to R332, R334, R342 to R349. The displays' events complete: a display goes on or off, a map command waits for the frame, or for
what holds its words, or is refused with its status, a capture starts, and a frame starts: FRAME advances, pending map commands take
effect, layers are latched, the frame is sent and a pending capture written. That a map command of a display with EN = 0 stays pending
while a pixel store to it waits or a word of its map is held is log entry 30, and what a frame start waits for (canopyWaits) and the pixel
stores performed before it log entry 56, both DEDUCED; the status of a command that fails more than one check, and a capture's registers,
are log entry 52 (DESIGN CHOICE). -/
def Obligations.DisplayEventsComplete : Prop :=
  (∀ (s : State) (d : Nat) (v : W64), d < 4 → v.getLsbD 0 = true →
    let fields := bitsOf v.toNat 0 3 + bitsOf v.toNat 32 32 * 2 ^ 32
    (bitsOf v.toNat 32 16 ≤ 7679 → bitsOf v.toNat 48 16 ≤ 4319 → exec (.displayEnable d v) s = .next
      (if Config.linkCarries d (BitVec.ofNat 64 fields) then s.setReg (dispOff d) (BitVec.ofNat 64 fields) else s.setRegBits (dispOff d) 3 1 1)) ∧
    (7679 < bitsOf v.toNat 32 16 ∨ 4319 < bitsOf v.toNat 48 16 →
      exec (.displayEnable d v) s = .next (s.setRegBits (dispOff d) 3 1 1))) ∧
  (∀ (s : State) (d : Nat) (v : W64), d < 4 → v.getLsbD 0 = false →
    let s1 := if mapsWait s d then s else applyMaps s d
    let s2 := if s1.captures.contains d then endCapture s1 d 1 else s1
    exec (.displayDisable d v) s = .next { s2.setReg (dispOff d) (BitVec.ofNat 64 (bitsOf v.toNat 0 3 + bitsOf v.toNat 32 32 * 2 ^ 32)) with
      layers := s2.layers.filter fun x => x.1 != d }) ∧
  (∀ (s : State) (d : Nat) (v : W32), d < 4 → v.getLsbD 20 = true → s.regBits (dispOff d + 0x38) 21 1 ≠ 1 →
    let n := bitsOf v.toNat 16 2
    let x := bitsOf v.toNat 0 16
    let r := s.reg (dispOff d + 0x30)
    let s1 := ((s.setRegBits (dispOff d + 0x38) 16 2 n).setRegBits (dispOff d + 0x38) 0 16 x).setRegBits (dispOff d + 0x38) 24 4
      (mapStatus s d n x r.toNat)
    (mapStatus s d n x r.toNat ≠ 0 → exec (.mapCommand d v) s = .next s1) ∧
    let m : MapCmd := { d := d, rect := r, slot := n, value := BitVec.ofNat 16 v.toNat }
    let waits : Prop := dispOn s d = true ∨ pixelsStuck s1 d = true ∨ mapHeld s1 m = true
    (mapStatus s d n x r.toNat = 0 → waits → exec (.mapCommand d v) s =
      .next { s1.setRegBits (dispOff d + 0x38) 21 1 1 with mapCmds := s.mapCmds ++ [m] }) ∧
    (mapStatus s d n x r.toNat = 0 → ¬ waits → exec (.mapCommand d v) s = .next (applyMap (drainPath s1 (pixelLine s1 d)) m))) ∧
  (∀ (s : State) (d : Nat) (v : W64), d < 4 → v.getLsbD 13 = true → s.regBits (capOff d) 14 1 ≠ 1 →
    (dispOn s d = true → ∃ t, exec (.captureStart d v) s = .next t ∧ t.captures = s.captures ++ [d]) ∧
    (dispOn s d = false → ∃ t, exec (.captureStart d v) s = .next t ∧ t.captures = s.captures.filter fun x => x != d)) ∧
  (∀ (s : State) (d : Nat), d < 4 → dispOn s d = true → canopyWaits s d = false →
    let s1 := latchTable (applyMaps (s.setReg (dispOff d + 8) (frameCount s d + 1)) d) d
    let f := frame32 s1 d
    let latched := latchAll s1 d
    exec (.frameStart d) s = .next (performCapture { latched.1 with
      scans := { d := d, frame := frameCount latched.1 d, rgb := scanOf latched.1 d latched.2 } ::
        latched.1.scans.filter fun x => x.d != d } d f latched.2))

/-- R284, R310, R316, R318, R319, R369, R379, R381, R382, R401 to R403. What comes from the host and from peers completes: reads answer what
memory holds, writes change their bytes and no others, the system region and the firewall refuse, the mailbox and Jorac reply, replies
land, and ports stop and take keys. The port of a peer and the vectors' mask are log entry 41 (PRESUMED), the host's record, a function's
BAR0, a peer's atomic and the keys that a MAC failure needs log entry 40, Jorac's statuses and the code that it emits log entry 7 (DESIGN
CHOICE), the replies that a host write lands log entry 31, the functions that are shut log entries 51 and 53, and what a session
and a key exchange fix log entry 58. -/
def Obligations.HostEventsComplete : Prop :=
  (∀ (s : State) (addr n : Nat), addr < 2 ^ 37 → inOneLine addr n = true →
    let key := (targetOf addr false 0).key
    (sysBase ≤ addr → exec (.hostCxlMemRead addr n) s = .next (tell (hostRecord s addr 0) (.memData (List.replicate n 0)))) ∧
    (addr < sysBase → firewall s 0x10 (targetOf addr false 0) true false = none → outsideWaits s key n false = false →
      exec (.hostCxlMemRead addr n) s = .next (tell (readShared s (key / 128) .host) (.memData (s.bytesAt key n)))) ∧
    (∀ d, addr < sysBase → firewall s 0x10 (targetOf addr false 0) true false = some d →
      exec (.hostCxlMemRead addr n) s = .next (tell (hostRecord s addr d) .poison))) ∧
  (∀ (s : State) (addr : Nat) (l : List Byte), addr < 2 ^ 37 → inOneLine addr l.length = true →
    let key := (targetOf addr false 0).key
    (sysBase ≤ addr → exec (.hostCxlMemWrite addr l) s = .next (hostRecord s addr 0)) ∧
    (addr < sysBase → firewall s 0x10 (targetOf addr false 0) false true = none → outsideWaits s key l.length true = false →
      exec (.hostCxlMemWrite addr l) s = .next (landReplies (directWrite s key l))) ∧
    (∀ d, addr < sysBase → firewall s 0x10 (targetOf addr false 0) false true = some d →
      exec (.hostCxlMemWrite addr l) s = .next (hostRecord s addr d))) ∧
  (∀ (s : State) (line : Nat), snooped s (128 * line) = true →
    (outsideWaits s (128 * line) 128 false = false → exec (.hostSnoop line none) s = .next (recallShared s line) ∧
      ∀ d ∈ (recallShared s line).dir, d.line = line → d.st = .shared ∧ d.dirty = 0) ∧
    (∀ off l, off + l.length ≤ 128 → outsideWaits s (128 * line) 128 true = false →
      exec (.hostSnoop line (some (off, l))) s = .next (landReplies (directWrite s (128 * line + off) l)))) ∧
  (∀ (s : State) (fn off : Nat), fn < 17 → off % 8 = 0 → off < (if fn = 0 then 2 ^ 24 else 2 ^ 16) → hostStuck s fn = false →
    let s1 := drainFor s fn
    (functionShut s fn = true → exec (.hostRegisterRead fn off) s = .next (freeRead s1)) ∧
    (functionShut s fn = false → barOffset fn off = none → exec (.hostRegisterRead fn off) s = .next (tell s1 (.regData 0))) ∧
    (∀ o, functionShut s fn = false → barOffset fn off = some o →
      (tableAllows s 4 (0x10 + fn) o true false = true →
        exec (.hostRegisterRead fn off) s = .next (tell s1 (.regData (s1.regNow o)))) ∧
      (tableAllows s 4 (0x10 + fn) o true false = false → exec (.hostRegisterRead fn off) s = .next (freeRead (hostDenied s1))))) ∧
  (∀ (s : State) (fn vec : Nat), s.msix.contains (4 * fn + vec) = true → vec < 4 → vectorMasked s fn vec = false →
    s.d3hot.contains fn = false → hostStuck s fn = false → ∃ t, exec (.msixSend fn vec) s = .next t ∧ t.host.getLast? = some (.msix fn vec) ∧ t.msix.contains (4 * fn + vec) = false) ∧
  (∀ (s : State) (fn : Nat), fn < 17 →
    (functionShut s fn = true → exec (.mailboxDoorbell fn) s = .next s) ∧
    (functionShut s fn = false → tableAllows s 4 (0x10 + fn) (pageOff fn + 0x100) false true = true →
      ∃ t, exec (.mailboxDoorbell fn) s = .next t ∧ mbdb t fn = true) ∧
    (functionShut s fn = false → tableAllows s 4 (0x10 + fn) (pageOff fn + 0x100) false true = false →
      exec (.mailboxDoorbell fn) s = .next (hostDenied s))) ∧
  (∀ (s : State) (fn : Nat) (l : List Byte), fn < 17 → mbdb s fn = true →
    exec (.mailboxReply fn l) s = .next (reply s fn l) ∧
    (∀ (a : JAnswer) (t : State), s.takingOver = none → joracAnswer s fn (jRequest s fn) = (a, t) → jHeld s (jRequest s fn) a = false →
      exec (.joracFinalise fn) s = .next (reply t fn a.bytes))) ∧
  (∀ (s : State) (oid slot : Nat) (l : List Byte) (q : SvcReq), s.svc? oid slot = some q → q.landed = false →
    pinsHeld s oid [(svcArgs s oid slot, (l.take 2048).length), (svcHeader s oid slot + 28, 4)] true = false →
    let out := pinWrites oid [(svcArgs s oid slot, l.take 2048), (svcHeader s oid slot + 28, bytesLE 4 1)] s
    (∀ t, out = some t → exec (.svcReplyLand oid slot l) s = .next (landReply t q)) ∧
    (out = none → exec (.svcReplyLand oid slot l) s = .next (requestDouble s q
      (pinBad s oid true [(svcArgs s oid slot, l.length), (svcHeader s oid slot + 28, 4)])))) ∧
  (∀ (s : State) (p h addr n : Nat) (l : List Byte), p < 8 → h < 16 → addr < 2 ^ 38 → s.stopped.contains (peerPort p) = false →
    let key := (targetOf addr false 0).key
    (inOneLine addr n = true → peerAllowed s p h addr true false = true → outsideWaits s key n false = false →
      exec (.peerRequest p h addr (.read n)) s = .next (tell (recallForRead s (key / 128)) (.peerData (s.bytesAt key n)))) ∧
    (inOneLine addr l.length = true → peerAllowed s p h addr false true = true → outsideWaits s key l.length true = false →
      exec (.peerRequest p h addr (.write l)) s = .next (tell (directWrite s key l) .peerAck)) ∧
    (inOneLine addr l.length = true → peerAllowed s p h addr false true = false →
      exec (.peerRequest p h addr (.write l)) s = .next (tell s .peerRefused)) ∧
    (inOneLine addr n = true → peerAllowed s p h addr true false = false →
      exec (.peerRequest p h addr (.read n)) s = .next (tell s .peerRefused)) ∧
    (∀ (op v : Nat) (t : Ty), atomDefined op t = true → inOneLine addr (elemWidth t / 8) = true → addr % (elemWidth t / 8) = 0 →
      (peerAllowed s p h addr true true = true → outsideWaits s key (elemWidth t / 8) true = false →
        let old := s.bytesAt key (elemWidth t / 8)
        exec (.peerRequest p h addr (.atomic op t v)) s =
          .next (tell (directWrite s key (bytesLE (elemWidth t / 8) (atomNew op t (natLE old) v))) (.peerData old))) ∧
      (peerAllowed s p h addr true true = false → exec (.peerRequest p h addr (.atomic op t v)) s = .next (tell s .peerRefused)))) ∧
  (∀ (s : State) (port : Nat), port < 4 →
    ((s.keys.any fun k => k.1 == port) = true → s.stopped.contains port = false →
      exec (.shenerMacFailure port) s = .next (raiseRecord (dropFlight s port) (Record.plain 6 0 (s.ctxGlade 0) 0 0 0 0 102))) ∧
    (∀ (number : BitVec 3) (tx rx : BitVec 256), ∃ t, exec (.shenerKeyExchange { port := port, number := number, tx := tx, rx := rx }) s =
      .next t ∧ (t.keys.find? fun k => k.1 == port) = some (port, tx, rx) ∧ t.peerNo = number ∧ t.stopped.contains port = false)) ∧
  (∀ (s : State) (n : IdeSlot) (k : BitVec 256), streamFn n.stream < 17 → s.sessions.contains (streamFn n.stream) = true →
    ∃ t, exec (.ideKmKeyProg n k) s = .next t ∧ (t.ide.find? fun x => x.1 == n) = some (n, k) ∧
      ∀ m, m ≠ n → (t.ide.find? fun x => x.1 == m) = s.ide.find? fun x => x.1 == m)

/-- R311, R312, R314, R384 to R386, R390 to R394. The service processors' and the root of trust's events complete: a leader is elected, beats
and is taken over from, clocks step, the device and its functions reset, measurements are answered, rollback records and image updates
are taken or refused, and a fatal error is recorded. The takeover in two steps is log entry 55, one step for each step of a function's reset
log entry 51, a TARGET of 2 or more that is refused log entry 43, an image's number log entry 6, and what a reset keeps log entry 38; the
certificates and the signatures are log entry 58, and the record that replaces the operator key log entries 6 and 43. -/
def Obligations.ServiceEventsComplete : Prop :=
  (∀ (s : State), s.elected = false →
    (∀ d, [0, 1, 2, 3].find? (healthy s) = some d → pairHeld s leadwAt true = false → ∃ t, exec .leaderElection s = .next t ∧ t.elected = true ∧ leader t = d ∧
      bankCount t t.bank = 0) ∧
    ([0, 1, 2, 3].find? (healthy s) = none → ∃ t, exec .leaderElection s = .next t ∧ t.elected = true ∧ t.regBits 0 11 1 = 1)) ∧
  (∀ (s : State) (die : Nat), pairRuns s die = true →
    let t := haltPair (s.setRegBits 0 die 1 0) die
    let failed : Prop := (∀ p ∈ t.pairs, p.halted = true) ∨ s.elected = true ∧ t.regBits 0 0 4 = 0
    (¬ failed → exec (.lockstepMismatch die) s = .next t) ∧
    (failed → exec (.lockstepMismatch die) s = .next (fatalError t .everyServicePairFailed))) ∧
  (∀ (s : State), leads s (leader s) = true → pairHeld s hbwAt true = false → exec .heartbeat s = .next (if pairAllowed s (leader s) hbwAt false true then
    writePhys s hbwAt (bytesLE 8 (hbw s + 1)) else s)) ∧
  (∀ (s : State) (die : Nat), s.elected = true → healthy s die = true → fenced s die = false → leader s ≠ die →
    s.takingOver ≠ some die → (s.takeover.any fun t => t.die == die) = false →
    pairHeld s hbwAt false = false → pairHeld s leadwAt false = false → exec (.heartbeatTimeout die) s = .next { s with
      takeover := s.takeover ++ [{ die := die, hbw := BitVec.ofNat 64 (hbw s), leadw := BitVec.ofNat 64 (leadw s) }] }) ∧
  (∀ (s : State) (die : Nat) (w : Waiting), (s.takeover.find? fun t => t.die == die) = some w → healthy s die = true → s.takingOver ≠ some die →
    pairHeld s hbwAt false = false → pairHeld s leadwAt true = false →
    (pairAllowed s die leadwAt true true = false ∨ hbw s ≠ w.hbw.toNat ∨ leadw s ≠ w.leadw.toNat → exec (.takeoverAttempt die) s = .next { s with
      takeover := s.takeover.filter fun t => t.die != die }) ∧
    (pairAllowed s die leadwAt true true = true → hbw s = w.hbw.toNat → leadw s = w.leadw.toNat → ∃ t, exec (.takeoverAttempt die) s = .next t ∧ t.takingOver = some die ∧
      fenced t (w.leadw.toNat % 4) = true ∧ t.regBits 0 10 1 = 1)) ∧
  (∀ (s : State) (die : Nat), s.takingOver = some die → healthy s die = true → ∃ t, exec (.takeoverAttempt die) s = .next t ∧
    t.takingOver = none ∧ leader t = die ∧ t.regBits 0 10 1 = 0 ∧ 3 ∈ t.msix) ∧
  (∀ (s : State) (die : Nat) (x : BitVec 2), s.pwr[die]? = some x →
    (x.toNat < 3 → ∃ t, exec (.throttleDown die) s = .next t ∧ t.pwr[die]? = some (x + 1)) ∧
    (0 < x.toNat → ∃ t, exec (.throttleUp die) s = .next t ∧ t.pwr[die]? = some (x - 1))) ∧
  (∀ (s : State), ∃ t, exec .deviceReset s = .next t ∧ exec (.functionLevelReset 0) s = .next t ∧ t.blocks = [] ∧ t.dir = [] ∧ t.tlb = [] ∧
    t.launches = [] ∧ t.phases = [] ∧ t.elected = false ∧ ∀ off, off / 8 ≠ 0 → t.reg off = dcbDefault (off / 8)) ∧
  (∀ (s : State) (n : Nat), 0 < n → n < 17 →
    (s.rstep (n - 1) = 1 → ((gladeFlips s (n - 1)).any fun x => flipWaits s (s.frame x.1).lin x.1 x.2.2) = false) →
    ∃ t, exec (.functionLevelReset n) s = .next t ∧ t = resetStep s (n - 1) n ∧
      (s.rstep (n - 1) < 6 → t.rstep (n - 1) = s.rstep (n - 1) + 1 ∧ t.gladeState (n - 1) = if s.rstep (n - 1) < 5 then 2 else 3) ∧
      (s.rstep (n - 1) = 6 → s.Canonical → t.rstep (n - 1) = 0 ∧ t.gladeState (n - 1) = 0 ∧ t.host = s.host ++ [.resetDone n])) ∧
  (∀ (s : State) (fn : Nat), fn < 17 →
    (∀ idx, reports fn idx = true → let m := shake256 64 (measured s idx)
      exec (.spdmGetMeasurements fn (.measurement idx)) s = .next (tell s (.measure fn idx m (signed s m)))) ∧
    exec (.spdmGetMeasurements fn .algorithms) s =
      .next (tell s (.algorithms fn ["EdDSA Ed448", "AES-256-GCM", "secp384r1", "SHA3-512"] (signed s (spdmAlgorithms.flatMap textBytes)))) ∧
    exec (.spdmGetMeasurements fn (.certificate 0)) s =
      .next (tell s (.certificate fn 0 Config.certificateChain (signed s Config.certificateChain))) ∧
    (∃ t, exec (.spdmGetMeasurements fn .openSession) s = .next t ∧ t.sessions.contains fn = true) ∧
    (∃ t, exec (.spdmGetMeasurements fn .closeSession) s = .next t ∧ t.sessions.contains fn = false)) ∧
  (∀ (s : State) (r : BitVec 1536),
    let x := r.toNat
    let good := bitsOf x 0 32 = 0x4E395242 ∧ bitsOf x 448 64 = Config.serial.toNat ∧ s.opCtr.toNat < bitsOf x 416 32 ∧ s.updating = none
    (good → if Config.operatorSignature (bytesLE 192 x) s.opKey then match Config.newOperatorKey (bytesLE 192 x) with
        | some k => ∃ t, exec (.rollbackRecord r) s = .next t ∧ t.opCtr.toNat = bitsOf x 416 32 ∧ t.opKey = k ∧ t.nextBank = s.nextBank
        | none => if bitsOf x 408 8 < 2 then ∃ t, exec (.rollbackRecord r) s = .next t ∧ t.opCtr.toNat = bitsOf x 416 32 ∧
            t.nextBank = decide (bitsOf x 408 8 = 1) ∧ bankCount t t.nextBank = 0
          else exec (.rollbackRecord r) s = .next (tell s (.rollback false))
      else exec (.rollbackRecord r) s = .next (tell s (.rollback false))) ∧
    (¬ good → exec (.rollbackRecord r) s = .next (tell s (.rollback false)))) ∧
  (∀ (s : State) (b : Bool),
    (s.updating = none → ∃ t, exec (.firmwareImageUpdate (.start b)) s = .next t ∧ t.updating = some b) ∧
    (s.updating = some b → ∃ t, exec (.firmwareImageUpdate .finish) s = .next t ∧ t.updating = none ∧
      imageOf t b = s.uids + 2 ∧ imageOf t (!b) = imageOf s (!b))) ∧
  (∀ (s : State) (cause : FatalCause), s.fatal = false → (cause = .everyServicePairFailed → s.regBits 0 0 4 = 0) →
    exec (.fatalError cause) s = .next (fatalError s cause))

/-- R250, R324, R332, R373, R376. Reset leaves the values that the manual gives: every budget unlimited and every period 1,200,000 clk, no
frame limit and no frame used, displays and glades off, the access tables open to the service pairs alone, no block, no leader and no
fatal error. -/
def Obligations.ResetValues : Prop :=
  (∀ die oid, die < 4 → oid < 4096 → (State.reset.reg (quotaOff die oid)).toNat = 0xFFFFFFFF) ∧
  (∀ die, die < 4 → (State.reset.reg (0xA8000 + 8 * die)).toNat = 1200000) ∧
  (∀ oid, oid < 4096 → mqLim State.reset oid = 0 ∧ mqUsed State.reset oid = 0) ∧
  (∀ d, d < 4 → dispOn State.reset d = false) ∧ (∀ g, g < 16 → State.reset.gladeState g = 0) ∧
  (∀ t iid a, t < 10 → iid < 256 → a < 2 ^ 52 → tableAllows State.reset t iid a true true = isService iid) ∧
  State.reset.blocks = [] ∧ State.reset.launches = [] ∧ State.reset.elected = false ∧ State.reset.fatal = false ∧
  State.reset.Canonical

/-- R42. A step runs the decoded instruction: where the agenda issues an entry whose time has come, the step is the meaning of the
instruction that the entry's word decodes to, in the state in which that entry is the issuing one, and time passes; a word that
does not decode takes the illegal-instruction fault. The clause that an entry opens holds the words in memory from its header on. -/
def Obligations.StepRunsTheDecodedInstruction : Prop :=
  (∀ (s : State) (r : ERef) (rest : List Move) (c : Ctx) (w : W128), s.agenda = .issue r :: rest → s.fatal = false →
    outOfTurn { s with agenda := rest } r = false →
    let s0 := toIssue { s with agenda := rest } r
    ctxOf s0 = some c → c.e.notBefore ≤ c.clk → c.e.word = some w →
    (∀ i t, decode w = .ok i → exec i s0 = .next t → step s = .next (tick t)) ∧
    (∀ e, decode w = .error e → step s = .next (tick (takeFault s0 c 1 0 0 c.e.mask)))) ∧
  (∀ (s : State) (b : Block) (a : Nat) (l : List W128), fetchClause s b a = .ok l → ∀ k w, l[k]? = some w →
    fetchWord s b (a + 16 * k) = .ok w)

/-- The model's placing of a program (log entry 11): the instruction that is placed for the next step is the one that the next step
runs, with every lane of one wave taking part. -/
def Obligations.PlacedWordRunsNext : Prop :=
  ∀ (w : Nat) (i : Instr) (t : State), decodeTableWord 128 w = some i →
    let s := State.reset.withFetchWord 128 w
    let s0 := toIssue { s with agenda := [] } { blk := 1, wave := 0, lane := 0 }
    (∃ c, ctxOf s0 = some c ∧ c.e.mask = 0xFFFFFFFF ∧ c.e.word = some (BitVec.ofNat 128 w)) ∧
    (exec i s0 = .next t → step s = .next (tick t))

/-- Words written out from the manual's encodings decode to the instructions that they stand for: one of every family. -/
def Obligations.SpecWordsDecode : Prop :=
  decodeTableWord 128 0x00003DE0000000018D63201804050802 = some (.iaddc (plain .n32 (.v 10) (.v 2) (.v 3) (.p 1) (.p 2))) ∧
  decodeTableWord 128 0x00003DE000000001FFFFE01804008042 = some (.xor (plain .b32 (.v 1) (.v 2) (.v 3) .none .none)) ∧
  decodeTableWord 128 0x00083DE0004C4001FFF0001002020C83 = some (.ffma { plain .f32 (.v 4) (.v 1) (.v 2) (.flt 0) .none with sm2 := 0x262, stall := 1 }) ∧
  decodeTableWord 128 0x00003C6000000001FFFFFFFD00028CC0 = some (.frcp { plain .f32 (.v 5) (.q 0) .none .none .none with ga := 3 }) ∧
  decodeTableWord 128 0x00003DE000000001FFFFFA0804008D00 = some (.cvt (plain .f32 (.v 1) (.v 2) (.int 1) .none .none)) ∧
  decodeTableWord 128 0x00003DE000000001FFE84018058C8540 = some (.isetp (plain .i32 (.p 1) (.v 2) (.v 3) (.int 2) .none)) ∧
  decodeTableWord 128 0x00003DE000000001FFFFE01804008180 = some (.shfl (plain .b32 (.v 1) (.v 2) (.v 3) .none .none)) ∧
  decodeTableWord 128 0x00003C2000000001FFFFFFFE6FFFFDC0 = some (.bra { plain .none .none .litLo .none .none .none with ga := 1 }) ∧
  decodeTableWord 128 0x00003DE000000001FFFFFFFD319481C7 = some (.mskmov (plain .b32 (.m 1) (.s 8) .none .none .none)) ∧
  decodeTableWord 128 0x00003DE000000001FFFFFA8528040200 = some (.ld (plain .b32 (.v 8) (.s 4) (.int 16) .none .none)) ∧
  decodeTableWord 128 0x00003DE00000003BA00079B00C010A41 = some (.atomr { plain .n32 (.v 2) (.v 6) .zero (.v 3) (.int 0) with sm1 := 0x01D }) ∧
  decodeTableWord 128 0x00003DE000000001FFE35A06874AFE81 = some (.acqt (plain .none (.s 5) (.int 3) (.int 0) (.p 2) .none)) ∧
  decodeTableWord 128 0x00003DE000000001FFFFFFF80DFFFE88 = some (.regroup (plain .none .none (.v 6) .none .none .none)) ∧
  decodeTableWord 128 0x00003DE000000001FFE97A46F1FF82C4 = some (.minit (plain .b32 .none (.int 56) (.int 8) (.int 11) .none)) ∧
  decodeTableWord 128 0x00003DE000000001FFFFFFFFFFFFFF00 = some (.gbar (plain .none .none .none .none .none .none)) ∧
  decodeTableWord 128 0x00003DE000000001FFE8BA1529FFFF04 = some (.blaze (plain .none .none (.s 4) (.int 2) (.int 5) .none)) ∧
  decodeTableWord 128 0x00003DE000000001A0E8204009FF8F40 = some (.pxst (plain .f32 .none (.v 4) (.v 8) (.int 1) (.int 1))) ∧
  decodeTableWord 128 0x00003DE000000001FFFFFFFE8BFFFF80 = some (.trap (plain .none .none (.int 5) .none .none .none)) ∧
  decodeTableWord 128 0x00003DE000000001A16880868FFFFF81 = some (.svc (plain .none .none (.int 7) (.v 16) (.int 4) (.int 2)))

/-- R32, R37, R41 and the encoding tables. Every well-formed instruction is read back from its word: no bit of a field is dropped, with every
operand, modifier, guard and type at every value that the encoding admits. -/
def Obligations.DecodeOfEncode : Prop :=
  ∀ (i : Instr) (w : W128), i.wf = true → encode i = some w → decode w = .ok i

/-- R32, R41. What the decoder accepts is well formed, and its word is the instruction's own encoding: every word has one meaning. -/
def Obligations.EncodeOfDecode : Prop :=
  ∀ (i : Instr) (w : W128), decode w = .ok i → i.wf = true ∧ encode i = some w

/-- The canonical forms of memory, of the control block and of the frame table (keys strictly rise, and no entry holds what an unlisted key
reads as) are kept by every step of the device, from every state that has them. -/
def Obligations.CanonicalFormsKept : Prop :=
  ∀ (s t : State), s.Canonical → step s = .next t → t.Canonical

/-- R42, R74, R75. The frame of the instructions that compute a value: only the issuing wave changes, and in it no register, predicate or mask
but the destination, of the queues only those that a source names, from their front, and of MODE the sticky bits alone; the result queue
takes the result's entries and changes in no other way. The wave keeps its number, half and role. Every byte of memory, every special
register and every other wave stays. An instruction that goes on changes nothing but its wave's entries and flags beyond its effect. -/
def Obligations.ValueInstructionsFrame : Prop :=
  (∀ (i : Instr) (opc : Nat) (f : Fields) (v : ValueOp) (s : State) (c : Ctx) (ls : List (List Nat)) (w : Wave),
    integerValue i = some (opc, f, v) ∨ bitValue i = some (opc, f, v) ∨ floatValue i = some (opc, f, v) ∨
      conversionValue i = some (opc, f, v) →
    ValueReady v opc f s c ls w → ∃ t g, exec i s = .next t ∧ OnlyWave { blk := c.ref.blk, wave := c.ref.wave } g s t ∧
      SameOutside (destRegs f.op0 v.pair) c.w (g c.w) ∧ QueuesAfter v opc f c.w (g c.w)) ∧
  (∀ (c : Ctx) (f : Fields) (s t : State), goesOn c f s = .next t → ∃ g, OnlyWave { blk := c.ref.blk, wave := c.ref.wave } g s t ∧
    ∀ w, SameOutside [] w (g w) ∧ SameQueues w (g w)) ∧
  (∀ (c : Ctx) (s t : State), goesTo c s = .next t → ∃ g, OnlyWave { blk := c.ref.blk, wave := c.ref.wave } g s t ∧
    ∀ w, SameOutside [] w (g w) ∧ SameQueues w (g w))

/-- R155, R162, R230. What stores leave alone. A plain store's bytes reach memory when the store is performed, and no other byte changes; a
store to the stash outside every window changes its bytes of the block's stash and nothing of memory; registers stay. -/
def Obligations.StoresChangeTheirBytes : Prop :=
  (∀ (s : State) (die core idx : Nat) (p : Pending), s.Canonical →
    (s.path.filter fun p => p.die == die && p.core == core)[idx]? = some p →
    ((s.path.filter fun p => p.die == die && p.core == core).take idx).any p.follows = false →
    storeWaits s p = false → s.flipsOf p.key = [] → pixelLost s p = false →
    (s.blocks.all fun b => b.die != die || b.core != core || b.barrier.isNone) = true →
    ∃ t, exec (.backgroundComplete die core idx false) s = .next t ∧ t.path = s.path.erase p ∧ t.dcb = s.dcb ∧ t.frames = s.frames ∧
      (∀ i, i < p.bytes.length → t.byte (p.key + i) = (p.bytes[i]?).getD 0) ∧
      (∀ a, a < p.key ∨ p.key + p.bytes.length ≤ a → t.byte a = s.byte a) ∧
      ∀ r, (t.wave? r).map (fun x => (x.2.v, x.2.s, x.2.p, x.2.mode, x.2.frontier)) =
        (s.wave? r).map fun x => (x.2.v, x.2.s, x.2.p, x.2.mode, x.2.frontier)) ∧
  (∀ (s : State) (b : Block) (off : Nat) (l : List Byte), s.block? b.uid = some b → b.windows = [] → spSorted b.stash = true →
    let t := writeStash b.uid s off l
    t.mem = s.mem ∧ t.dcb = s.dcb ∧ ∃ b', t.block? b.uid = some b' ∧ b'.waves = b.waves ∧
      (∀ i, i < l.length → spGet 0 b'.stash (off + i) = (l[i]?).getD 0) ∧
      (∀ a, a < off ∨ off + l.length ≤ a → spGet 0 b'.stash a = spGet 0 b.stash a)) ∧
  (∀ (s : State) (c : Ctx) (disp : Option (Nat × Nat × Nat)) (hint va : Nat) (l : List Byte) (q : Place), q.ca = 0 → (∀ off, q.tgt ≠ .dcb off) →
    (storeAt s c disp hint va l (.mem q)).mem = s.mem ∧ (storeAt s c disp hint va l (.mem q)).blocks = s.blocks)

/-- R10. Entries are ordered by priority, then by header address, then by index; and the order is total: of two entries at different
positions of one wave exactly one comes first. -/
def Obligations.EntryOrder : Prop :=
  (∀ a e : Entry, a.before e = true ↔
    e.prio < a.prio ∨ (a.prio = e.prio ∧ (a.hdr < e.hdr ∨ (a.hdr = e.hdr ∧ a.idx < e.idx)))) ∧
  (∀ a e : Entry, ¬ (a.prio = e.prio ∧ a.hdr = e.hdr ∧ a.idx = e.idx) → (a.before e = true ↔ e.before a = false)) ∧
  (∀ a b e : Entry, a.before b = true → b.before e = true → a.before e = true)

/-- R344. Every pixel that a display sends has three channels, each the scanout value of its composed channel, at 10 bits per channel or
at 8; alpha is not among them. -/
def Obligations.ScanoutValues : Prop :=
  ∀ (s : State) (d : Nat) (us : List Used), scanOf s d us = (screenPixels s d).map fun q =>
    let p := composed s d us q.1 q.2
    if s.regBits (dispOff d) 1 1 = 1 then
      ((p.r * 1023 + 32767) / 65535, (p.g * 1023 + 32767) / 65535, (p.b * 1023 + 32767) / 65535)
    else ((p.r * 255 + 32767) / 65535, (p.g * 255 + 32767) / 65535, (p.b * 255 + 32767) / 65535)

/-- R324. MQLIM, bits 31:0, takes what is written; MQUSED, bits 63:32, does not; both are 0 after reset. A limit below what is used is accepted, takes no
frame away, and refuses the owner's further ASSIGNs. -/
def Obligations.FrameLimits : Prop :=
  ∀ (s : State) (oid : Nat) (v : W64), oid < 4096 → spSorted s.dcb = true →
    State.reset.reg (mqOff oid) = 0 ∧
    ∃ t, exec (.registerWrite (.core (mqOff oid)) v) s = .next t ∧ mqLim t oid = v.toNat % 2 ^ 32 ∧ mqUsed t oid = mqUsed s oid ∧
      t.frames = s.frames ∧
      ∀ p lin, oid ≠ 0 → mqLim t oid ≤ mqUsed t oid → (t.frame p).v = false → viewClash t p lin = false →
        ftAssign t p oid lin = (1, t)
end

