-- ==== Sys2Proof/Laws/Dispatch.lean ====
section
/-!
SUPPORT. The meaning that each instruction and event has, as an equation.
-/
namespace Sys2Proof.Machine

variable (s : State)

@[simp] theorem exec_iadd (f : Fields) : exec (.iadd f) s = execIadd f s := rfl
@[simp] theorem exec_isub (f : Fields) : exec (.isub f) s = execIsub f s := rfl
@[simp] theorem exec_iaddc (f : Fields) : exec (.iaddc f) s = execIaddc f s := rfl
@[simp] theorem exec_isubb (f : Fields) : exec (.isubb f) s = execIsubb f s := rfl
@[simp] theorem exec_iadds (f : Fields) : exec (.iadds f) s = execIadds f s := rfl
@[simp] theorem exec_isubs (f : Fields) : exec (.isubs f) s = execIsubs f s := rfl
@[simp] theorem exec_imul (f : Fields) : exec (.imul f) s = execImul f s := rfl
@[simp] theorem exec_imulh (f : Fields) : exec (.imulh f) s = execImulh f s := rfl
@[simp] theorem exec_imad (f : Fields) : exec (.imad f) s = execImad f s := rfl
@[simp] theorem exec_imadw (f : Fields) : exec (.imadw f) s = execImadw f s := rfl
@[simp] theorem exec_idiv (f : Fields) : exec (.idiv f) s = execIdiv f s := rfl
@[simp] theorem exec_irem (f : Fields) : exec (.irem f) s = execIrem f s := rfl
@[simp] theorem exec_ineg (f : Fields) : exec (.ineg f) s = execIneg f s := rfl
@[simp] theorem exec_iabs (f : Fields) : exec (.iabs f) s = execIabs f s := rfl
@[simp] theorem exec_imin (f : Fields) : exec (.imin f) s = execImin f s := rfl
@[simp] theorem exec_imax (f : Fields) : exec (.imax f) s = execImax f s := rfl
@[simp] theorem exec_iclamp (f : Fields) : exec (.iclamp f) s = execIclamp f s := rfl
@[simp] theorem exec_idiff (f : Fields) : exec (.idiff f) s = execIdiff f s := rfl
@[simp] theorem exec_idp4 (f : Fields) : exec (.idp4 f) s = execIdp4 f s := rfl
@[simp] theorem exec_idp2 (f : Fields) : exec (.idp2 f) s = execIdp2 f s := rfl
@[simp] theorem exec_lea (f : Fields) : exec (.lea f) s = execLea f s := rfl
@[simp] theorem exec_mov (f : Fields) : exec (.mov f) s = execMov f s := rfl
@[simp] theorem exec_movw (f : Fields) : exec (.movw f) s = execMovw f s := rfl
@[simp] theorem exec_and (f : Fields) : exec (.and f) s = execAnd f s := rfl
@[simp] theorem exec_or (f : Fields) : exec (.or f) s = execOr f s := rfl
@[simp] theorem exec_xor (f : Fields) : exec (.xor f) s = execXor f s := rfl
@[simp] theorem exec_andn (f : Fields) : exec (.andn f) s = execAndn f s := rfl
@[simp] theorem exec_not (f : Fields) : exec (.not f) s = execNot f s := rfl
@[simp] theorem exec_shl (f : Fields) : exec (.shl f) s = execShl f s := rfl
@[simp] theorem exec_shr (f : Fields) : exec (.shr f) s = execShr f s := rfl
@[simp] theorem exec_sar (f : Fields) : exec (.sar f) s = execSar f s := rfl
@[simp] theorem exec_rotl (f : Fields) : exec (.rotl f) s = execRotl f s := rfl
@[simp] theorem exec_rotr (f : Fields) : exec (.rotr f) s = execRotr f s := rfl
@[simp] theorem exec_funnel (f : Fields) : exec (.funnel f) s = execFunnel f s := rfl
@[simp] theorem exec_bfx (f : Fields) : exec (.bfx f) s = execBfx f s := rfl
@[simp] theorem exec_bfi (f : Fields) : exec (.bfi f) s = execBfi f s := rfl
@[simp] theorem exec_brev (f : Fields) : exec (.brev f) s = execBrev f s := rfl
@[simp] theorem exec_popc (f : Fields) : exec (.popc f) s = execPopc f s := rfl
@[simp] theorem exec_clz (f : Fields) : exec (.clz f) s = execClz f s := rfl
@[simp] theorem exec_ctz (f : Fields) : exec (.ctz f) s = execCtz f s := rfl
@[simp] theorem exec_fadd (f : Fields) : exec (.fadd f) s = execFadd f s := rfl
@[simp] theorem exec_fsub (f : Fields) : exec (.fsub f) s = execFsub f s := rfl
@[simp] theorem exec_fmul (f : Fields) : exec (.fmul f) s = execFmul f s := rfl
@[simp] theorem exec_ffma (f : Fields) : exec (.ffma f) s = execFfma f s := rfl
@[simp] theorem exec_fmin (f : Fields) : exec (.fmin f) s = execFmin f s := rfl
@[simp] theorem exec_fmax (f : Fields) : exec (.fmax f) s = execFmax f s := rfl
@[simp] theorem exec_fminn (f : Fields) : exec (.fminn f) s = execFminn f s := rfl
@[simp] theorem exec_fmaxn (f : Fields) : exec (.fmaxn f) s = execFmaxn f s := rfl
@[simp] theorem exec_fabs (f : Fields) : exec (.fabs f) s = execFabs f s := rfl
@[simp] theorem exec_fclamp (f : Fields) : exec (.fclamp f) s = execFclamp f s := rfl
@[simp] theorem exec_frnd (f : Fields) : exec (.frnd f) s = execFrnd f s := rfl
@[simp] theorem exec_ffrac (f : Fields) : exec (.ffrac f) s = execFfrac f s := rfl
@[simp] theorem exec_fscl (f : Fields) : exec (.fscl f) s = execFscl f s := rfl
@[simp] theorem exec_fexpn (f : Fields) : exec (.fexpn f) s = execFexpn f s := rfl
@[simp] theorem exec_fmant (f : Fields) : exec (.fmant f) s = execFmant f s := rfl
@[simp] theorem exec_fdiv (f : Fields) : exec (.fdiv f) s = execFdiv f s := rfl
@[simp] theorem exec_fsqrt (f : Fields) : exec (.fsqrt f) s = execFsqrt f s := rfl
@[simp] theorem exec_frcp (f : Fields) : exec (.frcp f) s = execFrcp f s := rfl
@[simp] theorem exec_frsq (f : Fields) : exec (.frsq f) s = execFrsq f s := rfl
@[simp] theorem exec_fexp2 (f : Fields) : exec (.fexp2 f) s = execFexp2 f s := rfl
@[simp] theorem exec_flog2 (f : Fields) : exec (.flog2 f) s = execFlog2 f s := rfl
@[simp] theorem exec_fsin (f : Fields) : exec (.fsin f) s = execFsin f s := rfl
@[simp] theorem exec_fcos (f : Fields) : exec (.fcos f) s = execFcos f s := rfl
@[simp] theorem exec_ftanh (f : Fields) : exec (.ftanh f) s = execFtanh f s := rfl
@[simp] theorem exec_cvt (f : Fields) : exec (.cvt f) s = execCvt f s := rfl
@[simp] theorem exec_pack (f : Fields) : exec (.pack f) s = execPack f s := rfl
@[simp] theorem exec_unpk (f : Fields) : exec (.unpk f) s = execUnpk f s := rfl
@[simp] theorem exec_bpack (f : Fields) : exec (.bpack f) s = execBpack f s := rfl
@[simp] theorem exec_bunpk (f : Fields) : exec (.bunpk f) s = execBunpk f s := rfl
@[simp] theorem exec_isetp (f : Fields) : exec (.isetp f) s = execIsetp f s := rfl
@[simp] theorem exec_fsetp (f : Fields) : exec (.fsetp f) s = execFsetp f s := rfl
@[simp] theorem exec_fclass (f : Fields) : exec (.fclass f) s = execFclass f s := rfl
@[simp] theorem exec_sel (f : Fields) : exec (.sel f) s = execSel f s := rfl
@[simp] theorem exec_plop (f : Fields) : exec (.plop f) s = execPlop f s := rfl
@[simp] theorem exec_ptov (f : Fields) : exec (.ptov f) s = execPtov f s := rfl
@[simp] theorem exec_vtop (f : Fields) : exec (.vtop f) s = execVtop f s := rfl
@[simp] theorem exec_shfl (f : Fields) : exec (.shfl f) s = execShfl f s := rfl
@[simp] theorem exec_tlu (f : Fields) : exec (.tlu f) s = execTlu f s := rfl
@[simp] theorem exec_zip2 (f : Fields) : exec (.zip2 f) s = execZip2 f s := rfl
@[simp] theorem exec_zip3 (f : Fields) : exec (.zip3 f) s = execZip3 f s := rfl
@[simp] theorem exec_zip4 (f : Fields) : exec (.zip4 f) s = execZip4 f s := rfl
@[simp] theorem exec_unz2 (f : Fields) : exec (.unz2 f) s = execUnz2 f s := rfl
@[simp] theorem exec_unz3 (f : Fields) : exec (.unz3 f) s = execUnz3 f s := rfl
@[simp] theorem exec_unz4 (f : Fields) : exec (.unz4 f) s = execUnz4 f s := rfl
@[simp] theorem exec_vote (f : Fields) : exec (.vote f) s = execVote f s := rfl
@[simp] theorem exec_reduce (f : Fields) : exec (.reduce f) s = execReduce f s := rfl
@[simp] theorem exec_wscan (f : Fields) : exec (.wscan f) s = execWscan f s := rfl
@[simp] theorem exec_rdlane (f : Fields) : exec (.rdlane f) s = execRdlane f s := rfl
@[simp] theorem exec_bra (f : Fields) : exec (.bra f) s = execBra f s := rfl
@[simp] theorem exec_brx (f : Fields) : exec (.brx f) s = execBrx f s := rfl
@[simp] theorem exec_call (f : Fields) : exec (.call f) s = execCall f s := rfl
@[simp] theorem exec_callB64 (f : Fields) : exec (.callB64 f) s = execCallB64 f s := rfl
@[simp] theorem exec_ret (f : Fields) : exec (.ret f) s = execRet f s := rfl
@[simp] theorem exec_joinm (f : Fields) : exec (.joinm f) s = execJoinm f s := rfl
@[simp] theorem exec_leavem (f : Fields) : exec (.leavem f) s = execLeavem f s := rfl
@[simp] theorem exec_waitm (f : Fields) : exec (.waitm f) s = execWaitm f s := rfl
@[simp] theorem exec_mskmov (f : Fields) : exec (.mskmov f) s = execMskmov f s := rfl
@[simp] theorem exec_exit (f : Fields) : exec (.exit f) s = execExit f s := rfl
@[simp] theorem exec_nop (f : Fields) : exec (.nop f) s = execNop f s := rfl
@[simp] theorem exec_yield (f : Fields) : exec (.yield f) s = execYield f s := rfl
@[simp] theorem exec_ld (f : Fields) : exec (.ld f) s = execLd f s := rfl
@[simp] theorem exec_st (f : Fields) : exec (.st f) s = execSt f s := rfl
@[simp] theorem exec_lds (f : Fields) : exec (.lds f) s = execLds f s := rfl
@[simp] theorem exec_sts (f : Fields) : exec (.sts f) s = execSts f s := rfl
@[simp] theorem exec_stmap (f : Fields) : exec (.stmap f) s = execStmap f s := rfl
@[simp] theorem exec_stunmap (f : Fields) : exec (.stunmap f) s = execStunmap f s := rfl
@[simp] theorem exec_stflush (f : Fields) : exec (.stflush f) s = execStflush f s := rfl
@[simp] theorem exec_pref (f : Fields) : exec (.pref f) s = execPref f s := rfl
@[simp] theorem exec_atom (f : Fields) : exec (.atom f) s = execAtom f s := rfl
@[simp] theorem exec_atomr (f : Fields) : exec (.atomr f) s = execAtomr f s := rfl
@[simp] theorem exec_cas (f : Fields) : exec (.cas f) s = execCas f s := rfl
@[simp] theorem exec_lr (f : Fields) : exec (.lr f) s = execLr f s := rfl
@[simp] theorem exec_sc (f : Fields) : exec (.sc f) s = execSc f s := rfl
@[simp] theorem exec_fence (f : Fields) : exec (.fence f) s = execFence f s := rfl
@[simp] theorem exec_waita (f : Fields) : exec (.waita f) s = execWaita f s := rfl
@[simp] theorem exec_waitaReevaluate (e : ERef) : exec (.waitaReevaluate e) s = execWaitaReevaluate e s := rfl
@[simp] theorem exec_waitaTimeout (e : ERef) : exec (.waitaTimeout e) s = execWaitaTimeout e s := rfl
@[simp] theorem exec_acqReg (f : Fields) : exec (.acqReg f) s = execAcqReg f s := rfl
@[simp] theorem exec_acqMslot (f : Fields) : exec (.acqMslot f) s = execAcqMslot f s := rfl
@[simp] theorem exec_acqt (f : Fields) : exec (.acqt f) s = execAcqt f s := rfl
@[simp] theorem exec_rel (f : Fields) : exec (.rel f) s = execRel f s := rfl
@[simp] theorem exec_give (f : Fields) : exec (.give f) s = execGive f s := rfl
@[simp] theorem exec_claim (f : Fields) : exec (.claim f) s = execClaim f s := rfl
@[simp] theorem exec_carveGet (f : Fields) : exec (.carveGet f) s = execCarveGet f s := rfl
@[simp] theorem exec_carveTry (f : Fields) : exec (.carveTry f) s = execCarveTry f s := rfl
@[simp] theorem exec_carvePut (f : Fields) : exec (.carvePut f) s = execCarvePut f s := rfl
@[simp] theorem exec_phase (f : Fields) : exec (.phase f) s = execPhase f s := rfl
@[simp] theorem exec_bar (f : Fields) : exec (.bar f) s = execBar f s := rfl
@[simp] theorem exec_regroup (f : Fields) : exec (.regroup f) s = execRegroup f s := rfl
@[simp] theorem exec_mtenQuiesce (f : Fields) : exec (.mtenQuiesce f) s = execMtenQuiesce f s := rfl
@[simp] theorem exec_mtenResume (f : Fields) : exec (.mtenResume f) s = execMtenResume f s := rfl
@[simp] theorem exec_mtenReset (f : Fields) : exec (.mtenReset f) s = execMtenReset f s := rfl
@[simp] theorem exec_mtenCtr (f : Fields) : exec (.mtenCtr f) s = execMtenCtr f s := rfl
@[simp] theorem exec_mwld (f : Fields) : exec (.mwld f) s = execMwld f s := rfl
@[simp] theorem exec_mswap (f : Fields) : exec (.mswap f) s = execMswap f s := rfl
@[simp] theorem exec_mrun (f : Fields) : exec (.mrun f) s = execMrun f s := rfl
@[simp] theorem exec_minit (f : Fields) : exec (.minit f) s = execMinit f s := rfl
@[simp] theorem exec_mrda (f : Fields) : exec (.mrda f) s = execMrda f s := rfl
@[simp] theorem exec_mrdaOvf (f : Fields) : exec (.mrdaOvf f) s = execMrdaOvf f s := rfl
@[simp] theorem exec_msync (f : Fields) : exec (.msync f) s = execMsync f s := rfl
@[simp] theorem exec_enqE0 (f : Fields) : exec (.enqE0 f) s = execEnqE0 f s := rfl
@[simp] theorem exec_enqE1 (f : Fields) : exec (.enqE1 f) s = execEnqE1 f s := rfl
@[simp] theorem exec_deq (f : Fields) : exec (.deq f) s = execDeq f s := rfl
@[simp] theorem exec_mwldExecute (blk : Nat) : exec (.mwldExecute blk) s = execMwldExecute blk s := rfl
@[simp] theorem exec_mswapExecute (blk : Nat) : exec (.mswapExecute blk) s = execMswapExecute blk s := rfl
@[simp] theorem exec_mrunExecute (blk : Nat) : exec (.mrunExecute blk) s = execMrunExecute blk s := rfl
@[simp] theorem exec_minitExecute (blk : Nat) : exec (.minitExecute blk) s = execMinitExecute blk s := rfl
@[simp] theorem exec_mrdaExecute (blk : Nat) : exec (.mrdaExecute blk) s = execMrdaExecute blk s := rfl
@[simp] theorem exec_slotChangeEffect (blk : Nat) : exec (.slotChangeEffect blk) s = execSlotChangeEffect blk s := rfl
@[simp] theorem exec_gbar (f : Fields) : exec (.gbar f) s = execGbar f s := rfl
@[simp] theorem exec_gbarComplete (gang : Nat) : exec (.gbarComplete gang) s = execGbarComplete gang s := rfl
@[simp] theorem exec_cpy (f : Fields) : exec (.cpy f) s = execCpy f s := rfl
@[simp] theorem exec_cpyS (f : Fields) : exec (.cpyS f) s = execCpyS f s := rfl
@[simp] theorem exec_copyExecute (cid : Nat) : exec (.copyExecute cid) s = execCopyExecute cid s := rfl
@[simp] theorem exec_copyStatusPush (cid : Nat) : exec (.copyStatusPush cid) s = execCopyStatusPush cid s := rfl
@[simp] theorem exec_launch (f : Fields) : exec (.launch f) s = execLaunch f s := rfl
@[simp] theorem exec_grun (f : Fields) : exec (.grun f) s = execGrun f s := rfl
@[simp] theorem exec_blaze (f : Fields) : exec (.blaze f) s = execBlaze f s := rfl
@[simp] theorem exec_blzq (f : Fields) : exec (.blzq f) s = execBlzq f s := rfl
@[simp] theorem exec_blzdrop (f : Fields) : exec (.blzdrop f) s = execBlzdrop f s := rfl
@[simp] theorem exec_pxst (f : Fields) : exec (.pxst f) s = execPxst f s := rfl
@[simp] theorem exec_pxld (f : Fields) : exec (.pxld f) s = execPxld f s := rfl
@[simp] theorem exec_tex (f : Fields) : exec (.tex f) s = execTex f s := rfl
@[simp] theorem exec_texf (f : Fields) : exec (.texf f) s = execTexf f s := rfl
@[simp] theorem exec_rast (f : Fields) : exec (.rast f) s = execRast f s := rfl
@[simp] theorem exec_trap (f : Fields) : exec (.trap f) s = execTrap f s := rfl
@[simp] theorem exec_svc (f : Fields) : exec (.svc f) s = execSvc f s := rfl
@[simp] theorem exec_rtt (f : Fields) : exec (.rtt f) s = execRtt f s := rfl
@[simp] theorem exec_brkp (f : Fields) : exec (.brkp f) s = execBrkp f s := rfl
@[simp] theorem exec_mfsr (f : Fields) : exec (.mfsr f) s = execMfsr f s := rfl
@[simp] theorem exec_mtsr (f : Fields) : exec (.mtsr f) s = execMtsr f s := rfl
@[simp] theorem exec_roundOpen (w : WRef) : exec (.roundOpen w) s = execRoundOpen w s := rfl
@[simp] theorem exec_longLatencyComplete (w : WRef) (op : Nat) : exec (.longLatencyComplete w op) s = execLongLatencyComplete w op s := rfl
@[simp] theorem exec_e6Push (w : WRef) : exec (.e6Push w) s = execE6Push w s := rfl
@[simp] theorem exec_waveEnd (w : WRef) : exec (.waveEnd w) s = execWaveEnd w s := rfl
@[simp] theorem exec_pendingGrant (die core : Nat) : exec (.pendingGrant die core) s = execPendingGrant die core s := rfl
@[simp] theorem exec_phaseEnd (blk : Nat) : exec (.phaseEnd blk) s = execPhaseEnd blk s := rfl
@[simp] theorem exec_regroupPermute (blk : Nat) : exec (.regroupPermute blk) s = execRegroupPermute blk s := rfl
@[simp] theorem exec_dirReadShared (line : Nat) (h : Holder) : exec (.dirReadShared line h) s = execDirReadShared line h s := rfl
@[simp] theorem exec_dirReadOwn (line : Nat) (h : Holder) : exec (.dirReadOwn line h) s = execDirReadOwn line h s := rfl
@[simp] theorem exec_dirWriteBack (line : Nat) (h : Holder) : exec (.dirWriteBack line h) s = execDirWriteBack line h s := rfl
@[simp] theorem exec_dirRecall (line : Nat) (h : Holder) (toShared : Bool) : exec (.dirRecall line h toShared) s = execDirRecall line h toShared s := rfl
@[simp] theorem exec_promote (blk : Nat) : exec (.promote blk) s = execPromote blk s := rfl
@[simp] theorem exec_racqProceed (e : ERef) : exec (.racqProceed e) s = execRacqProceed e s := rfl
@[simp] theorem exec_pageFaultResolve (pf : Nat) (r : PfAnswer) : exec (.pageFaultResolve pf r) s = execPageFaultResolve pf r s := rfl
@[simp] theorem exec_queueArrival (qid : Nat) : exec (.queueArrival qid) s = execQueueArrival qid s := rfl
@[simp] theorem exec_queueEntryAccept (qid : Nat) : exec (.queueEntryAccept qid) s = execQueueEntryAccept qid s := rfl
@[simp] theorem exec_blockCreate (launch : Nat) : exec (.blockCreate launch) s = execBlockCreate launch s := rfl
@[simp] theorem exec_phaseReady (phase : Nat) : exec (.phaseReady phase) s = execPhaseReady phase s := rfl
@[simp] theorem exec_phaseDispatch (die core : Nat) : exec (.phaseDispatch die core) s = execPhaseDispatch die core s := rfl
@[simp] theorem exec_ageingPeriod (die : Nat) : exec (.ageingPeriod die) s = execAgeingPeriod die s := rfl
@[simp] theorem exec_launchComplete (launch : Nat) : exec (.launchComplete launch) s = execLaunchComplete launch s := rfl
@[simp] theorem exec_quotaPeriodStart (die : Nat) : exec (.quotaPeriodStart die) s = execQuotaPeriodStart die s := rfl
@[simp] theorem exec_quotaOverrun (die oid : Nat) : exec (.quotaOverrun die oid) s = execQuotaOverrun die oid s := rfl
@[simp] theorem exec_blazePublish (pub : Nat) : exec (.blazePublish pub) s = execBlazePublish pub s := rfl
@[simp] theorem exec_graphRunStart (die : Nat) : exec (.graphRunStart die) s = execGraphRunStart die s := rfl
@[simp] theorem exec_nodeComplete (run node : Nat) : exec (.nodeComplete run node) s = execNodeComplete run node s := rfl
@[simp] theorem exec_priorityPreempt (die : Nat) : exec (.priorityPreempt die) s = execPriorityPreempt die s := rfl
@[simp] theorem exec_blockPark (blk : Nat) : exec (.blockPark blk) s = execBlockPark blk s := rfl
@[simp] theorem exec_svcReplyLand (oid slot : Nat) (bytes : List Byte) : exec (.svcReplyLand oid slot bytes) s = execSvcReplyLand oid slot bytes s := rfl
@[simp] theorem exec_svcReplyDeliver (w : WRef) : exec (.svcReplyDeliver w) s = execSvcReplyDeliver w s := rfl
@[simp] theorem exec_precmd (v : W64) : exec (.precmd v) s = execPrecmd v s := rfl
@[simp] theorem exec_preemptHalt (blk : Nat) : exec (.preemptHalt blk) s = execPreemptHalt blk s := rfl
@[simp] theorem exec_preemptSave (blk : Nat) : exec (.preemptSave blk) s = execPreemptSave blk s := rfl
@[simp] theorem exec_tlbi (v : W32) : exec (.tlbi v) s = execTlbi v s := rfl
@[simp] theorem exec_l2ModeSwitch (v : W32) : exec (.l2ModeSwitch v) s = execL2ModeSwitch v s := rfl
@[simp] theorem exec_ftAssign (v : W64) : exec (.ftAssign v) s = execFtAssign v s := rfl
@[simp] theorem exec_ftRelease (v : W64) : exec (.ftRelease v) s = execFtRelease v s := rfl
@[simp] theorem exec_ftBiasToHost (v : W64) : exec (.ftBiasToHost v) s = execFtBiasToHost v s := rfl
@[simp] theorem exec_ftBiasToDevice (v : W64) : exec (.ftBiasToDevice v) s = execFtBiasToDevice v s := rfl
@[simp] theorem exec_hostCxlMemRead (addr n : Nat) : exec (.hostCxlMemRead addr n) s = execHostCxlMemRead addr n s := rfl
@[simp] theorem exec_hostCxlMemWrite (addr : Nat) (bytes : List Byte) : exec (.hostCxlMemWrite addr bytes) s = execHostCxlMemWrite addr bytes s := rfl
@[simp] theorem exec_hostSnoop (line : Nat) (write : HostWrite) : exec (.hostSnoop line write) s = execHostSnoop line write s := rfl
@[simp] theorem exec_hostRegisterRead (fn off : Nat) : exec (.hostRegisterRead fn off) s = execHostRegisterRead fn off s := rfl
@[simp] theorem exec_msixSend (fn vec : Nat) : exec (.msixSend fn vec) s = execMsixSend fn vec s := rfl
@[simp] theorem exec_mailboxDoorbell (fn : Nat) : exec (.mailboxDoorbell fn) s = execMailboxDoorbell fn s := rfl
@[simp] theorem exec_mailboxReply (fn : Nat) (bytes : List Byte) : exec (.mailboxReply fn bytes) s = execMailboxReply fn bytes s := rfl
@[simp] theorem exec_joracFinalise (fn : Nat) : exec (.joracFinalise fn) s = execJoracFinalise fn s := rfl
@[simp] theorem exec_lockstepMismatch (die : Nat) : exec (.lockstepMismatch die) s = execLockstepMismatch die s := rfl
@[simp] theorem exec_heartbeatTimeout (die : Nat) : exec (.heartbeatTimeout die) s = execHeartbeatTimeout die s := rfl
@[simp] theorem exec_takeoverAttempt (die : Nat) : exec (.takeoverAttempt die) s = execTakeoverAttempt die s := rfl
@[simp] theorem exec_throttleDown (die : Nat) : exec (.throttleDown die) s = execThrottleDown die s := rfl
@[simp] theorem exec_throttleUp (die : Nat) : exec (.throttleUp die) s = execThrottleUp die s := rfl
@[simp] theorem exec_gladeEnable (g : Nat) : exec (.gladeEnable g) s = execGladeEnable g s := rfl
@[simp] theorem exec_gladeDisable (g : Nat) : exec (.gladeDisable g) s = execGladeDisable g s := rfl
@[simp] theorem exec_memlayWrite (v : BitVec 4) : exec (.memlayWrite v) s = execMemlayWrite v s := rfl
@[simp] theorem exec_accessTableWrite (t iid win : Nat) (v : W128) : exec (.accessTableWrite t iid win v) s = execAccessTableWrite t iid win v s := rfl
@[simp] theorem exec_peerRequest (p h addr : Nat) (r : PeerOp) : exec (.peerRequest p h addr r) s = execPeerRequest p h addr r s := rfl
@[simp] theorem exec_shenerMacFailure (port : Nat) : exec (.shenerMacFailure port) s = execShenerMacFailure port s := rfl
@[simp] theorem exec_functionLevelReset (n : Nat) : exec (.functionLevelReset n) s = execFunctionLevelReset n s := rfl
@[simp] theorem exec_tagWalkSweep (die : Nat) (v : W32) : exec (.tagWalkSweep die v) s = execTagWalkSweep die v s := rfl
@[simp] theorem exec_spdmGetMeasurements (fn : Nat) (r : SpdmRequest) : exec (.spdmGetMeasurements fn r) s = execSpdmGetMeasurements fn r s := rfl
@[simp] theorem exec_rollbackRecord (r : BitVec 1536) : exec (.rollbackRecord r) s = execRollbackRecord r s := rfl
@[simp] theorem exec_fatalError (cause : FatalCause) : exec (.fatalError cause) s = execFatalError cause s := rfl
@[simp] theorem exec_frameStart (d : Nat) : exec (.frameStart d) s = execFrameStart d s := rfl
@[simp] theorem exec_mapCommand (d : Nat) (v : W32) : exec (.mapCommand d v) s = execMapCommand d v s := rfl
@[simp] theorem exec_captureStart (d : Nat) (v : W64) : exec (.captureStart d v) s = execCaptureStart d v s := rfl
@[simp] theorem exec_displayEnable (d : Nat) (v : W64) : exec (.displayEnable d v) s = execDisplayEnable d v s := rfl
@[simp] theorem exec_displayDisable (d : Nat) (v : W64) : exec (.displayDisable d v) s = execDisplayDisable d v s := rfl
@[simp] theorem exec_registerWrite (port : RegPort) (v : W64) : exec (.registerWrite port v) s = execRegisterWrite port v s := rfl
@[simp] theorem exec_backgroundComplete (die core idx : Nat) (refused : Bool) : exec (.backgroundComplete die core idx refused) s = execBackgroundComplete die core idx refused s := rfl
@[simp] theorem exec_kill (t : KillTarget) : exec (.kill t) s = execKill t s := rfl
@[simp] theorem exec_shenerKeyExchange (k : ShenerKeys) : exec (.shenerKeyExchange k) s = execShenerKeyExchange k s := rfl
@[simp] theorem exec_firmwareImageUpdate (u : ImageUpdate) : exec (.firmwareImageUpdate u) s = execFirmwareImageUpdate u s := rfl
@[simp] theorem exec_leaderElection : exec (.leaderElection) s = execLeaderElection s := rfl
@[simp] theorem exec_heartbeat : exec (.heartbeat) s = execHeartbeat s := rfl
@[simp] theorem exec_deviceReset : exec (.deviceReset) s = execDeviceReset s := rfl
@[simp] theorem exec_biasFlipComplete : exec (.biasFlipComplete) s = execBiasFlipComplete s := rfl
@[simp] theorem exec_ideKmKeyProg (slot : IdeSlot) (key : BitVec 256) : exec (.ideKmKeyProg slot key) s = execIdeKmKeyProg slot key s := rfl

end Sys2Proof.Machine
end

