-- ==== Sys2Proof/Laws/Issue.lean ====
section
/-!
SUPPORT. What the issue of an instruction can answer (R42), once for every instruction.
-/
namespace Sys2Proof.Machine

/-- An instruction that stands to issue and whose meaning goes on moves its entry to the next position. -/
theorem issue_goesOn {opc : Nat} {f : Fields} {s t : State} {c : Ctx} {k : State → Ctx → Except Stop Go}
    (h : Stands opc f s c) (hk : k s.begun c = .ok (.seq t)) : issue opc f s k = goesOn c f t := by
  obtain ⟨h1, h2, h3, h4⟩ := h
  simp [State.begun] at hk
  simp [issue, h1, h2, issueChecked, h3, h4, hk, goesOn]

/-- An instruction that stands to issue and whose meaning has placed its lanes. -/
theorem issue_goesTo {opc : Nat} {f : Fields} {s t : State} {c : Ctx} {k : State → Ctx → Except Stop Go}
    (h : Stands opc f s c) (hk : k s.begun c = .ok (.placed t)) : issue opc f s k = goesTo c t := by
  obtain ⟨h1, h2, h3, h4⟩ := h
  simp [State.begun] at hk
  simp [issue, h1, h2, issueChecked, h3, h4, hk, goesTo]

/-- An instruction that stands to issue and whose meaning stops. -/
theorem issue_stops {opc : Nat} {f : Fields} {s : State} {c : Ctx} {e : Stop} {k : State → Ctx → Except Stop Go}
    (h : Stands opc f s c) (hk : k s.begun c = .error e) : issue opc f s k = stopsWith c f s e := by
  obtain ⟨h1, h2, h3, h4⟩ := h
  simp [State.begun] at hk
  simp [issue, h1, h2, issueChecked, h3, h4, hk, stopsWith, State.begun]

/-- Everything that the issue of an instruction can answer. -/
theorem issue_cases {opc : Nat} {f : Fields} {s : State} {c : Ctx} {k : State → Ctx → Except Stop Go} (h : ctxOf s = some c) :
    (scoreboard c opc f = true ∧ issue opc f s k = .next (stopped s c (.hold .blocked s))) ∨
    (issue opc f s k = .next (takeFault s.begun c 1 0 0 c.e.mask)) ∨
    (∃ e, k s.begun c = .error e ∧ issue opc f s k = stopsWith c f s e) ∨
    (∃ t, k s.begun c = .ok (.seq t) ∧ issue opc f s k = goesOn c f t) ∨
    (∃ t, k s.begun c = .ok (.placed t) ∧ issue opc f s k = goesTo c t) := by
  by_cases hs : scoreboard c opc f = true
  · exact .inl ⟨hs, by simp [issue, h, hs]⟩
  · simp only [Bool.not_eq_true] at hs
    refine .inr ?_
    rcases hc : check opc f with _ | _
    · exact .inl (by simp [issue, h, hs, issueChecked, hc, State.begun])
    · by_cases hp : placedWell c opc = true
      · have st : Stands opc f s c := ⟨h, hs, hc, hp⟩
        rcases hk : k s.begun c with e | g
        · exact .inr (.inl ⟨e, rfl, issue_stops st hk⟩)
        · cases g with
          | seq t => exact .inr (.inr (.inl ⟨t, rfl, issue_goesOn st hk⟩))
          | placed t => exact .inr (.inr (.inr ⟨t, rfl, issue_goesTo st hk⟩))
      · exact .inl (by simp [issue, h, hs, issueChecked, hc, hp, State.begun])

/-- Nothing issues where no entry stands to issue. -/
theorem issue_none {opc : Nat} {f : Fields} {s : State} {k : State → Ctx → Except Stop Go} (h : ctxOf s = none) :
    issue opc f s k = .refused .noIssuingEntry := by
  simp [issue, h]

end Sys2Proof.Machine
end

