-- ==== Sys2Proof/Laws/Sparse.lean ====
section
/-!
SUPPORT. Sparse data: what a read finds after a write, and the canonical form, which every operation keeps.
-/
namespace Sys2Proof.Machine

variable {α : Type}

/-! ## Reads after writes -/

theorem spGet_spIns_same (d : α) (k : Nat) (x : α) (l : Sparse α) : spGet d (spIns k x l) k = x := by
  induction l with
  | nil => simp [spIns, spGet]
  | cons e t ih =>
    obtain ⟨j, y⟩ := e
    simp only [spIns]
    split
    · simp [spGet]
    · split
      · simp [spGet]
      · rename_i h; simp [spGet, h, ih]

theorem spGet_spIns_other (d : α) {k j : Nat} (x : α) (l : Sparse α) (h : j ≠ k) : spGet d (spIns k x l) j = spGet d l j := by
  induction l with
  | nil => simp [spIns, spGet, h]
  | cons e t ih =>
    obtain ⟨i, y⟩ := e
    simp only [spIns]
    split
    · simp [spGet, h]
    · split
      · rename_i hk; subst hk; simp [spGet, h]
      · simp [spGet, ih]

theorem spGet_spDel_other (d : α) {k j : Nat} (l : Sparse α) (h : j ≠ k) : spGet d (spDel k l) j = spGet d l j := by
  induction l with
  | nil => rfl
  | cons e t ih =>
    obtain ⟨i, y⟩ := e
    simp only [spDel]
    split
    · rename_i hk; subst hk; simp [spGet, h]
    · simp [spGet, ih]

/-- A write leaves every other key alone. -/
theorem spGet_spSet_other [DecidableEq α] (d : α) {k j : Nat} (x : α) (l : Sparse α) (h : j ≠ k) :
    spGet d (spSet d k x l) j = spGet d l j := by
  unfold spSet; split
  · exact spGet_spDel_other d l h
  · exact spGet_spIns_other d x l h

/-- The same where the default differs from key to key. -/
theorem spGet_writes_other [DecidableEq α] {d e : α} {k j : Nat} (x : α) (l : Sparse α) (h : j ≠ k) :
    spGet e (spSet d k x l) j = spGet e l j := by
  unfold spSet; split
  · exact spGet_spDel_other e l h
  · exact spGet_spIns_other e x l h

/-- A write of anything but the default is read back. -/
theorem spGet_spSet_same_of_ne [DecidableEq α] (d : α) (k : Nat) {x : α} (l : Sparse α) (h : x ≠ d) :
    spGet d (spSet d k x l) k = x := by
  simp [spSet, h, spGet_spIns_same]

/-! ## The order of the keys -/

/-- Every key is greater than `k`. -/
def AboveKey (k : Nat) (l : Sparse α) : Prop := ∀ e ∈ l, k < e.1

theorem spSorted_cons {k : Nat} {x : α} {l : Sparse α} : spSorted ((k, x) :: l) = true ↔ AboveKey k l ∧ spSorted l = true := by
  induction l generalizing k x with
  | nil => simp [spSorted, AboveKey]
  | cons e t ih =>
    obtain ⟨j, y⟩ := e
    rw [spSorted]
    simp only [Bool.and_eq_true, decide_eq_true_eq, AboveKey, List.mem_cons, forall_eq_or_imp]
    constructor
    · rintro ⟨h1, h2⟩
      exact ⟨⟨h1, fun e he => Nat.lt_trans h1 ((ih.mp h2).1 e he)⟩, h2⟩
    · rintro ⟨⟨h1, _⟩, h2⟩
      exact ⟨h1, h2⟩

theorem spGet_of_above (d : α) {k : Nat} {l : Sparse α} (h : AboveKey k l) : spGet d l k = d := by
  induction l with
  | nil => rfl
  | cons e t ih =>
    obtain ⟨j, y⟩ := e
    have h1 : k < j := h (j, y) (by simp)
    have h2 : k ≠ j := by omega
    simp only [spGet, h2, if_false]
    exact ih fun e he => h e (by simp [he])

/-- A removed key reads as the default, where the keys rise. -/
theorem spGet_spDel_same (d : α) (k : Nat) {l : Sparse α} (h : spSorted l = true) : spGet d (spDel k l) k = d := by
  induction l with
  | nil => rfl
  | cons e t ih =>
    obtain ⟨j, y⟩ := e
    have h1 := spSorted_cons.mp h
    simp only [spDel]
    split
    · rename_i hk; subst hk; exact spGet_of_above d h1.1
    · rename_i hk; simp only [spGet, hk, if_false]; exact ih h1.2

/-- A write is read back, where the keys rise. -/
theorem spGet_spSet_same [DecidableEq α] (d : α) (k : Nat) (x : α) {l : Sparse α} (h : spSorted l = true) :
    spGet d (spSet d k x l) k = x := by
  unfold spSet; split
  · rename_i hx; rw [hx]; exact spGet_spDel_same d k h
  · exact spGet_spIns_same d k x l

theorem mem_spIns {k : Nat} {x : α} {l : Sparse α} {e : Nat × α} (h : e ∈ spIns k x l) : e = (k, x) ∨ e ∈ l := by
  induction l with
  | nil => simpa [spIns] using h
  | cons a t ih =>
    obtain ⟨j, y⟩ := a
    simp only [spIns] at h
    split at h
    · simpa using h
    · split at h
      · rcases List.mem_cons.mp h with h | h
        · exact .inl h
        · exact .inr (List.mem_cons_of_mem _ h)
      · rcases List.mem_cons.mp h with h | h
        · exact .inr (by simp [h])
        · rcases ih h with h | h
          · exact .inl h
          · exact .inr (List.mem_cons_of_mem _ h)

theorem mem_spDel {k : Nat} {l : Sparse α} {e : Nat × α} (h : e ∈ spDel k l) : e ∈ l := by
  induction l with
  | nil => simp [spDel] at h
  | cons a t ih =>
    obtain ⟨j, y⟩ := a
    simp only [spDel] at h
    split at h
    · exact List.mem_cons_of_mem _ h
    · rcases List.mem_cons.mp h with h | h
      · simp [h]
      · exact List.mem_cons_of_mem _ (ih h)

theorem spSorted_spIns (k : Nat) (x : α) {l : Sparse α} (h : spSorted l = true) : spSorted (spIns k x l) = true := by
  induction l with
  | nil => simp [spIns, spSorted]
  | cons e t ih =>
    obtain ⟨j, y⟩ := e
    have h1 := spSorted_cons.mp h
    simp only [spIns]
    split
    · rename_i hk
      refine spSorted_cons.mpr ⟨?_, h⟩
      intro e he
      rcases List.mem_cons.mp he with he | he
      · simpa [he] using hk
      · exact Nat.lt_trans hk (h1.1 e he)
    · split
      · rename_i hk; subst hk; exact spSorted_cons.mpr h1
      · rename_i h2 h3
        refine spSorted_cons.mpr ⟨?_, ih h1.2⟩
        intro e he
        rcases mem_spIns he with he | he
        · simp only [he]; omega
        · exact h1.1 e he

theorem spSorted_spDel (k : Nat) {l : Sparse α} (h : spSorted l = true) : spSorted (spDel k l) = true := by
  induction l with
  | nil => rfl
  | cons e t ih =>
    obtain ⟨j, y⟩ := e
    have h1 := spSorted_cons.mp h
    simp only [spDel]
    split
    · exact h1.2
    · exact spSorted_cons.mpr ⟨fun e he => h1.1 e (mem_spDel he), ih h1.2⟩

/-- A write keeps the order of the keys. -/
theorem spSorted_spSet [DecidableEq α] (d : α) (k : Nat) (x : α) {l : Sparse α} (h : spSorted l = true) :
    spSorted (spSet d k x l) = true := by
  unfold spSet; split
  · exact spSorted_spDel k h
  · exact spSorted_spIns k x h

theorem spSorted_filter (p : Nat × α → Bool) {l : Sparse α} (h : spSorted l = true) : spSorted (l.filter p) = true := by
  induction l with
  | nil => rfl
  | cons e t ih =>
    obtain ⟨j, y⟩ := e
    have h1 := spSorted_cons.mp h
    simp only [List.filter]
    split
    · exact spSorted_cons.mpr ⟨fun e he => h1.1 e (List.mem_filter.mp he).1, ih h1.2⟩
    · exact ih h1.2

/-! ## The canonical form -/

/-- A write keeps the canonical form. -/
theorem spWf_spSet [DecidableEq α] (d : α) (k : Nat) (x : α) {l : Sparse α} (h : spWf d l = true) : spWf d (spSet d k x l) = true := by
  simp only [spWf, Bool.and_eq_true, List.all_eq_true, decide_eq_true_eq] at *
  refine ⟨spSorted_spSet d k x h.1, fun e he => ?_⟩
  unfold spSet at he
  split at he
  · exact h.2 e (mem_spDel he)
  · rename_i hx
    rcases mem_spIns he with he | he
    · simpa [he] using hx
    · exact h.2 e he

/-- A canonical form over defaults by key is sorted. -/
theorem spSorted_of_spKeyed [DecidableEq α] {d : Nat → α} {l : Sparse α} (h : spKeyed d l = true) : spSorted l = true := by
  simp only [spKeyed, Bool.and_eq_true] at h; exact h.1

/-- A write of a key's own default or another value keeps the canonical form over defaults by key. -/
theorem spKeyed_spSet [DecidableEq α] (d : Nat → α) (k : Nat) (x : α) {l : Sparse α} (h : spKeyed d l = true) :
    spKeyed d (spSet (d k) k x l) = true := by
  simp only [spKeyed, Bool.and_eq_true, List.all_eq_true, decide_eq_true_eq] at *
  refine ⟨spSorted_spSet _ k x h.1, fun e he => ?_⟩
  unfold spSet at he
  split at he
  · exact h.2 e (mem_spDel he)
  · rename_i hx
    rcases mem_spIns he with he | he
    · simpa [he] using hx
    · exact h.2 e he

/-- Removing entries keeps the canonical form. -/
theorem spWf_filter [DecidableEq α] (d : α) (p : Nat × α → Bool) {l : Sparse α} (h : spWf d l = true) : spWf d (l.filter p) = true := by
  simp only [spWf, Bool.and_eq_true, List.all_eq_true, decide_eq_true_eq] at *
  exact ⟨spSorted_filter p h.1, fun e he => h.2 e (List.mem_filter.mp he).1⟩

/-! ## Lists -/

/-- What every step of a fold keeps, the fold keeps. -/
theorem foldl_keeps {σ β : Type} {P : σ → Prop} {f : σ → β → σ} (hf : ∀ a b, P a → P (f a b)) (l : List β) {a : σ} (h : P a) :
    P (l.foldl f a) := by
  induction l generalizing a with
  | nil => exact h
  | cons b t ih => exact ih (hf a b h)

/-- A field that no step of a fold changes, the fold does not change. -/
theorem foldl_same {σ β γ : Type} {g : σ → γ} {f : σ → β → σ} (hf : ∀ a b, g (f a b) = g a) (l : List β) (a : σ) :
    g (l.foldl f a) = g a := by
  induction l generalizing a with
  | nil => rfl
  | cons b t ih => exact (ih (f a b)).trans (hf a b)

end Sys2Proof.Machine
end

