-- ==== Sys2Proof/Laws/State.lean ====
section
/-!
SUPPORT. What each update of the state leaves in each field, so that no proof unfolds a record update.
-/
namespace Sys2Proof.Machine

/-! ## `State.mapBlock` -/

@[simp] theorem State.mapBlock_mem (s : State) (u : Nat) (g : Block → Block) : (s.mapBlock u g).mem = s.mem := rfl
@[simp] theorem State.mapBlock_stale (s : State) (u : Nat) (g : Block → Block) : (s.mapBlock u g).stale = s.stale := rfl
@[simp] theorem State.mapBlock_dir (s : State) (u : Nat) (g : Block → Block) : (s.mapBlock u g).dir = s.dir := rfl
@[simp] theorem State.mapBlock_rels (s : State) (u : Nat) (g : Block → Block) : (s.mapBlock u g).rels = s.rels := rfl
@[simp] theorem State.mapBlock_frames (s : State) (u : Nat) (g : Block → Block) : (s.mapBlock u g).frames = s.frames := rfl
@[simp] theorem State.mapBlock_dcb (s : State) (u : Nat) (g : Block → Block) : (s.mapBlock u g).dcb = s.dcb := rfl
@[simp] theorem State.mapBlock_slices (s : State) (u : Nat) (g : Block → Block) : (s.mapBlock u g).slices = s.slices := rfl
@[simp] theorem State.mapBlock_clk (s : State) (u : Nat) (g : Block → Block) : (s.mapBlock u g).clk = s.clk := rfl
@[simp] theorem State.mapBlock_pwr (s : State) (u : Nat) (g : Block → Block) : (s.mapBlock u g).pwr = s.pwr := rfl
@[simp] theorem State.mapBlock_blocks (s : State) (u : Nat) (g : Block → Block) : (s.mapBlock u g).blocks = updWhere (fun b => b.uid == u) g s.blocks := rfl
@[simp] theorem State.mapBlock_requests (s : State) (u : Nat) (g : Block → Block) : (s.mapBlock u g).requests = s.requests := rfl
@[simp] theorem State.mapBlock_copies (s : State) (u : Nat) (g : Block → Block) : (s.mapBlock u g).copies = s.copies := rfl
@[simp] theorem State.mapBlock_robin (s : State) (u : Nat) (g : Block → Block) : (s.mapBlock u g).robin = s.robin := rfl
@[simp] theorem State.mapBlock_path (s : State) (u : Nat) (g : Block → Block) : (s.mapBlock u g).path = s.path := rfl
@[simp] theorem State.mapBlock_tlb (s : State) (u : Nat) (g : Block → Block) : (s.mapBlock u g).tlb = s.tlb := rfl
@[simp] theorem State.mapBlock_phases (s : State) (u : Nat) (g : Block → Block) : (s.mapBlock u g).phases = s.phases := rfl
@[simp] theorem State.mapBlock_launches (s : State) (u : Nat) (g : Block → Block) : (s.mapBlock u g).launches = s.launches := rfl
@[simp] theorem State.mapBlock_gangs (s : State) (u : Nat) (g : Block → Block) : (s.mapBlock u g).gangs = s.gangs := rfl
@[simp] theorem State.mapBlock_blazes (s : State) (u : Nat) (g : Block → Block) : (s.mapBlock u g).blazes = s.blazes := rfl
@[simp] theorem State.mapBlock_overflowed (s : State) (u : Nat) (g : Block → Block) : (s.mapBlock u g).overflowed = s.overflowed := rfl
@[simp] theorem State.mapBlock_listed (s : State) (u : Nat) (g : Block → Block) : (s.mapBlock u g).listed = s.listed := rfl
@[simp] theorem State.mapBlock_pubs (s : State) (u : Nat) (g : Block → Block) : (s.mapBlock u g).pubs = s.pubs := rfl
@[simp] theorem State.mapBlock_runReqs (s : State) (u : Nat) (g : Block → Block) : (s.mapBlock u g).runReqs = s.runReqs := rfl
@[simp] theorem State.mapBlock_runs (s : State) (u : Nat) (g : Block → Block) : (s.mapBlock u g).runs = s.runs := rfl
@[simp] theorem State.mapBlock_used (s : State) (u : Nat) (g : Block → Block) : (s.mapBlock u g).used = s.used := rfl
@[simp] theorem State.mapBlock_pass (s : State) (u : Nat) (g : Block → Block) : (s.mapBlock u g).pass = s.pass := rfl
@[simp] theorem State.mapBlock_overrun (s : State) (u : Nat) (g : Block → Block) : (s.mapBlock u g).overrun = s.overrun := rfl
@[simp] theorem State.mapBlock_eligible (s : State) (u : Nat) (g : Block → Block) : (s.mapBlock u g).eligible = s.eligible := rfl
@[simp] theorem State.mapBlock_aged (s : State) (u : Nat) (g : Block → Block) : (s.mapBlock u g).aged = s.aged := rfl
@[simp] theorem State.mapBlock_quotaAt (s : State) (u : Nat) (g : Block → Block) : (s.mapBlock u g).quotaAt = s.quotaAt := rfl
@[simp] theorem State.mapBlock_trapFrames (s : State) (u : Nat) (g : Block → Block) : (s.mapBlock u g).trapFrames = s.trapFrames := rfl
@[simp] theorem State.mapBlock_saveSlots (s : State) (u : Nat) (g : Block → Block) : (s.mapBlock u g).saveSlots = s.saveSlots := rfl
@[simp] theorem State.mapBlock_svcs (s : State) (u : Nat) (g : Block → Block) : (s.mapBlock u g).svcs = s.svcs := rfl
@[simp] theorem State.mapBlock_preempting (s : State) (u : Nat) (g : Block → Block) : (s.mapBlock u g).preempting = s.preempting := rfl
@[simp] theorem State.mapBlock_pfs (s : State) (u : Nat) (g : Block → Block) : (s.mapBlock u g).pfs = s.pfs := rfl
@[simp] theorem State.mapBlock_records (s : State) (u : Nat) (g : Block → Block) : (s.mapBlock u g).records = s.records := rfl
@[simp] theorem State.mapBlock_arrived (s : State) (u : Nat) (g : Block → Block) : (s.mapBlock u g).arrived = s.arrived := rfl
@[simp] theorem State.mapBlock_msix (s : State) (u : Nat) (g : Block → Block) : (s.mapBlock u g).msix = s.msix := rfl
@[simp] theorem State.mapBlock_d3hot (s : State) (u : Nat) (g : Block → Block) : (s.mapBlock u g).d3hot = s.d3hot := rfl
@[simp] theorem State.mapBlock_host (s : State) (u : Nat) (g : Block → Block) : (s.mapBlock u g).host = s.host := rfl
@[simp] theorem State.mapBlock_mapCmds (s : State) (u : Nat) (g : Block → Block) : (s.mapBlock u g).mapCmds = s.mapCmds := rfl
@[simp] theorem State.mapBlock_captures (s : State) (u : Nat) (g : Block → Block) : (s.mapBlock u g).captures = s.captures := rfl
@[simp] theorem State.mapBlock_latches (s : State) (u : Nat) (g : Block → Block) : (s.mapBlock u g).latches = s.latches := rfl
@[simp] theorem State.mapBlock_scans (s : State) (u : Nat) (g : Block → Block) : (s.mapBlock u g).scans = s.scans := rfl
@[simp] theorem State.mapBlock_layers (s : State) (u : Nat) (g : Block → Block) : (s.mapBlock u g).layers = s.layers := rfl
@[simp] theorem State.mapBlock_pairs (s : State) (u : Nat) (g : Block → Block) : (s.mapBlock u g).pairs = s.pairs := rfl
@[simp] theorem State.mapBlock_takeover (s : State) (u : Nat) (g : Block → Block) : (s.mapBlock u g).takeover = s.takeover := rfl
@[simp] theorem State.mapBlock_takingOver (s : State) (u : Nat) (g : Block → Block) : (s.mapBlock u g).takingOver = s.takingOver := rfl
@[simp] theorem State.mapBlock_elected (s : State) (u : Nat) (g : Block → Block) : (s.mapBlock u g).elected = s.elected := rfl
@[simp] theorem State.mapBlock_jorac (s : State) (u : Nat) (g : Block → Block) : (s.mapBlock u g).jorac = s.jorac := rfl
@[simp] theorem State.mapBlock_bank (s : State) (u : Nat) (g : Block → Block) : (s.mapBlock u g).bank = s.bank := rfl
@[simp] theorem State.mapBlock_images (s : State) (u : Nat) (g : Block → Block) : (s.mapBlock u g).images = s.images := rfl
@[simp] theorem State.mapBlock_counts (s : State) (u : Nat) (g : Block → Block) : (s.mapBlock u g).counts = s.counts := rfl
@[simp] theorem State.mapBlock_nextBank (s : State) (u : Nat) (g : Block → Block) : (s.mapBlock u g).nextBank = s.nextBank := rfl
@[simp] theorem State.mapBlock_opCtr (s : State) (u : Nat) (g : Block → Block) : (s.mapBlock u g).opCtr = s.opCtr := rfl
@[simp] theorem State.mapBlock_opKey (s : State) (u : Nat) (g : Block → Block) : (s.mapBlock u g).opKey = s.opKey := rfl
@[simp] theorem State.mapBlock_updating (s : State) (u : Nat) (g : Block → Block) : (s.mapBlock u g).updating = s.updating := rfl
@[simp] theorem State.mapBlock_memlayDone (s : State) (u : Nat) (g : Block → Block) : (s.mapBlock u g).memlayDone = s.memlayDone := rfl
@[simp] theorem State.mapBlock_stopped (s : State) (u : Nat) (g : Block → Block) : (s.mapBlock u g).stopped = s.stopped := rfl
@[simp] theorem State.mapBlock_keys (s : State) (u : Nat) (g : Block → Block) : (s.mapBlock u g).keys = s.keys := rfl
@[simp] theorem State.mapBlock_peerNo (s : State) (u : Nat) (g : Block → Block) : (s.mapBlock u g).peerNo = s.peerNo := rfl
@[simp] theorem State.mapBlock_sessions (s : State) (u : Nat) (g : Block → Block) : (s.mapBlock u g).sessions = s.sessions := rfl
@[simp] theorem State.mapBlock_booted (s : State) (u : Nat) (g : Block → Block) : (s.mapBlock u g).booted = s.booted := rfl
@[simp] theorem State.mapBlock_tlbiWait (s : State) (u : Nat) (g : Block → Block) : (s.mapBlock u g).tlbiWait = s.tlbiWait := rfl
@[simp] theorem State.mapBlock_ide (s : State) (u : Nat) (g : Block → Block) : (s.mapBlock u g).ide = s.ide := rfl
@[simp] theorem State.mapBlock_flips (s : State) (u : Nat) (g : Block → Block) : (s.mapBlock u g).flips = s.flips := rfl
@[simp] theorem State.mapBlock_agenda (s : State) (u : Nat) (g : Block → Block) : (s.mapBlock u g).agenda = s.agenda := rfl
@[simp] theorem State.mapBlock_cur (s : State) (u : Nat) (g : Block → Block) : (s.mapBlock u g).cur = s.cur := rfl
@[simp] theorem State.mapBlock_pace (s : State) (u : Nat) (g : Block → Block) : (s.mapBlock u g).pace = s.pace := rfl
@[simp] theorem State.mapBlock_uids (s : State) (u : Nat) (g : Block → Block) : (s.mapBlock u g).uids = s.uids := rfl
@[simp] theorem State.mapBlock_free (s : State) (u : Nat) (g : Block → Block) : (s.mapBlock u g).free = s.free := rfl

/-! ## `State.mapWave` -/

@[simp] theorem State.mapWave_mem (s : State) (u w : Nat) (g : Wave → Wave) : (s.mapWave u w g).mem = s.mem := rfl
@[simp] theorem State.mapWave_stale (s : State) (u w : Nat) (g : Wave → Wave) : (s.mapWave u w g).stale = s.stale := rfl
@[simp] theorem State.mapWave_dir (s : State) (u w : Nat) (g : Wave → Wave) : (s.mapWave u w g).dir = s.dir := rfl
@[simp] theorem State.mapWave_rels (s : State) (u w : Nat) (g : Wave → Wave) : (s.mapWave u w g).rels = s.rels := rfl
@[simp] theorem State.mapWave_frames (s : State) (u w : Nat) (g : Wave → Wave) : (s.mapWave u w g).frames = s.frames := rfl
@[simp] theorem State.mapWave_dcb (s : State) (u w : Nat) (g : Wave → Wave) : (s.mapWave u w g).dcb = s.dcb := rfl
@[simp] theorem State.mapWave_slices (s : State) (u w : Nat) (g : Wave → Wave) : (s.mapWave u w g).slices = s.slices := rfl
@[simp] theorem State.mapWave_clk (s : State) (u w : Nat) (g : Wave → Wave) : (s.mapWave u w g).clk = s.clk := rfl
@[simp] theorem State.mapWave_pwr (s : State) (u w : Nat) (g : Wave → Wave) : (s.mapWave u w g).pwr = s.pwr := rfl
@[simp] theorem State.mapWave_blocks (s : State) (u w : Nat) (g : Wave → Wave) : (s.mapWave u w g).blocks = updWhere (fun b => b.uid == u) (fun b => b.mapWave w g) s.blocks := rfl
@[simp] theorem State.mapWave_requests (s : State) (u w : Nat) (g : Wave → Wave) : (s.mapWave u w g).requests = s.requests := rfl
@[simp] theorem State.mapWave_copies (s : State) (u w : Nat) (g : Wave → Wave) : (s.mapWave u w g).copies = s.copies := rfl
@[simp] theorem State.mapWave_robin (s : State) (u w : Nat) (g : Wave → Wave) : (s.mapWave u w g).robin = s.robin := rfl
@[simp] theorem State.mapWave_path (s : State) (u w : Nat) (g : Wave → Wave) : (s.mapWave u w g).path = s.path := rfl
@[simp] theorem State.mapWave_tlb (s : State) (u w : Nat) (g : Wave → Wave) : (s.mapWave u w g).tlb = s.tlb := rfl
@[simp] theorem State.mapWave_phases (s : State) (u w : Nat) (g : Wave → Wave) : (s.mapWave u w g).phases = s.phases := rfl
@[simp] theorem State.mapWave_launches (s : State) (u w : Nat) (g : Wave → Wave) : (s.mapWave u w g).launches = s.launches := rfl
@[simp] theorem State.mapWave_gangs (s : State) (u w : Nat) (g : Wave → Wave) : (s.mapWave u w g).gangs = s.gangs := rfl
@[simp] theorem State.mapWave_blazes (s : State) (u w : Nat) (g : Wave → Wave) : (s.mapWave u w g).blazes = s.blazes := rfl
@[simp] theorem State.mapWave_overflowed (s : State) (u w : Nat) (g : Wave → Wave) : (s.mapWave u w g).overflowed = s.overflowed := rfl
@[simp] theorem State.mapWave_listed (s : State) (u w : Nat) (g : Wave → Wave) : (s.mapWave u w g).listed = s.listed := rfl
@[simp] theorem State.mapWave_pubs (s : State) (u w : Nat) (g : Wave → Wave) : (s.mapWave u w g).pubs = s.pubs := rfl
@[simp] theorem State.mapWave_runReqs (s : State) (u w : Nat) (g : Wave → Wave) : (s.mapWave u w g).runReqs = s.runReqs := rfl
@[simp] theorem State.mapWave_runs (s : State) (u w : Nat) (g : Wave → Wave) : (s.mapWave u w g).runs = s.runs := rfl
@[simp] theorem State.mapWave_used (s : State) (u w : Nat) (g : Wave → Wave) : (s.mapWave u w g).used = s.used := rfl
@[simp] theorem State.mapWave_pass (s : State) (u w : Nat) (g : Wave → Wave) : (s.mapWave u w g).pass = s.pass := rfl
@[simp] theorem State.mapWave_overrun (s : State) (u w : Nat) (g : Wave → Wave) : (s.mapWave u w g).overrun = s.overrun := rfl
@[simp] theorem State.mapWave_eligible (s : State) (u w : Nat) (g : Wave → Wave) : (s.mapWave u w g).eligible = s.eligible := rfl
@[simp] theorem State.mapWave_aged (s : State) (u w : Nat) (g : Wave → Wave) : (s.mapWave u w g).aged = s.aged := rfl
@[simp] theorem State.mapWave_quotaAt (s : State) (u w : Nat) (g : Wave → Wave) : (s.mapWave u w g).quotaAt = s.quotaAt := rfl
@[simp] theorem State.mapWave_trapFrames (s : State) (u w : Nat) (g : Wave → Wave) : (s.mapWave u w g).trapFrames = s.trapFrames := rfl
@[simp] theorem State.mapWave_saveSlots (s : State) (u w : Nat) (g : Wave → Wave) : (s.mapWave u w g).saveSlots = s.saveSlots := rfl
@[simp] theorem State.mapWave_svcs (s : State) (u w : Nat) (g : Wave → Wave) : (s.mapWave u w g).svcs = s.svcs := rfl
@[simp] theorem State.mapWave_preempting (s : State) (u w : Nat) (g : Wave → Wave) : (s.mapWave u w g).preempting = s.preempting := rfl
@[simp] theorem State.mapWave_pfs (s : State) (u w : Nat) (g : Wave → Wave) : (s.mapWave u w g).pfs = s.pfs := rfl
@[simp] theorem State.mapWave_records (s : State) (u w : Nat) (g : Wave → Wave) : (s.mapWave u w g).records = s.records := rfl
@[simp] theorem State.mapWave_arrived (s : State) (u w : Nat) (g : Wave → Wave) : (s.mapWave u w g).arrived = s.arrived := rfl
@[simp] theorem State.mapWave_msix (s : State) (u w : Nat) (g : Wave → Wave) : (s.mapWave u w g).msix = s.msix := rfl
@[simp] theorem State.mapWave_d3hot (s : State) (u w : Nat) (g : Wave → Wave) : (s.mapWave u w g).d3hot = s.d3hot := rfl
@[simp] theorem State.mapWave_host (s : State) (u w : Nat) (g : Wave → Wave) : (s.mapWave u w g).host = s.host := rfl
@[simp] theorem State.mapWave_mapCmds (s : State) (u w : Nat) (g : Wave → Wave) : (s.mapWave u w g).mapCmds = s.mapCmds := rfl
@[simp] theorem State.mapWave_captures (s : State) (u w : Nat) (g : Wave → Wave) : (s.mapWave u w g).captures = s.captures := rfl
@[simp] theorem State.mapWave_latches (s : State) (u w : Nat) (g : Wave → Wave) : (s.mapWave u w g).latches = s.latches := rfl
@[simp] theorem State.mapWave_scans (s : State) (u w : Nat) (g : Wave → Wave) : (s.mapWave u w g).scans = s.scans := rfl
@[simp] theorem State.mapWave_layers (s : State) (u w : Nat) (g : Wave → Wave) : (s.mapWave u w g).layers = s.layers := rfl
@[simp] theorem State.mapWave_pairs (s : State) (u w : Nat) (g : Wave → Wave) : (s.mapWave u w g).pairs = s.pairs := rfl
@[simp] theorem State.mapWave_takeover (s : State) (u w : Nat) (g : Wave → Wave) : (s.mapWave u w g).takeover = s.takeover := rfl
@[simp] theorem State.mapWave_takingOver (s : State) (u w : Nat) (g : Wave → Wave) : (s.mapWave u w g).takingOver = s.takingOver := rfl
@[simp] theorem State.mapWave_elected (s : State) (u w : Nat) (g : Wave → Wave) : (s.mapWave u w g).elected = s.elected := rfl
@[simp] theorem State.mapWave_jorac (s : State) (u w : Nat) (g : Wave → Wave) : (s.mapWave u w g).jorac = s.jorac := rfl
@[simp] theorem State.mapWave_bank (s : State) (u w : Nat) (g : Wave → Wave) : (s.mapWave u w g).bank = s.bank := rfl
@[simp] theorem State.mapWave_images (s : State) (u w : Nat) (g : Wave → Wave) : (s.mapWave u w g).images = s.images := rfl
@[simp] theorem State.mapWave_counts (s : State) (u w : Nat) (g : Wave → Wave) : (s.mapWave u w g).counts = s.counts := rfl
@[simp] theorem State.mapWave_nextBank (s : State) (u w : Nat) (g : Wave → Wave) : (s.mapWave u w g).nextBank = s.nextBank := rfl
@[simp] theorem State.mapWave_opCtr (s : State) (u w : Nat) (g : Wave → Wave) : (s.mapWave u w g).opCtr = s.opCtr := rfl
@[simp] theorem State.mapWave_opKey (s : State) (u w : Nat) (g : Wave → Wave) : (s.mapWave u w g).opKey = s.opKey := rfl
@[simp] theorem State.mapWave_updating (s : State) (u w : Nat) (g : Wave → Wave) : (s.mapWave u w g).updating = s.updating := rfl
@[simp] theorem State.mapWave_memlayDone (s : State) (u w : Nat) (g : Wave → Wave) : (s.mapWave u w g).memlayDone = s.memlayDone := rfl
@[simp] theorem State.mapWave_stopped (s : State) (u w : Nat) (g : Wave → Wave) : (s.mapWave u w g).stopped = s.stopped := rfl
@[simp] theorem State.mapWave_keys (s : State) (u w : Nat) (g : Wave → Wave) : (s.mapWave u w g).keys = s.keys := rfl
@[simp] theorem State.mapWave_peerNo (s : State) (u w : Nat) (g : Wave → Wave) : (s.mapWave u w g).peerNo = s.peerNo := rfl
@[simp] theorem State.mapWave_sessions (s : State) (u w : Nat) (g : Wave → Wave) : (s.mapWave u w g).sessions = s.sessions := rfl
@[simp] theorem State.mapWave_booted (s : State) (u w : Nat) (g : Wave → Wave) : (s.mapWave u w g).booted = s.booted := rfl
@[simp] theorem State.mapWave_tlbiWait (s : State) (u w : Nat) (g : Wave → Wave) : (s.mapWave u w g).tlbiWait = s.tlbiWait := rfl
@[simp] theorem State.mapWave_ide (s : State) (u w : Nat) (g : Wave → Wave) : (s.mapWave u w g).ide = s.ide := rfl
@[simp] theorem State.mapWave_flips (s : State) (u w : Nat) (g : Wave → Wave) : (s.mapWave u w g).flips = s.flips := rfl
@[simp] theorem State.mapWave_agenda (s : State) (u w : Nat) (g : Wave → Wave) : (s.mapWave u w g).agenda = s.agenda := rfl
@[simp] theorem State.mapWave_cur (s : State) (u w : Nat) (g : Wave → Wave) : (s.mapWave u w g).cur = s.cur := rfl
@[simp] theorem State.mapWave_pace (s : State) (u w : Nat) (g : Wave → Wave) : (s.mapWave u w g).pace = s.pace := rfl
@[simp] theorem State.mapWave_uids (s : State) (u w : Nat) (g : Wave → Wave) : (s.mapWave u w g).uids = s.uids := rfl
@[simp] theorem State.mapWave_free (s : State) (u w : Nat) (g : Wave → Wave) : (s.mapWave u w g).free = s.free := rfl

/-! ## `State.mapEntry` -/

@[simp] theorem State.mapEntry_mem (s : State) (r : ERef) (g : Entry → Entry) : (s.mapEntry r g).mem = s.mem := rfl
@[simp] theorem State.mapEntry_stale (s : State) (r : ERef) (g : Entry → Entry) : (s.mapEntry r g).stale = s.stale := rfl
@[simp] theorem State.mapEntry_dir (s : State) (r : ERef) (g : Entry → Entry) : (s.mapEntry r g).dir = s.dir := rfl
@[simp] theorem State.mapEntry_rels (s : State) (r : ERef) (g : Entry → Entry) : (s.mapEntry r g).rels = s.rels := rfl
@[simp] theorem State.mapEntry_frames (s : State) (r : ERef) (g : Entry → Entry) : (s.mapEntry r g).frames = s.frames := rfl
@[simp] theorem State.mapEntry_dcb (s : State) (r : ERef) (g : Entry → Entry) : (s.mapEntry r g).dcb = s.dcb := rfl
@[simp] theorem State.mapEntry_slices (s : State) (r : ERef) (g : Entry → Entry) : (s.mapEntry r g).slices = s.slices := rfl
@[simp] theorem State.mapEntry_clk (s : State) (r : ERef) (g : Entry → Entry) : (s.mapEntry r g).clk = s.clk := rfl
@[simp] theorem State.mapEntry_pwr (s : State) (r : ERef) (g : Entry → Entry) : (s.mapEntry r g).pwr = s.pwr := rfl
@[simp] theorem State.mapEntry_blocks (s : State) (r : ERef) (g : Entry → Entry) : (s.mapEntry r g).blocks = updWhere (fun b => b.uid == r.blk) (fun b => b.mapWave r.wave fun w => w.mapEntry r.lane g) s.blocks := rfl
@[simp] theorem State.mapEntry_requests (s : State) (r : ERef) (g : Entry → Entry) : (s.mapEntry r g).requests = s.requests := rfl
@[simp] theorem State.mapEntry_copies (s : State) (r : ERef) (g : Entry → Entry) : (s.mapEntry r g).copies = s.copies := rfl
@[simp] theorem State.mapEntry_robin (s : State) (r : ERef) (g : Entry → Entry) : (s.mapEntry r g).robin = s.robin := rfl
@[simp] theorem State.mapEntry_path (s : State) (r : ERef) (g : Entry → Entry) : (s.mapEntry r g).path = s.path := rfl
@[simp] theorem State.mapEntry_tlb (s : State) (r : ERef) (g : Entry → Entry) : (s.mapEntry r g).tlb = s.tlb := rfl
@[simp] theorem State.mapEntry_phases (s : State) (r : ERef) (g : Entry → Entry) : (s.mapEntry r g).phases = s.phases := rfl
@[simp] theorem State.mapEntry_launches (s : State) (r : ERef) (g : Entry → Entry) : (s.mapEntry r g).launches = s.launches := rfl
@[simp] theorem State.mapEntry_gangs (s : State) (r : ERef) (g : Entry → Entry) : (s.mapEntry r g).gangs = s.gangs := rfl
@[simp] theorem State.mapEntry_blazes (s : State) (r : ERef) (g : Entry → Entry) : (s.mapEntry r g).blazes = s.blazes := rfl
@[simp] theorem State.mapEntry_overflowed (s : State) (r : ERef) (g : Entry → Entry) : (s.mapEntry r g).overflowed = s.overflowed := rfl
@[simp] theorem State.mapEntry_listed (s : State) (r : ERef) (g : Entry → Entry) : (s.mapEntry r g).listed = s.listed := rfl
@[simp] theorem State.mapEntry_pubs (s : State) (r : ERef) (g : Entry → Entry) : (s.mapEntry r g).pubs = s.pubs := rfl
@[simp] theorem State.mapEntry_runReqs (s : State) (r : ERef) (g : Entry → Entry) : (s.mapEntry r g).runReqs = s.runReqs := rfl
@[simp] theorem State.mapEntry_runs (s : State) (r : ERef) (g : Entry → Entry) : (s.mapEntry r g).runs = s.runs := rfl
@[simp] theorem State.mapEntry_used (s : State) (r : ERef) (g : Entry → Entry) : (s.mapEntry r g).used = s.used := rfl
@[simp] theorem State.mapEntry_pass (s : State) (r : ERef) (g : Entry → Entry) : (s.mapEntry r g).pass = s.pass := rfl
@[simp] theorem State.mapEntry_overrun (s : State) (r : ERef) (g : Entry → Entry) : (s.mapEntry r g).overrun = s.overrun := rfl
@[simp] theorem State.mapEntry_eligible (s : State) (r : ERef) (g : Entry → Entry) : (s.mapEntry r g).eligible = s.eligible := rfl
@[simp] theorem State.mapEntry_aged (s : State) (r : ERef) (g : Entry → Entry) : (s.mapEntry r g).aged = s.aged := rfl
@[simp] theorem State.mapEntry_quotaAt (s : State) (r : ERef) (g : Entry → Entry) : (s.mapEntry r g).quotaAt = s.quotaAt := rfl
@[simp] theorem State.mapEntry_trapFrames (s : State) (r : ERef) (g : Entry → Entry) : (s.mapEntry r g).trapFrames = s.trapFrames := rfl
@[simp] theorem State.mapEntry_saveSlots (s : State) (r : ERef) (g : Entry → Entry) : (s.mapEntry r g).saveSlots = s.saveSlots := rfl
@[simp] theorem State.mapEntry_svcs (s : State) (r : ERef) (g : Entry → Entry) : (s.mapEntry r g).svcs = s.svcs := rfl
@[simp] theorem State.mapEntry_preempting (s : State) (r : ERef) (g : Entry → Entry) : (s.mapEntry r g).preempting = s.preempting := rfl
@[simp] theorem State.mapEntry_pfs (s : State) (r : ERef) (g : Entry → Entry) : (s.mapEntry r g).pfs = s.pfs := rfl
@[simp] theorem State.mapEntry_records (s : State) (r : ERef) (g : Entry → Entry) : (s.mapEntry r g).records = s.records := rfl
@[simp] theorem State.mapEntry_arrived (s : State) (r : ERef) (g : Entry → Entry) : (s.mapEntry r g).arrived = s.arrived := rfl
@[simp] theorem State.mapEntry_msix (s : State) (r : ERef) (g : Entry → Entry) : (s.mapEntry r g).msix = s.msix := rfl
@[simp] theorem State.mapEntry_d3hot (s : State) (r : ERef) (g : Entry → Entry) : (s.mapEntry r g).d3hot = s.d3hot := rfl
@[simp] theorem State.mapEntry_host (s : State) (r : ERef) (g : Entry → Entry) : (s.mapEntry r g).host = s.host := rfl
@[simp] theorem State.mapEntry_mapCmds (s : State) (r : ERef) (g : Entry → Entry) : (s.mapEntry r g).mapCmds = s.mapCmds := rfl
@[simp] theorem State.mapEntry_captures (s : State) (r : ERef) (g : Entry → Entry) : (s.mapEntry r g).captures = s.captures := rfl
@[simp] theorem State.mapEntry_latches (s : State) (r : ERef) (g : Entry → Entry) : (s.mapEntry r g).latches = s.latches := rfl
@[simp] theorem State.mapEntry_scans (s : State) (r : ERef) (g : Entry → Entry) : (s.mapEntry r g).scans = s.scans := rfl
@[simp] theorem State.mapEntry_layers (s : State) (r : ERef) (g : Entry → Entry) : (s.mapEntry r g).layers = s.layers := rfl
@[simp] theorem State.mapEntry_pairs (s : State) (r : ERef) (g : Entry → Entry) : (s.mapEntry r g).pairs = s.pairs := rfl
@[simp] theorem State.mapEntry_takeover (s : State) (r : ERef) (g : Entry → Entry) : (s.mapEntry r g).takeover = s.takeover := rfl
@[simp] theorem State.mapEntry_takingOver (s : State) (r : ERef) (g : Entry → Entry) : (s.mapEntry r g).takingOver = s.takingOver := rfl
@[simp] theorem State.mapEntry_elected (s : State) (r : ERef) (g : Entry → Entry) : (s.mapEntry r g).elected = s.elected := rfl
@[simp] theorem State.mapEntry_jorac (s : State) (r : ERef) (g : Entry → Entry) : (s.mapEntry r g).jorac = s.jorac := rfl
@[simp] theorem State.mapEntry_bank (s : State) (r : ERef) (g : Entry → Entry) : (s.mapEntry r g).bank = s.bank := rfl
@[simp] theorem State.mapEntry_images (s : State) (r : ERef) (g : Entry → Entry) : (s.mapEntry r g).images = s.images := rfl
@[simp] theorem State.mapEntry_counts (s : State) (r : ERef) (g : Entry → Entry) : (s.mapEntry r g).counts = s.counts := rfl
@[simp] theorem State.mapEntry_nextBank (s : State) (r : ERef) (g : Entry → Entry) : (s.mapEntry r g).nextBank = s.nextBank := rfl
@[simp] theorem State.mapEntry_opCtr (s : State) (r : ERef) (g : Entry → Entry) : (s.mapEntry r g).opCtr = s.opCtr := rfl
@[simp] theorem State.mapEntry_opKey (s : State) (r : ERef) (g : Entry → Entry) : (s.mapEntry r g).opKey = s.opKey := rfl
@[simp] theorem State.mapEntry_updating (s : State) (r : ERef) (g : Entry → Entry) : (s.mapEntry r g).updating = s.updating := rfl
@[simp] theorem State.mapEntry_memlayDone (s : State) (r : ERef) (g : Entry → Entry) : (s.mapEntry r g).memlayDone = s.memlayDone := rfl
@[simp] theorem State.mapEntry_stopped (s : State) (r : ERef) (g : Entry → Entry) : (s.mapEntry r g).stopped = s.stopped := rfl
@[simp] theorem State.mapEntry_keys (s : State) (r : ERef) (g : Entry → Entry) : (s.mapEntry r g).keys = s.keys := rfl
@[simp] theorem State.mapEntry_peerNo (s : State) (r : ERef) (g : Entry → Entry) : (s.mapEntry r g).peerNo = s.peerNo := rfl
@[simp] theorem State.mapEntry_sessions (s : State) (r : ERef) (g : Entry → Entry) : (s.mapEntry r g).sessions = s.sessions := rfl
@[simp] theorem State.mapEntry_booted (s : State) (r : ERef) (g : Entry → Entry) : (s.mapEntry r g).booted = s.booted := rfl
@[simp] theorem State.mapEntry_tlbiWait (s : State) (r : ERef) (g : Entry → Entry) : (s.mapEntry r g).tlbiWait = s.tlbiWait := rfl
@[simp] theorem State.mapEntry_ide (s : State) (r : ERef) (g : Entry → Entry) : (s.mapEntry r g).ide = s.ide := rfl
@[simp] theorem State.mapEntry_flips (s : State) (r : ERef) (g : Entry → Entry) : (s.mapEntry r g).flips = s.flips := rfl
@[simp] theorem State.mapEntry_agenda (s : State) (r : ERef) (g : Entry → Entry) : (s.mapEntry r g).agenda = s.agenda := rfl
@[simp] theorem State.mapEntry_cur (s : State) (r : ERef) (g : Entry → Entry) : (s.mapEntry r g).cur = s.cur := rfl
@[simp] theorem State.mapEntry_pace (s : State) (r : ERef) (g : Entry → Entry) : (s.mapEntry r g).pace = s.pace := rfl
@[simp] theorem State.mapEntry_uids (s : State) (r : ERef) (g : Entry → Entry) : (s.mapEntry r g).uids = s.uids := rfl
@[simp] theorem State.mapEntry_free (s : State) (r : ERef) (g : Entry → Entry) : (s.mapEntry r g).free = s.free := rfl

/-! ## `State.withWave` -/

@[simp] theorem State.withWave_mem (s : State) (c : Ctx) (w : Wave) : (s.withWave c w).mem = s.mem := rfl
@[simp] theorem State.withWave_stale (s : State) (c : Ctx) (w : Wave) : (s.withWave c w).stale = s.stale := rfl
@[simp] theorem State.withWave_dir (s : State) (c : Ctx) (w : Wave) : (s.withWave c w).dir = s.dir := rfl
@[simp] theorem State.withWave_rels (s : State) (c : Ctx) (w : Wave) : (s.withWave c w).rels = s.rels := rfl
@[simp] theorem State.withWave_frames (s : State) (c : Ctx) (w : Wave) : (s.withWave c w).frames = s.frames := rfl
@[simp] theorem State.withWave_dcb (s : State) (c : Ctx) (w : Wave) : (s.withWave c w).dcb = s.dcb := rfl
@[simp] theorem State.withWave_slices (s : State) (c : Ctx) (w : Wave) : (s.withWave c w).slices = s.slices := rfl
@[simp] theorem State.withWave_clk (s : State) (c : Ctx) (w : Wave) : (s.withWave c w).clk = s.clk := rfl
@[simp] theorem State.withWave_pwr (s : State) (c : Ctx) (w : Wave) : (s.withWave c w).pwr = s.pwr := rfl
@[simp] theorem State.withWave_blocks (s : State) (c : Ctx) (w : Wave) : (s.withWave c w).blocks = updWhere (fun b => b.uid == c.ref.blk) (fun b => b.mapWave c.ref.wave fun _ => w) s.blocks := rfl
@[simp] theorem State.withWave_requests (s : State) (c : Ctx) (w : Wave) : (s.withWave c w).requests = s.requests := rfl
@[simp] theorem State.withWave_copies (s : State) (c : Ctx) (w : Wave) : (s.withWave c w).copies = s.copies := rfl
@[simp] theorem State.withWave_robin (s : State) (c : Ctx) (w : Wave) : (s.withWave c w).robin = s.robin := rfl
@[simp] theorem State.withWave_path (s : State) (c : Ctx) (w : Wave) : (s.withWave c w).path = s.path := rfl
@[simp] theorem State.withWave_tlb (s : State) (c : Ctx) (w : Wave) : (s.withWave c w).tlb = s.tlb := rfl
@[simp] theorem State.withWave_phases (s : State) (c : Ctx) (w : Wave) : (s.withWave c w).phases = s.phases := rfl
@[simp] theorem State.withWave_launches (s : State) (c : Ctx) (w : Wave) : (s.withWave c w).launches = s.launches := rfl
@[simp] theorem State.withWave_gangs (s : State) (c : Ctx) (w : Wave) : (s.withWave c w).gangs = s.gangs := rfl
@[simp] theorem State.withWave_blazes (s : State) (c : Ctx) (w : Wave) : (s.withWave c w).blazes = s.blazes := rfl
@[simp] theorem State.withWave_overflowed (s : State) (c : Ctx) (w : Wave) : (s.withWave c w).overflowed = s.overflowed := rfl
@[simp] theorem State.withWave_listed (s : State) (c : Ctx) (w : Wave) : (s.withWave c w).listed = s.listed := rfl
@[simp] theorem State.withWave_pubs (s : State) (c : Ctx) (w : Wave) : (s.withWave c w).pubs = s.pubs := rfl
@[simp] theorem State.withWave_runReqs (s : State) (c : Ctx) (w : Wave) : (s.withWave c w).runReqs = s.runReqs := rfl
@[simp] theorem State.withWave_runs (s : State) (c : Ctx) (w : Wave) : (s.withWave c w).runs = s.runs := rfl
@[simp] theorem State.withWave_used (s : State) (c : Ctx) (w : Wave) : (s.withWave c w).used = s.used := rfl
@[simp] theorem State.withWave_pass (s : State) (c : Ctx) (w : Wave) : (s.withWave c w).pass = s.pass := rfl
@[simp] theorem State.withWave_overrun (s : State) (c : Ctx) (w : Wave) : (s.withWave c w).overrun = s.overrun := rfl
@[simp] theorem State.withWave_eligible (s : State) (c : Ctx) (w : Wave) : (s.withWave c w).eligible = s.eligible := rfl
@[simp] theorem State.withWave_aged (s : State) (c : Ctx) (w : Wave) : (s.withWave c w).aged = s.aged := rfl
@[simp] theorem State.withWave_quotaAt (s : State) (c : Ctx) (w : Wave) : (s.withWave c w).quotaAt = s.quotaAt := rfl
@[simp] theorem State.withWave_trapFrames (s : State) (c : Ctx) (w : Wave) : (s.withWave c w).trapFrames = s.trapFrames := rfl
@[simp] theorem State.withWave_saveSlots (s : State) (c : Ctx) (w : Wave) : (s.withWave c w).saveSlots = s.saveSlots := rfl
@[simp] theorem State.withWave_svcs (s : State) (c : Ctx) (w : Wave) : (s.withWave c w).svcs = s.svcs := rfl
@[simp] theorem State.withWave_preempting (s : State) (c : Ctx) (w : Wave) : (s.withWave c w).preempting = s.preempting := rfl
@[simp] theorem State.withWave_pfs (s : State) (c : Ctx) (w : Wave) : (s.withWave c w).pfs = s.pfs := rfl
@[simp] theorem State.withWave_records (s : State) (c : Ctx) (w : Wave) : (s.withWave c w).records = s.records := rfl
@[simp] theorem State.withWave_arrived (s : State) (c : Ctx) (w : Wave) : (s.withWave c w).arrived = s.arrived := rfl
@[simp] theorem State.withWave_msix (s : State) (c : Ctx) (w : Wave) : (s.withWave c w).msix = s.msix := rfl
@[simp] theorem State.withWave_d3hot (s : State) (c : Ctx) (w : Wave) : (s.withWave c w).d3hot = s.d3hot := rfl
@[simp] theorem State.withWave_host (s : State) (c : Ctx) (w : Wave) : (s.withWave c w).host = s.host := rfl
@[simp] theorem State.withWave_mapCmds (s : State) (c : Ctx) (w : Wave) : (s.withWave c w).mapCmds = s.mapCmds := rfl
@[simp] theorem State.withWave_captures (s : State) (c : Ctx) (w : Wave) : (s.withWave c w).captures = s.captures := rfl
@[simp] theorem State.withWave_latches (s : State) (c : Ctx) (w : Wave) : (s.withWave c w).latches = s.latches := rfl
@[simp] theorem State.withWave_scans (s : State) (c : Ctx) (w : Wave) : (s.withWave c w).scans = s.scans := rfl
@[simp] theorem State.withWave_layers (s : State) (c : Ctx) (w : Wave) : (s.withWave c w).layers = s.layers := rfl
@[simp] theorem State.withWave_pairs (s : State) (c : Ctx) (w : Wave) : (s.withWave c w).pairs = s.pairs := rfl
@[simp] theorem State.withWave_takeover (s : State) (c : Ctx) (w : Wave) : (s.withWave c w).takeover = s.takeover := rfl
@[simp] theorem State.withWave_takingOver (s : State) (c : Ctx) (w : Wave) : (s.withWave c w).takingOver = s.takingOver := rfl
@[simp] theorem State.withWave_elected (s : State) (c : Ctx) (w : Wave) : (s.withWave c w).elected = s.elected := rfl
@[simp] theorem State.withWave_jorac (s : State) (c : Ctx) (w : Wave) : (s.withWave c w).jorac = s.jorac := rfl
@[simp] theorem State.withWave_bank (s : State) (c : Ctx) (w : Wave) : (s.withWave c w).bank = s.bank := rfl
@[simp] theorem State.withWave_images (s : State) (c : Ctx) (w : Wave) : (s.withWave c w).images = s.images := rfl
@[simp] theorem State.withWave_counts (s : State) (c : Ctx) (w : Wave) : (s.withWave c w).counts = s.counts := rfl
@[simp] theorem State.withWave_nextBank (s : State) (c : Ctx) (w : Wave) : (s.withWave c w).nextBank = s.nextBank := rfl
@[simp] theorem State.withWave_opCtr (s : State) (c : Ctx) (w : Wave) : (s.withWave c w).opCtr = s.opCtr := rfl
@[simp] theorem State.withWave_opKey (s : State) (c : Ctx) (w : Wave) : (s.withWave c w).opKey = s.opKey := rfl
@[simp] theorem State.withWave_updating (s : State) (c : Ctx) (w : Wave) : (s.withWave c w).updating = s.updating := rfl
@[simp] theorem State.withWave_memlayDone (s : State) (c : Ctx) (w : Wave) : (s.withWave c w).memlayDone = s.memlayDone := rfl
@[simp] theorem State.withWave_stopped (s : State) (c : Ctx) (w : Wave) : (s.withWave c w).stopped = s.stopped := rfl
@[simp] theorem State.withWave_keys (s : State) (c : Ctx) (w : Wave) : (s.withWave c w).keys = s.keys := rfl
@[simp] theorem State.withWave_peerNo (s : State) (c : Ctx) (w : Wave) : (s.withWave c w).peerNo = s.peerNo := rfl
@[simp] theorem State.withWave_sessions (s : State) (c : Ctx) (w : Wave) : (s.withWave c w).sessions = s.sessions := rfl
@[simp] theorem State.withWave_booted (s : State) (c : Ctx) (w : Wave) : (s.withWave c w).booted = s.booted := rfl
@[simp] theorem State.withWave_tlbiWait (s : State) (c : Ctx) (w : Wave) : (s.withWave c w).tlbiWait = s.tlbiWait := rfl
@[simp] theorem State.withWave_ide (s : State) (c : Ctx) (w : Wave) : (s.withWave c w).ide = s.ide := rfl
@[simp] theorem State.withWave_flips (s : State) (c : Ctx) (w : Wave) : (s.withWave c w).flips = s.flips := rfl
@[simp] theorem State.withWave_agenda (s : State) (c : Ctx) (w : Wave) : (s.withWave c w).agenda = s.agenda := rfl
@[simp] theorem State.withWave_cur (s : State) (c : Ctx) (w : Wave) : (s.withWave c w).cur = s.cur := rfl
@[simp] theorem State.withWave_pace (s : State) (c : Ctx) (w : Wave) : (s.withWave c w).pace = s.pace := rfl
@[simp] theorem State.withWave_uids (s : State) (c : Ctx) (w : Wave) : (s.withWave c w).uids = s.uids := rfl
@[simp] theorem State.withWave_free (s : State) (c : Ctx) (w : Wave) : (s.withWave c w).free = s.free := rfl

/-! ## `State.mapLaunch` -/

@[simp] theorem State.mapLaunch_mem (s : State) (u : Nat) (g : Launch → Launch) : (s.mapLaunch u g).mem = s.mem := rfl
@[simp] theorem State.mapLaunch_stale (s : State) (u : Nat) (g : Launch → Launch) : (s.mapLaunch u g).stale = s.stale := rfl
@[simp] theorem State.mapLaunch_dir (s : State) (u : Nat) (g : Launch → Launch) : (s.mapLaunch u g).dir = s.dir := rfl
@[simp] theorem State.mapLaunch_rels (s : State) (u : Nat) (g : Launch → Launch) : (s.mapLaunch u g).rels = s.rels := rfl
@[simp] theorem State.mapLaunch_frames (s : State) (u : Nat) (g : Launch → Launch) : (s.mapLaunch u g).frames = s.frames := rfl
@[simp] theorem State.mapLaunch_dcb (s : State) (u : Nat) (g : Launch → Launch) : (s.mapLaunch u g).dcb = s.dcb := rfl
@[simp] theorem State.mapLaunch_slices (s : State) (u : Nat) (g : Launch → Launch) : (s.mapLaunch u g).slices = s.slices := rfl
@[simp] theorem State.mapLaunch_clk (s : State) (u : Nat) (g : Launch → Launch) : (s.mapLaunch u g).clk = s.clk := rfl
@[simp] theorem State.mapLaunch_pwr (s : State) (u : Nat) (g : Launch → Launch) : (s.mapLaunch u g).pwr = s.pwr := rfl
@[simp] theorem State.mapLaunch_blocks (s : State) (u : Nat) (g : Launch → Launch) : (s.mapLaunch u g).blocks = s.blocks := rfl
@[simp] theorem State.mapLaunch_requests (s : State) (u : Nat) (g : Launch → Launch) : (s.mapLaunch u g).requests = s.requests := rfl
@[simp] theorem State.mapLaunch_copies (s : State) (u : Nat) (g : Launch → Launch) : (s.mapLaunch u g).copies = s.copies := rfl
@[simp] theorem State.mapLaunch_robin (s : State) (u : Nat) (g : Launch → Launch) : (s.mapLaunch u g).robin = s.robin := rfl
@[simp] theorem State.mapLaunch_path (s : State) (u : Nat) (g : Launch → Launch) : (s.mapLaunch u g).path = s.path := rfl
@[simp] theorem State.mapLaunch_tlb (s : State) (u : Nat) (g : Launch → Launch) : (s.mapLaunch u g).tlb = s.tlb := rfl
@[simp] theorem State.mapLaunch_phases (s : State) (u : Nat) (g : Launch → Launch) : (s.mapLaunch u g).phases = s.phases := rfl
@[simp] theorem State.mapLaunch_launches (s : State) (u : Nat) (g : Launch → Launch) : (s.mapLaunch u g).launches = updWhere (fun l => l.uid == u) g s.launches := rfl
@[simp] theorem State.mapLaunch_gangs (s : State) (u : Nat) (g : Launch → Launch) : (s.mapLaunch u g).gangs = s.gangs := rfl
@[simp] theorem State.mapLaunch_blazes (s : State) (u : Nat) (g : Launch → Launch) : (s.mapLaunch u g).blazes = s.blazes := rfl
@[simp] theorem State.mapLaunch_overflowed (s : State) (u : Nat) (g : Launch → Launch) : (s.mapLaunch u g).overflowed = s.overflowed := rfl
@[simp] theorem State.mapLaunch_listed (s : State) (u : Nat) (g : Launch → Launch) : (s.mapLaunch u g).listed = s.listed := rfl
@[simp] theorem State.mapLaunch_pubs (s : State) (u : Nat) (g : Launch → Launch) : (s.mapLaunch u g).pubs = s.pubs := rfl
@[simp] theorem State.mapLaunch_runReqs (s : State) (u : Nat) (g : Launch → Launch) : (s.mapLaunch u g).runReqs = s.runReqs := rfl
@[simp] theorem State.mapLaunch_runs (s : State) (u : Nat) (g : Launch → Launch) : (s.mapLaunch u g).runs = s.runs := rfl
@[simp] theorem State.mapLaunch_used (s : State) (u : Nat) (g : Launch → Launch) : (s.mapLaunch u g).used = s.used := rfl
@[simp] theorem State.mapLaunch_pass (s : State) (u : Nat) (g : Launch → Launch) : (s.mapLaunch u g).pass = s.pass := rfl
@[simp] theorem State.mapLaunch_overrun (s : State) (u : Nat) (g : Launch → Launch) : (s.mapLaunch u g).overrun = s.overrun := rfl
@[simp] theorem State.mapLaunch_eligible (s : State) (u : Nat) (g : Launch → Launch) : (s.mapLaunch u g).eligible = s.eligible := rfl
@[simp] theorem State.mapLaunch_aged (s : State) (u : Nat) (g : Launch → Launch) : (s.mapLaunch u g).aged = s.aged := rfl
@[simp] theorem State.mapLaunch_quotaAt (s : State) (u : Nat) (g : Launch → Launch) : (s.mapLaunch u g).quotaAt = s.quotaAt := rfl
@[simp] theorem State.mapLaunch_trapFrames (s : State) (u : Nat) (g : Launch → Launch) : (s.mapLaunch u g).trapFrames = s.trapFrames := rfl
@[simp] theorem State.mapLaunch_saveSlots (s : State) (u : Nat) (g : Launch → Launch) : (s.mapLaunch u g).saveSlots = s.saveSlots := rfl
@[simp] theorem State.mapLaunch_svcs (s : State) (u : Nat) (g : Launch → Launch) : (s.mapLaunch u g).svcs = s.svcs := rfl
@[simp] theorem State.mapLaunch_preempting (s : State) (u : Nat) (g : Launch → Launch) : (s.mapLaunch u g).preempting = s.preempting := rfl
@[simp] theorem State.mapLaunch_pfs (s : State) (u : Nat) (g : Launch → Launch) : (s.mapLaunch u g).pfs = s.pfs := rfl
@[simp] theorem State.mapLaunch_records (s : State) (u : Nat) (g : Launch → Launch) : (s.mapLaunch u g).records = s.records := rfl
@[simp] theorem State.mapLaunch_arrived (s : State) (u : Nat) (g : Launch → Launch) : (s.mapLaunch u g).arrived = s.arrived := rfl
@[simp] theorem State.mapLaunch_msix (s : State) (u : Nat) (g : Launch → Launch) : (s.mapLaunch u g).msix = s.msix := rfl
@[simp] theorem State.mapLaunch_d3hot (s : State) (u : Nat) (g : Launch → Launch) : (s.mapLaunch u g).d3hot = s.d3hot := rfl
@[simp] theorem State.mapLaunch_host (s : State) (u : Nat) (g : Launch → Launch) : (s.mapLaunch u g).host = s.host := rfl
@[simp] theorem State.mapLaunch_mapCmds (s : State) (u : Nat) (g : Launch → Launch) : (s.mapLaunch u g).mapCmds = s.mapCmds := rfl
@[simp] theorem State.mapLaunch_captures (s : State) (u : Nat) (g : Launch → Launch) : (s.mapLaunch u g).captures = s.captures := rfl
@[simp] theorem State.mapLaunch_latches (s : State) (u : Nat) (g : Launch → Launch) : (s.mapLaunch u g).latches = s.latches := rfl
@[simp] theorem State.mapLaunch_scans (s : State) (u : Nat) (g : Launch → Launch) : (s.mapLaunch u g).scans = s.scans := rfl
@[simp] theorem State.mapLaunch_layers (s : State) (u : Nat) (g : Launch → Launch) : (s.mapLaunch u g).layers = s.layers := rfl
@[simp] theorem State.mapLaunch_pairs (s : State) (u : Nat) (g : Launch → Launch) : (s.mapLaunch u g).pairs = s.pairs := rfl
@[simp] theorem State.mapLaunch_takeover (s : State) (u : Nat) (g : Launch → Launch) : (s.mapLaunch u g).takeover = s.takeover := rfl
@[simp] theorem State.mapLaunch_takingOver (s : State) (u : Nat) (g : Launch → Launch) : (s.mapLaunch u g).takingOver = s.takingOver := rfl
@[simp] theorem State.mapLaunch_elected (s : State) (u : Nat) (g : Launch → Launch) : (s.mapLaunch u g).elected = s.elected := rfl
@[simp] theorem State.mapLaunch_jorac (s : State) (u : Nat) (g : Launch → Launch) : (s.mapLaunch u g).jorac = s.jorac := rfl
@[simp] theorem State.mapLaunch_bank (s : State) (u : Nat) (g : Launch → Launch) : (s.mapLaunch u g).bank = s.bank := rfl
@[simp] theorem State.mapLaunch_images (s : State) (u : Nat) (g : Launch → Launch) : (s.mapLaunch u g).images = s.images := rfl
@[simp] theorem State.mapLaunch_counts (s : State) (u : Nat) (g : Launch → Launch) : (s.mapLaunch u g).counts = s.counts := rfl
@[simp] theorem State.mapLaunch_nextBank (s : State) (u : Nat) (g : Launch → Launch) : (s.mapLaunch u g).nextBank = s.nextBank := rfl
@[simp] theorem State.mapLaunch_opCtr (s : State) (u : Nat) (g : Launch → Launch) : (s.mapLaunch u g).opCtr = s.opCtr := rfl
@[simp] theorem State.mapLaunch_opKey (s : State) (u : Nat) (g : Launch → Launch) : (s.mapLaunch u g).opKey = s.opKey := rfl
@[simp] theorem State.mapLaunch_updating (s : State) (u : Nat) (g : Launch → Launch) : (s.mapLaunch u g).updating = s.updating := rfl
@[simp] theorem State.mapLaunch_memlayDone (s : State) (u : Nat) (g : Launch → Launch) : (s.mapLaunch u g).memlayDone = s.memlayDone := rfl
@[simp] theorem State.mapLaunch_stopped (s : State) (u : Nat) (g : Launch → Launch) : (s.mapLaunch u g).stopped = s.stopped := rfl
@[simp] theorem State.mapLaunch_keys (s : State) (u : Nat) (g : Launch → Launch) : (s.mapLaunch u g).keys = s.keys := rfl
@[simp] theorem State.mapLaunch_peerNo (s : State) (u : Nat) (g : Launch → Launch) : (s.mapLaunch u g).peerNo = s.peerNo := rfl
@[simp] theorem State.mapLaunch_sessions (s : State) (u : Nat) (g : Launch → Launch) : (s.mapLaunch u g).sessions = s.sessions := rfl
@[simp] theorem State.mapLaunch_booted (s : State) (u : Nat) (g : Launch → Launch) : (s.mapLaunch u g).booted = s.booted := rfl
@[simp] theorem State.mapLaunch_tlbiWait (s : State) (u : Nat) (g : Launch → Launch) : (s.mapLaunch u g).tlbiWait = s.tlbiWait := rfl
@[simp] theorem State.mapLaunch_ide (s : State) (u : Nat) (g : Launch → Launch) : (s.mapLaunch u g).ide = s.ide := rfl
@[simp] theorem State.mapLaunch_flips (s : State) (u : Nat) (g : Launch → Launch) : (s.mapLaunch u g).flips = s.flips := rfl
@[simp] theorem State.mapLaunch_agenda (s : State) (u : Nat) (g : Launch → Launch) : (s.mapLaunch u g).agenda = s.agenda := rfl
@[simp] theorem State.mapLaunch_cur (s : State) (u : Nat) (g : Launch → Launch) : (s.mapLaunch u g).cur = s.cur := rfl
@[simp] theorem State.mapLaunch_pace (s : State) (u : Nat) (g : Launch → Launch) : (s.mapLaunch u g).pace = s.pace := rfl
@[simp] theorem State.mapLaunch_uids (s : State) (u : Nat) (g : Launch → Launch) : (s.mapLaunch u g).uids = s.uids := rfl
@[simp] theorem State.mapLaunch_free (s : State) (u : Nat) (g : Launch → Launch) : (s.mapLaunch u g).free = s.free := rfl

/-! ## `State.mapPhase` -/

@[simp] theorem State.mapPhase_mem (s : State) (u : Nat) (g : Phase → Phase) : (s.mapPhase u g).mem = s.mem := rfl
@[simp] theorem State.mapPhase_stale (s : State) (u : Nat) (g : Phase → Phase) : (s.mapPhase u g).stale = s.stale := rfl
@[simp] theorem State.mapPhase_dir (s : State) (u : Nat) (g : Phase → Phase) : (s.mapPhase u g).dir = s.dir := rfl
@[simp] theorem State.mapPhase_rels (s : State) (u : Nat) (g : Phase → Phase) : (s.mapPhase u g).rels = s.rels := rfl
@[simp] theorem State.mapPhase_frames (s : State) (u : Nat) (g : Phase → Phase) : (s.mapPhase u g).frames = s.frames := rfl
@[simp] theorem State.mapPhase_dcb (s : State) (u : Nat) (g : Phase → Phase) : (s.mapPhase u g).dcb = s.dcb := rfl
@[simp] theorem State.mapPhase_slices (s : State) (u : Nat) (g : Phase → Phase) : (s.mapPhase u g).slices = s.slices := rfl
@[simp] theorem State.mapPhase_clk (s : State) (u : Nat) (g : Phase → Phase) : (s.mapPhase u g).clk = s.clk := rfl
@[simp] theorem State.mapPhase_pwr (s : State) (u : Nat) (g : Phase → Phase) : (s.mapPhase u g).pwr = s.pwr := rfl
@[simp] theorem State.mapPhase_blocks (s : State) (u : Nat) (g : Phase → Phase) : (s.mapPhase u g).blocks = s.blocks := rfl
@[simp] theorem State.mapPhase_requests (s : State) (u : Nat) (g : Phase → Phase) : (s.mapPhase u g).requests = s.requests := rfl
@[simp] theorem State.mapPhase_copies (s : State) (u : Nat) (g : Phase → Phase) : (s.mapPhase u g).copies = s.copies := rfl
@[simp] theorem State.mapPhase_robin (s : State) (u : Nat) (g : Phase → Phase) : (s.mapPhase u g).robin = s.robin := rfl
@[simp] theorem State.mapPhase_path (s : State) (u : Nat) (g : Phase → Phase) : (s.mapPhase u g).path = s.path := rfl
@[simp] theorem State.mapPhase_tlb (s : State) (u : Nat) (g : Phase → Phase) : (s.mapPhase u g).tlb = s.tlb := rfl
@[simp] theorem State.mapPhase_phases (s : State) (u : Nat) (g : Phase → Phase) : (s.mapPhase u g).phases = updWhere (fun p => p.uid == u) g s.phases := rfl
@[simp] theorem State.mapPhase_launches (s : State) (u : Nat) (g : Phase → Phase) : (s.mapPhase u g).launches = s.launches := rfl
@[simp] theorem State.mapPhase_gangs (s : State) (u : Nat) (g : Phase → Phase) : (s.mapPhase u g).gangs = s.gangs := rfl
@[simp] theorem State.mapPhase_blazes (s : State) (u : Nat) (g : Phase → Phase) : (s.mapPhase u g).blazes = s.blazes := rfl
@[simp] theorem State.mapPhase_overflowed (s : State) (u : Nat) (g : Phase → Phase) : (s.mapPhase u g).overflowed = s.overflowed := rfl
@[simp] theorem State.mapPhase_listed (s : State) (u : Nat) (g : Phase → Phase) : (s.mapPhase u g).listed = s.listed := rfl
@[simp] theorem State.mapPhase_pubs (s : State) (u : Nat) (g : Phase → Phase) : (s.mapPhase u g).pubs = s.pubs := rfl
@[simp] theorem State.mapPhase_runReqs (s : State) (u : Nat) (g : Phase → Phase) : (s.mapPhase u g).runReqs = s.runReqs := rfl
@[simp] theorem State.mapPhase_runs (s : State) (u : Nat) (g : Phase → Phase) : (s.mapPhase u g).runs = s.runs := rfl
@[simp] theorem State.mapPhase_used (s : State) (u : Nat) (g : Phase → Phase) : (s.mapPhase u g).used = s.used := rfl
@[simp] theorem State.mapPhase_pass (s : State) (u : Nat) (g : Phase → Phase) : (s.mapPhase u g).pass = s.pass := rfl
@[simp] theorem State.mapPhase_overrun (s : State) (u : Nat) (g : Phase → Phase) : (s.mapPhase u g).overrun = s.overrun := rfl
@[simp] theorem State.mapPhase_eligible (s : State) (u : Nat) (g : Phase → Phase) : (s.mapPhase u g).eligible = s.eligible := rfl
@[simp] theorem State.mapPhase_aged (s : State) (u : Nat) (g : Phase → Phase) : (s.mapPhase u g).aged = s.aged := rfl
@[simp] theorem State.mapPhase_quotaAt (s : State) (u : Nat) (g : Phase → Phase) : (s.mapPhase u g).quotaAt = s.quotaAt := rfl
@[simp] theorem State.mapPhase_trapFrames (s : State) (u : Nat) (g : Phase → Phase) : (s.mapPhase u g).trapFrames = s.trapFrames := rfl
@[simp] theorem State.mapPhase_saveSlots (s : State) (u : Nat) (g : Phase → Phase) : (s.mapPhase u g).saveSlots = s.saveSlots := rfl
@[simp] theorem State.mapPhase_svcs (s : State) (u : Nat) (g : Phase → Phase) : (s.mapPhase u g).svcs = s.svcs := rfl
@[simp] theorem State.mapPhase_preempting (s : State) (u : Nat) (g : Phase → Phase) : (s.mapPhase u g).preempting = s.preempting := rfl
@[simp] theorem State.mapPhase_pfs (s : State) (u : Nat) (g : Phase → Phase) : (s.mapPhase u g).pfs = s.pfs := rfl
@[simp] theorem State.mapPhase_records (s : State) (u : Nat) (g : Phase → Phase) : (s.mapPhase u g).records = s.records := rfl
@[simp] theorem State.mapPhase_arrived (s : State) (u : Nat) (g : Phase → Phase) : (s.mapPhase u g).arrived = s.arrived := rfl
@[simp] theorem State.mapPhase_msix (s : State) (u : Nat) (g : Phase → Phase) : (s.mapPhase u g).msix = s.msix := rfl
@[simp] theorem State.mapPhase_d3hot (s : State) (u : Nat) (g : Phase → Phase) : (s.mapPhase u g).d3hot = s.d3hot := rfl
@[simp] theorem State.mapPhase_host (s : State) (u : Nat) (g : Phase → Phase) : (s.mapPhase u g).host = s.host := rfl
@[simp] theorem State.mapPhase_mapCmds (s : State) (u : Nat) (g : Phase → Phase) : (s.mapPhase u g).mapCmds = s.mapCmds := rfl
@[simp] theorem State.mapPhase_captures (s : State) (u : Nat) (g : Phase → Phase) : (s.mapPhase u g).captures = s.captures := rfl
@[simp] theorem State.mapPhase_latches (s : State) (u : Nat) (g : Phase → Phase) : (s.mapPhase u g).latches = s.latches := rfl
@[simp] theorem State.mapPhase_scans (s : State) (u : Nat) (g : Phase → Phase) : (s.mapPhase u g).scans = s.scans := rfl
@[simp] theorem State.mapPhase_layers (s : State) (u : Nat) (g : Phase → Phase) : (s.mapPhase u g).layers = s.layers := rfl
@[simp] theorem State.mapPhase_pairs (s : State) (u : Nat) (g : Phase → Phase) : (s.mapPhase u g).pairs = s.pairs := rfl
@[simp] theorem State.mapPhase_takeover (s : State) (u : Nat) (g : Phase → Phase) : (s.mapPhase u g).takeover = s.takeover := rfl
@[simp] theorem State.mapPhase_takingOver (s : State) (u : Nat) (g : Phase → Phase) : (s.mapPhase u g).takingOver = s.takingOver := rfl
@[simp] theorem State.mapPhase_elected (s : State) (u : Nat) (g : Phase → Phase) : (s.mapPhase u g).elected = s.elected := rfl
@[simp] theorem State.mapPhase_jorac (s : State) (u : Nat) (g : Phase → Phase) : (s.mapPhase u g).jorac = s.jorac := rfl
@[simp] theorem State.mapPhase_bank (s : State) (u : Nat) (g : Phase → Phase) : (s.mapPhase u g).bank = s.bank := rfl
@[simp] theorem State.mapPhase_images (s : State) (u : Nat) (g : Phase → Phase) : (s.mapPhase u g).images = s.images := rfl
@[simp] theorem State.mapPhase_counts (s : State) (u : Nat) (g : Phase → Phase) : (s.mapPhase u g).counts = s.counts := rfl
@[simp] theorem State.mapPhase_nextBank (s : State) (u : Nat) (g : Phase → Phase) : (s.mapPhase u g).nextBank = s.nextBank := rfl
@[simp] theorem State.mapPhase_opCtr (s : State) (u : Nat) (g : Phase → Phase) : (s.mapPhase u g).opCtr = s.opCtr := rfl
@[simp] theorem State.mapPhase_opKey (s : State) (u : Nat) (g : Phase → Phase) : (s.mapPhase u g).opKey = s.opKey := rfl
@[simp] theorem State.mapPhase_updating (s : State) (u : Nat) (g : Phase → Phase) : (s.mapPhase u g).updating = s.updating := rfl
@[simp] theorem State.mapPhase_memlayDone (s : State) (u : Nat) (g : Phase → Phase) : (s.mapPhase u g).memlayDone = s.memlayDone := rfl
@[simp] theorem State.mapPhase_stopped (s : State) (u : Nat) (g : Phase → Phase) : (s.mapPhase u g).stopped = s.stopped := rfl
@[simp] theorem State.mapPhase_keys (s : State) (u : Nat) (g : Phase → Phase) : (s.mapPhase u g).keys = s.keys := rfl
@[simp] theorem State.mapPhase_peerNo (s : State) (u : Nat) (g : Phase → Phase) : (s.mapPhase u g).peerNo = s.peerNo := rfl
@[simp] theorem State.mapPhase_sessions (s : State) (u : Nat) (g : Phase → Phase) : (s.mapPhase u g).sessions = s.sessions := rfl
@[simp] theorem State.mapPhase_booted (s : State) (u : Nat) (g : Phase → Phase) : (s.mapPhase u g).booted = s.booted := rfl
@[simp] theorem State.mapPhase_tlbiWait (s : State) (u : Nat) (g : Phase → Phase) : (s.mapPhase u g).tlbiWait = s.tlbiWait := rfl
@[simp] theorem State.mapPhase_ide (s : State) (u : Nat) (g : Phase → Phase) : (s.mapPhase u g).ide = s.ide := rfl
@[simp] theorem State.mapPhase_flips (s : State) (u : Nat) (g : Phase → Phase) : (s.mapPhase u g).flips = s.flips := rfl
@[simp] theorem State.mapPhase_agenda (s : State) (u : Nat) (g : Phase → Phase) : (s.mapPhase u g).agenda = s.agenda := rfl
@[simp] theorem State.mapPhase_cur (s : State) (u : Nat) (g : Phase → Phase) : (s.mapPhase u g).cur = s.cur := rfl
@[simp] theorem State.mapPhase_pace (s : State) (u : Nat) (g : Phase → Phase) : (s.mapPhase u g).pace = s.pace := rfl
@[simp] theorem State.mapPhase_uids (s : State) (u : Nat) (g : Phase → Phase) : (s.mapPhase u g).uids = s.uids := rfl
@[simp] theorem State.mapPhase_free (s : State) (u : Nat) (g : Phase → Phase) : (s.mapPhase u g).free = s.free := rfl

/-! ## `State.fresh` -/

@[simp] theorem State.fresh_mem (s : State) : s.fresh.2.mem = s.mem := rfl
@[simp] theorem State.fresh_stale (s : State) : s.fresh.2.stale = s.stale := rfl
@[simp] theorem State.fresh_dir (s : State) : s.fresh.2.dir = s.dir := rfl
@[simp] theorem State.fresh_rels (s : State) : s.fresh.2.rels = s.rels := rfl
@[simp] theorem State.fresh_frames (s : State) : s.fresh.2.frames = s.frames := rfl
@[simp] theorem State.fresh_dcb (s : State) : s.fresh.2.dcb = s.dcb := rfl
@[simp] theorem State.fresh_slices (s : State) : s.fresh.2.slices = s.slices := rfl
@[simp] theorem State.fresh_clk (s : State) : s.fresh.2.clk = s.clk := rfl
@[simp] theorem State.fresh_pwr (s : State) : s.fresh.2.pwr = s.pwr := rfl
@[simp] theorem State.fresh_blocks (s : State) : s.fresh.2.blocks = s.blocks := rfl
@[simp] theorem State.fresh_requests (s : State) : s.fresh.2.requests = s.requests := rfl
@[simp] theorem State.fresh_copies (s : State) : s.fresh.2.copies = s.copies := rfl
@[simp] theorem State.fresh_robin (s : State) : s.fresh.2.robin = s.robin := rfl
@[simp] theorem State.fresh_path (s : State) : s.fresh.2.path = s.path := rfl
@[simp] theorem State.fresh_tlb (s : State) : s.fresh.2.tlb = s.tlb := rfl
@[simp] theorem State.fresh_phases (s : State) : s.fresh.2.phases = s.phases := rfl
@[simp] theorem State.fresh_launches (s : State) : s.fresh.2.launches = s.launches := rfl
@[simp] theorem State.fresh_gangs (s : State) : s.fresh.2.gangs = s.gangs := rfl
@[simp] theorem State.fresh_blazes (s : State) : s.fresh.2.blazes = s.blazes := rfl
@[simp] theorem State.fresh_overflowed (s : State) : s.fresh.2.overflowed = s.overflowed := rfl
@[simp] theorem State.fresh_listed (s : State) : s.fresh.2.listed = s.listed := rfl
@[simp] theorem State.fresh_pubs (s : State) : s.fresh.2.pubs = s.pubs := rfl
@[simp] theorem State.fresh_runReqs (s : State) : s.fresh.2.runReqs = s.runReqs := rfl
@[simp] theorem State.fresh_runs (s : State) : s.fresh.2.runs = s.runs := rfl
@[simp] theorem State.fresh_used (s : State) : s.fresh.2.used = s.used := rfl
@[simp] theorem State.fresh_pass (s : State) : s.fresh.2.pass = s.pass := rfl
@[simp] theorem State.fresh_overrun (s : State) : s.fresh.2.overrun = s.overrun := rfl
@[simp] theorem State.fresh_eligible (s : State) : s.fresh.2.eligible = s.eligible := rfl
@[simp] theorem State.fresh_aged (s : State) : s.fresh.2.aged = s.aged := rfl
@[simp] theorem State.fresh_quotaAt (s : State) : s.fresh.2.quotaAt = s.quotaAt := rfl
@[simp] theorem State.fresh_trapFrames (s : State) : s.fresh.2.trapFrames = s.trapFrames := rfl
@[simp] theorem State.fresh_saveSlots (s : State) : s.fresh.2.saveSlots = s.saveSlots := rfl
@[simp] theorem State.fresh_svcs (s : State) : s.fresh.2.svcs = s.svcs := rfl
@[simp] theorem State.fresh_preempting (s : State) : s.fresh.2.preempting = s.preempting := rfl
@[simp] theorem State.fresh_pfs (s : State) : s.fresh.2.pfs = s.pfs := rfl
@[simp] theorem State.fresh_records (s : State) : s.fresh.2.records = s.records := rfl
@[simp] theorem State.fresh_arrived (s : State) : s.fresh.2.arrived = s.arrived := rfl
@[simp] theorem State.fresh_msix (s : State) : s.fresh.2.msix = s.msix := rfl
@[simp] theorem State.fresh_d3hot (s : State) : s.fresh.2.d3hot = s.d3hot := rfl
@[simp] theorem State.fresh_host (s : State) : s.fresh.2.host = s.host := rfl
@[simp] theorem State.fresh_mapCmds (s : State) : s.fresh.2.mapCmds = s.mapCmds := rfl
@[simp] theorem State.fresh_captures (s : State) : s.fresh.2.captures = s.captures := rfl
@[simp] theorem State.fresh_latches (s : State) : s.fresh.2.latches = s.latches := rfl
@[simp] theorem State.fresh_scans (s : State) : s.fresh.2.scans = s.scans := rfl
@[simp] theorem State.fresh_layers (s : State) : s.fresh.2.layers = s.layers := rfl
@[simp] theorem State.fresh_pairs (s : State) : s.fresh.2.pairs = s.pairs := rfl
@[simp] theorem State.fresh_takeover (s : State) : s.fresh.2.takeover = s.takeover := rfl
@[simp] theorem State.fresh_takingOver (s : State) : s.fresh.2.takingOver = s.takingOver := rfl
@[simp] theorem State.fresh_elected (s : State) : s.fresh.2.elected = s.elected := rfl
@[simp] theorem State.fresh_jorac (s : State) : s.fresh.2.jorac = s.jorac := rfl
@[simp] theorem State.fresh_bank (s : State) : s.fresh.2.bank = s.bank := rfl
@[simp] theorem State.fresh_images (s : State) : s.fresh.2.images = s.images := rfl
@[simp] theorem State.fresh_counts (s : State) : s.fresh.2.counts = s.counts := rfl
@[simp] theorem State.fresh_nextBank (s : State) : s.fresh.2.nextBank = s.nextBank := rfl
@[simp] theorem State.fresh_opCtr (s : State) : s.fresh.2.opCtr = s.opCtr := rfl
@[simp] theorem State.fresh_opKey (s : State) : s.fresh.2.opKey = s.opKey := rfl
@[simp] theorem State.fresh_updating (s : State) : s.fresh.2.updating = s.updating := rfl
@[simp] theorem State.fresh_memlayDone (s : State) : s.fresh.2.memlayDone = s.memlayDone := rfl
@[simp] theorem State.fresh_stopped (s : State) : s.fresh.2.stopped = s.stopped := rfl
@[simp] theorem State.fresh_keys (s : State) : s.fresh.2.keys = s.keys := rfl
@[simp] theorem State.fresh_peerNo (s : State) : s.fresh.2.peerNo = s.peerNo := rfl
@[simp] theorem State.fresh_sessions (s : State) : s.fresh.2.sessions = s.sessions := rfl
@[simp] theorem State.fresh_booted (s : State) : s.fresh.2.booted = s.booted := rfl
@[simp] theorem State.fresh_tlbiWait (s : State) : s.fresh.2.tlbiWait = s.tlbiWait := rfl
@[simp] theorem State.fresh_ide (s : State) : s.fresh.2.ide = s.ide := rfl
@[simp] theorem State.fresh_flips (s : State) : s.fresh.2.flips = s.flips := rfl
@[simp] theorem State.fresh_agenda (s : State) : s.fresh.2.agenda = s.agenda := rfl
@[simp] theorem State.fresh_cur (s : State) : s.fresh.2.cur = s.cur := rfl
@[simp] theorem State.fresh_pace (s : State) : s.fresh.2.pace = s.pace := rfl
@[simp] theorem State.fresh_uids (s : State) : s.fresh.2.uids = s.uids + 1 := rfl
@[simp] theorem State.fresh_free (s : State) : s.fresh.2.free = s.free := rfl

/-! ## `State.begun` -/

@[simp] theorem State.begun_mem (s : State) : s.begun.mem = s.mem := rfl
@[simp] theorem State.begun_stale (s : State) : s.begun.stale = s.stale := rfl
@[simp] theorem State.begun_dir (s : State) : s.begun.dir = s.dir := rfl
@[simp] theorem State.begun_rels (s : State) : s.begun.rels = s.rels := rfl
@[simp] theorem State.begun_frames (s : State) : s.begun.frames = s.frames := rfl
@[simp] theorem State.begun_dcb (s : State) : s.begun.dcb = s.dcb := rfl
@[simp] theorem State.begun_slices (s : State) : s.begun.slices = s.slices := rfl
@[simp] theorem State.begun_clk (s : State) : s.begun.clk = s.clk := rfl
@[simp] theorem State.begun_pwr (s : State) : s.begun.pwr = s.pwr := rfl
@[simp] theorem State.begun_blocks (s : State) : s.begun.blocks = s.blocks := rfl
@[simp] theorem State.begun_requests (s : State) : s.begun.requests = s.requests := rfl
@[simp] theorem State.begun_copies (s : State) : s.begun.copies = s.copies := rfl
@[simp] theorem State.begun_robin (s : State) : s.begun.robin = s.robin := rfl
@[simp] theorem State.begun_path (s : State) : s.begun.path = s.path := rfl
@[simp] theorem State.begun_tlb (s : State) : s.begun.tlb = s.tlb := rfl
@[simp] theorem State.begun_phases (s : State) : s.begun.phases = s.phases := rfl
@[simp] theorem State.begun_launches (s : State) : s.begun.launches = s.launches := rfl
@[simp] theorem State.begun_gangs (s : State) : s.begun.gangs = s.gangs := rfl
@[simp] theorem State.begun_blazes (s : State) : s.begun.blazes = s.blazes := rfl
@[simp] theorem State.begun_overflowed (s : State) : s.begun.overflowed = s.overflowed := rfl
@[simp] theorem State.begun_listed (s : State) : s.begun.listed = s.listed := rfl
@[simp] theorem State.begun_pubs (s : State) : s.begun.pubs = s.pubs := rfl
@[simp] theorem State.begun_runReqs (s : State) : s.begun.runReqs = s.runReqs := rfl
@[simp] theorem State.begun_runs (s : State) : s.begun.runs = s.runs := rfl
@[simp] theorem State.begun_used (s : State) : s.begun.used = s.used := rfl
@[simp] theorem State.begun_pass (s : State) : s.begun.pass = s.pass := rfl
@[simp] theorem State.begun_overrun (s : State) : s.begun.overrun = s.overrun := rfl
@[simp] theorem State.begun_eligible (s : State) : s.begun.eligible = s.eligible := rfl
@[simp] theorem State.begun_aged (s : State) : s.begun.aged = s.aged := rfl
@[simp] theorem State.begun_quotaAt (s : State) : s.begun.quotaAt = s.quotaAt := rfl
@[simp] theorem State.begun_trapFrames (s : State) : s.begun.trapFrames = s.trapFrames := rfl
@[simp] theorem State.begun_saveSlots (s : State) : s.begun.saveSlots = s.saveSlots := rfl
@[simp] theorem State.begun_svcs (s : State) : s.begun.svcs = s.svcs := rfl
@[simp] theorem State.begun_preempting (s : State) : s.begun.preempting = s.preempting := rfl
@[simp] theorem State.begun_pfs (s : State) : s.begun.pfs = s.pfs := rfl
@[simp] theorem State.begun_records (s : State) : s.begun.records = s.records := rfl
@[simp] theorem State.begun_arrived (s : State) : s.begun.arrived = s.arrived := rfl
@[simp] theorem State.begun_msix (s : State) : s.begun.msix = s.msix := rfl
@[simp] theorem State.begun_d3hot (s : State) : s.begun.d3hot = s.d3hot := rfl
@[simp] theorem State.begun_host (s : State) : s.begun.host = s.host := rfl
@[simp] theorem State.begun_mapCmds (s : State) : s.begun.mapCmds = s.mapCmds := rfl
@[simp] theorem State.begun_captures (s : State) : s.begun.captures = s.captures := rfl
@[simp] theorem State.begun_latches (s : State) : s.begun.latches = s.latches := rfl
@[simp] theorem State.begun_scans (s : State) : s.begun.scans = s.scans := rfl
@[simp] theorem State.begun_layers (s : State) : s.begun.layers = s.layers := rfl
@[simp] theorem State.begun_pairs (s : State) : s.begun.pairs = s.pairs := rfl
@[simp] theorem State.begun_takeover (s : State) : s.begun.takeover = s.takeover := rfl
@[simp] theorem State.begun_takingOver (s : State) : s.begun.takingOver = s.takingOver := rfl
@[simp] theorem State.begun_elected (s : State) : s.begun.elected = s.elected := rfl
@[simp] theorem State.begun_jorac (s : State) : s.begun.jorac = s.jorac := rfl
@[simp] theorem State.begun_bank (s : State) : s.begun.bank = s.bank := rfl
@[simp] theorem State.begun_images (s : State) : s.begun.images = s.images := rfl
@[simp] theorem State.begun_counts (s : State) : s.begun.counts = s.counts := rfl
@[simp] theorem State.begun_nextBank (s : State) : s.begun.nextBank = s.nextBank := rfl
@[simp] theorem State.begun_opCtr (s : State) : s.begun.opCtr = s.opCtr := rfl
@[simp] theorem State.begun_opKey (s : State) : s.begun.opKey = s.opKey := rfl
@[simp] theorem State.begun_updating (s : State) : s.begun.updating = s.updating := rfl
@[simp] theorem State.begun_memlayDone (s : State) : s.begun.memlayDone = s.memlayDone := rfl
@[simp] theorem State.begun_stopped (s : State) : s.begun.stopped = s.stopped := rfl
@[simp] theorem State.begun_keys (s : State) : s.begun.keys = s.keys := rfl
@[simp] theorem State.begun_peerNo (s : State) : s.begun.peerNo = s.peerNo := rfl
@[simp] theorem State.begun_sessions (s : State) : s.begun.sessions = s.sessions := rfl
@[simp] theorem State.begun_booted (s : State) : s.begun.booted = s.booted := rfl
@[simp] theorem State.begun_tlbiWait (s : State) : s.begun.tlbiWait = s.tlbiWait := rfl
@[simp] theorem State.begun_ide (s : State) : s.begun.ide = s.ide := rfl
@[simp] theorem State.begun_flips (s : State) : s.begun.flips = s.flips := rfl
@[simp] theorem State.begun_agenda (s : State) : s.begun.agenda = s.agenda := rfl
@[simp] theorem State.begun_cur (s : State) : s.begun.cur = s.cur := rfl
@[simp] theorem State.begun_pace (s : State) : s.begun.pace = s.pace := rfl
@[simp] theorem State.begun_uids (s : State) : s.begun.uids = s.uids := rfl
@[simp] theorem State.begun_free (s : State) : s.begun.free = s.free + 1 := rfl

/-! ## `State.setReg` -/

@[simp] theorem State.setReg_mem (s : State) (o : Nat) (v : W64) : (s.setReg o v).mem = s.mem := rfl
@[simp] theorem State.setReg_stale (s : State) (o : Nat) (v : W64) : (s.setReg o v).stale = s.stale := rfl
@[simp] theorem State.setReg_dir (s : State) (o : Nat) (v : W64) : (s.setReg o v).dir = s.dir := rfl
@[simp] theorem State.setReg_rels (s : State) (o : Nat) (v : W64) : (s.setReg o v).rels = s.rels := rfl
@[simp] theorem State.setReg_frames (s : State) (o : Nat) (v : W64) : (s.setReg o v).frames = s.frames := rfl
@[simp] theorem State.setReg_dcb (s : State) (o : Nat) (v : W64) : (s.setReg o v).dcb = spSet (dcbDefault (o / 8)) (o / 8) v s.dcb := rfl
@[simp] theorem State.setReg_slices (s : State) (o : Nat) (v : W64) : (s.setReg o v).slices = s.slices := rfl
@[simp] theorem State.setReg_clk (s : State) (o : Nat) (v : W64) : (s.setReg o v).clk = s.clk := rfl
@[simp] theorem State.setReg_pwr (s : State) (o : Nat) (v : W64) : (s.setReg o v).pwr = s.pwr := rfl
@[simp] theorem State.setReg_blocks (s : State) (o : Nat) (v : W64) : (s.setReg o v).blocks = s.blocks := rfl
@[simp] theorem State.setReg_requests (s : State) (o : Nat) (v : W64) : (s.setReg o v).requests = s.requests := rfl
@[simp] theorem State.setReg_copies (s : State) (o : Nat) (v : W64) : (s.setReg o v).copies = s.copies := rfl
@[simp] theorem State.setReg_robin (s : State) (o : Nat) (v : W64) : (s.setReg o v).robin = s.robin := rfl
@[simp] theorem State.setReg_path (s : State) (o : Nat) (v : W64) : (s.setReg o v).path = s.path := rfl
@[simp] theorem State.setReg_tlb (s : State) (o : Nat) (v : W64) : (s.setReg o v).tlb = s.tlb := rfl
@[simp] theorem State.setReg_phases (s : State) (o : Nat) (v : W64) : (s.setReg o v).phases = s.phases := rfl
@[simp] theorem State.setReg_launches (s : State) (o : Nat) (v : W64) : (s.setReg o v).launches = s.launches := rfl
@[simp] theorem State.setReg_gangs (s : State) (o : Nat) (v : W64) : (s.setReg o v).gangs = s.gangs := rfl
@[simp] theorem State.setReg_blazes (s : State) (o : Nat) (v : W64) : (s.setReg o v).blazes = s.blazes := rfl
@[simp] theorem State.setReg_overflowed (s : State) (o : Nat) (v : W64) : (s.setReg o v).overflowed = s.overflowed := rfl
@[simp] theorem State.setReg_listed (s : State) (o : Nat) (v : W64) : (s.setReg o v).listed = s.listed := rfl
@[simp] theorem State.setReg_pubs (s : State) (o : Nat) (v : W64) : (s.setReg o v).pubs = s.pubs := rfl
@[simp] theorem State.setReg_runReqs (s : State) (o : Nat) (v : W64) : (s.setReg o v).runReqs = s.runReqs := rfl
@[simp] theorem State.setReg_runs (s : State) (o : Nat) (v : W64) : (s.setReg o v).runs = s.runs := rfl
@[simp] theorem State.setReg_used (s : State) (o : Nat) (v : W64) : (s.setReg o v).used = s.used := rfl
@[simp] theorem State.setReg_pass (s : State) (o : Nat) (v : W64) : (s.setReg o v).pass = s.pass := rfl
@[simp] theorem State.setReg_overrun (s : State) (o : Nat) (v : W64) : (s.setReg o v).overrun = s.overrun := rfl
@[simp] theorem State.setReg_eligible (s : State) (o : Nat) (v : W64) : (s.setReg o v).eligible = s.eligible := rfl
@[simp] theorem State.setReg_aged (s : State) (o : Nat) (v : W64) : (s.setReg o v).aged = s.aged := rfl
@[simp] theorem State.setReg_quotaAt (s : State) (o : Nat) (v : W64) : (s.setReg o v).quotaAt = s.quotaAt := rfl
@[simp] theorem State.setReg_trapFrames (s : State) (o : Nat) (v : W64) : (s.setReg o v).trapFrames = s.trapFrames := rfl
@[simp] theorem State.setReg_saveSlots (s : State) (o : Nat) (v : W64) : (s.setReg o v).saveSlots = s.saveSlots := rfl
@[simp] theorem State.setReg_svcs (s : State) (o : Nat) (v : W64) : (s.setReg o v).svcs = s.svcs := rfl
@[simp] theorem State.setReg_preempting (s : State) (o : Nat) (v : W64) : (s.setReg o v).preempting = s.preempting := rfl
@[simp] theorem State.setReg_pfs (s : State) (o : Nat) (v : W64) : (s.setReg o v).pfs = s.pfs := rfl
@[simp] theorem State.setReg_records (s : State) (o : Nat) (v : W64) : (s.setReg o v).records = s.records := rfl
@[simp] theorem State.setReg_arrived (s : State) (o : Nat) (v : W64) : (s.setReg o v).arrived = s.arrived := rfl
@[simp] theorem State.setReg_msix (s : State) (o : Nat) (v : W64) : (s.setReg o v).msix = s.msix := rfl
@[simp] theorem State.setReg_d3hot (s : State) (o : Nat) (v : W64) : (s.setReg o v).d3hot = s.d3hot := rfl
@[simp] theorem State.setReg_host (s : State) (o : Nat) (v : W64) : (s.setReg o v).host = s.host := rfl
@[simp] theorem State.setReg_mapCmds (s : State) (o : Nat) (v : W64) : (s.setReg o v).mapCmds = s.mapCmds := rfl
@[simp] theorem State.setReg_captures (s : State) (o : Nat) (v : W64) : (s.setReg o v).captures = s.captures := rfl
@[simp] theorem State.setReg_latches (s : State) (o : Nat) (v : W64) : (s.setReg o v).latches = s.latches := rfl
@[simp] theorem State.setReg_scans (s : State) (o : Nat) (v : W64) : (s.setReg o v).scans = s.scans := rfl
@[simp] theorem State.setReg_layers (s : State) (o : Nat) (v : W64) : (s.setReg o v).layers = s.layers := rfl
@[simp] theorem State.setReg_pairs (s : State) (o : Nat) (v : W64) : (s.setReg o v).pairs = s.pairs := rfl
@[simp] theorem State.setReg_takeover (s : State) (o : Nat) (v : W64) : (s.setReg o v).takeover = s.takeover := rfl
@[simp] theorem State.setReg_takingOver (s : State) (o : Nat) (v : W64) : (s.setReg o v).takingOver = s.takingOver := rfl
@[simp] theorem State.setReg_elected (s : State) (o : Nat) (v : W64) : (s.setReg o v).elected = s.elected := rfl
@[simp] theorem State.setReg_jorac (s : State) (o : Nat) (v : W64) : (s.setReg o v).jorac = s.jorac := rfl
@[simp] theorem State.setReg_bank (s : State) (o : Nat) (v : W64) : (s.setReg o v).bank = s.bank := rfl
@[simp] theorem State.setReg_images (s : State) (o : Nat) (v : W64) : (s.setReg o v).images = s.images := rfl
@[simp] theorem State.setReg_counts (s : State) (o : Nat) (v : W64) : (s.setReg o v).counts = s.counts := rfl
@[simp] theorem State.setReg_nextBank (s : State) (o : Nat) (v : W64) : (s.setReg o v).nextBank = s.nextBank := rfl
@[simp] theorem State.setReg_opCtr (s : State) (o : Nat) (v : W64) : (s.setReg o v).opCtr = s.opCtr := rfl
@[simp] theorem State.setReg_opKey (s : State) (o : Nat) (v : W64) : (s.setReg o v).opKey = s.opKey := rfl
@[simp] theorem State.setReg_updating (s : State) (o : Nat) (v : W64) : (s.setReg o v).updating = s.updating := rfl
@[simp] theorem State.setReg_memlayDone (s : State) (o : Nat) (v : W64) : (s.setReg o v).memlayDone = s.memlayDone := rfl
@[simp] theorem State.setReg_stopped (s : State) (o : Nat) (v : W64) : (s.setReg o v).stopped = s.stopped := rfl
@[simp] theorem State.setReg_keys (s : State) (o : Nat) (v : W64) : (s.setReg o v).keys = s.keys := rfl
@[simp] theorem State.setReg_peerNo (s : State) (o : Nat) (v : W64) : (s.setReg o v).peerNo = s.peerNo := rfl
@[simp] theorem State.setReg_sessions (s : State) (o : Nat) (v : W64) : (s.setReg o v).sessions = s.sessions := rfl
@[simp] theorem State.setReg_booted (s : State) (o : Nat) (v : W64) : (s.setReg o v).booted = s.booted := rfl
@[simp] theorem State.setReg_tlbiWait (s : State) (o : Nat) (v : W64) : (s.setReg o v).tlbiWait = s.tlbiWait := rfl
@[simp] theorem State.setReg_ide (s : State) (o : Nat) (v : W64) : (s.setReg o v).ide = s.ide := rfl
@[simp] theorem State.setReg_flips (s : State) (o : Nat) (v : W64) : (s.setReg o v).flips = s.flips := rfl
@[simp] theorem State.setReg_agenda (s : State) (o : Nat) (v : W64) : (s.setReg o v).agenda = s.agenda := rfl
@[simp] theorem State.setReg_cur (s : State) (o : Nat) (v : W64) : (s.setReg o v).cur = s.cur := rfl
@[simp] theorem State.setReg_pace (s : State) (o : Nat) (v : W64) : (s.setReg o v).pace = s.pace := rfl
@[simp] theorem State.setReg_uids (s : State) (o : Nat) (v : W64) : (s.setReg o v).uids = s.uids := rfl
@[simp] theorem State.setReg_free (s : State) (o : Nat) (v : W64) : (s.setReg o v).free = s.free := rfl

/-! ## `State.setRegBits` -/

@[simp] theorem State.setRegBits_mem (s : State) (o l n v : Nat) : (s.setRegBits o l n v).mem = s.mem := rfl
@[simp] theorem State.setRegBits_stale (s : State) (o l n v : Nat) : (s.setRegBits o l n v).stale = s.stale := rfl
@[simp] theorem State.setRegBits_dir (s : State) (o l n v : Nat) : (s.setRegBits o l n v).dir = s.dir := rfl
@[simp] theorem State.setRegBits_rels (s : State) (o l n v : Nat) : (s.setRegBits o l n v).rels = s.rels := rfl
@[simp] theorem State.setRegBits_frames (s : State) (o l n v : Nat) : (s.setRegBits o l n v).frames = s.frames := rfl
@[simp] theorem State.setRegBits_dcb (s : State) (o l n v : Nat) : (s.setRegBits o l n v).dcb = spSet (dcbDefault (o / 8)) (o / 8) (putBits (s.reg o) l n v) s.dcb := rfl
@[simp] theorem State.setRegBits_slices (s : State) (o l n v : Nat) : (s.setRegBits o l n v).slices = s.slices := rfl
@[simp] theorem State.setRegBits_clk (s : State) (o l n v : Nat) : (s.setRegBits o l n v).clk = s.clk := rfl
@[simp] theorem State.setRegBits_pwr (s : State) (o l n v : Nat) : (s.setRegBits o l n v).pwr = s.pwr := rfl
@[simp] theorem State.setRegBits_blocks (s : State) (o l n v : Nat) : (s.setRegBits o l n v).blocks = s.blocks := rfl
@[simp] theorem State.setRegBits_requests (s : State) (o l n v : Nat) : (s.setRegBits o l n v).requests = s.requests := rfl
@[simp] theorem State.setRegBits_copies (s : State) (o l n v : Nat) : (s.setRegBits o l n v).copies = s.copies := rfl
@[simp] theorem State.setRegBits_robin (s : State) (o l n v : Nat) : (s.setRegBits o l n v).robin = s.robin := rfl
@[simp] theorem State.setRegBits_path (s : State) (o l n v : Nat) : (s.setRegBits o l n v).path = s.path := rfl
@[simp] theorem State.setRegBits_tlb (s : State) (o l n v : Nat) : (s.setRegBits o l n v).tlb = s.tlb := rfl
@[simp] theorem State.setRegBits_phases (s : State) (o l n v : Nat) : (s.setRegBits o l n v).phases = s.phases := rfl
@[simp] theorem State.setRegBits_launches (s : State) (o l n v : Nat) : (s.setRegBits o l n v).launches = s.launches := rfl
@[simp] theorem State.setRegBits_gangs (s : State) (o l n v : Nat) : (s.setRegBits o l n v).gangs = s.gangs := rfl
@[simp] theorem State.setRegBits_blazes (s : State) (o l n v : Nat) : (s.setRegBits o l n v).blazes = s.blazes := rfl
@[simp] theorem State.setRegBits_overflowed (s : State) (o l n v : Nat) : (s.setRegBits o l n v).overflowed = s.overflowed := rfl
@[simp] theorem State.setRegBits_listed (s : State) (o l n v : Nat) : (s.setRegBits o l n v).listed = s.listed := rfl
@[simp] theorem State.setRegBits_pubs (s : State) (o l n v : Nat) : (s.setRegBits o l n v).pubs = s.pubs := rfl
@[simp] theorem State.setRegBits_runReqs (s : State) (o l n v : Nat) : (s.setRegBits o l n v).runReqs = s.runReqs := rfl
@[simp] theorem State.setRegBits_runs (s : State) (o l n v : Nat) : (s.setRegBits o l n v).runs = s.runs := rfl
@[simp] theorem State.setRegBits_used (s : State) (o l n v : Nat) : (s.setRegBits o l n v).used = s.used := rfl
@[simp] theorem State.setRegBits_pass (s : State) (o l n v : Nat) : (s.setRegBits o l n v).pass = s.pass := rfl
@[simp] theorem State.setRegBits_overrun (s : State) (o l n v : Nat) : (s.setRegBits o l n v).overrun = s.overrun := rfl
@[simp] theorem State.setRegBits_eligible (s : State) (o l n v : Nat) : (s.setRegBits o l n v).eligible = s.eligible := rfl
@[simp] theorem State.setRegBits_aged (s : State) (o l n v : Nat) : (s.setRegBits o l n v).aged = s.aged := rfl
@[simp] theorem State.setRegBits_quotaAt (s : State) (o l n v : Nat) : (s.setRegBits o l n v).quotaAt = s.quotaAt := rfl
@[simp] theorem State.setRegBits_trapFrames (s : State) (o l n v : Nat) : (s.setRegBits o l n v).trapFrames = s.trapFrames := rfl
@[simp] theorem State.setRegBits_saveSlots (s : State) (o l n v : Nat) : (s.setRegBits o l n v).saveSlots = s.saveSlots := rfl
@[simp] theorem State.setRegBits_svcs (s : State) (o l n v : Nat) : (s.setRegBits o l n v).svcs = s.svcs := rfl
@[simp] theorem State.setRegBits_preempting (s : State) (o l n v : Nat) : (s.setRegBits o l n v).preempting = s.preempting := rfl
@[simp] theorem State.setRegBits_pfs (s : State) (o l n v : Nat) : (s.setRegBits o l n v).pfs = s.pfs := rfl
@[simp] theorem State.setRegBits_records (s : State) (o l n v : Nat) : (s.setRegBits o l n v).records = s.records := rfl
@[simp] theorem State.setRegBits_arrived (s : State) (o l n v : Nat) : (s.setRegBits o l n v).arrived = s.arrived := rfl
@[simp] theorem State.setRegBits_msix (s : State) (o l n v : Nat) : (s.setRegBits o l n v).msix = s.msix := rfl
@[simp] theorem State.setRegBits_d3hot (s : State) (o l n v : Nat) : (s.setRegBits o l n v).d3hot = s.d3hot := rfl
@[simp] theorem State.setRegBits_host (s : State) (o l n v : Nat) : (s.setRegBits o l n v).host = s.host := rfl
@[simp] theorem State.setRegBits_mapCmds (s : State) (o l n v : Nat) : (s.setRegBits o l n v).mapCmds = s.mapCmds := rfl
@[simp] theorem State.setRegBits_captures (s : State) (o l n v : Nat) : (s.setRegBits o l n v).captures = s.captures := rfl
@[simp] theorem State.setRegBits_latches (s : State) (o l n v : Nat) : (s.setRegBits o l n v).latches = s.latches := rfl
@[simp] theorem State.setRegBits_scans (s : State) (o l n v : Nat) : (s.setRegBits o l n v).scans = s.scans := rfl
@[simp] theorem State.setRegBits_layers (s : State) (o l n v : Nat) : (s.setRegBits o l n v).layers = s.layers := rfl
@[simp] theorem State.setRegBits_pairs (s : State) (o l n v : Nat) : (s.setRegBits o l n v).pairs = s.pairs := rfl
@[simp] theorem State.setRegBits_takeover (s : State) (o l n v : Nat) : (s.setRegBits o l n v).takeover = s.takeover := rfl
@[simp] theorem State.setRegBits_takingOver (s : State) (o l n v : Nat) : (s.setRegBits o l n v).takingOver = s.takingOver := rfl
@[simp] theorem State.setRegBits_elected (s : State) (o l n v : Nat) : (s.setRegBits o l n v).elected = s.elected := rfl
@[simp] theorem State.setRegBits_jorac (s : State) (o l n v : Nat) : (s.setRegBits o l n v).jorac = s.jorac := rfl
@[simp] theorem State.setRegBits_bank (s : State) (o l n v : Nat) : (s.setRegBits o l n v).bank = s.bank := rfl
@[simp] theorem State.setRegBits_images (s : State) (o l n v : Nat) : (s.setRegBits o l n v).images = s.images := rfl
@[simp] theorem State.setRegBits_counts (s : State) (o l n v : Nat) : (s.setRegBits o l n v).counts = s.counts := rfl
@[simp] theorem State.setRegBits_nextBank (s : State) (o l n v : Nat) : (s.setRegBits o l n v).nextBank = s.nextBank := rfl
@[simp] theorem State.setRegBits_opCtr (s : State) (o l n v : Nat) : (s.setRegBits o l n v).opCtr = s.opCtr := rfl
@[simp] theorem State.setRegBits_opKey (s : State) (o l n v : Nat) : (s.setRegBits o l n v).opKey = s.opKey := rfl
@[simp] theorem State.setRegBits_updating (s : State) (o l n v : Nat) : (s.setRegBits o l n v).updating = s.updating := rfl
@[simp] theorem State.setRegBits_memlayDone (s : State) (o l n v : Nat) : (s.setRegBits o l n v).memlayDone = s.memlayDone := rfl
@[simp] theorem State.setRegBits_stopped (s : State) (o l n v : Nat) : (s.setRegBits o l n v).stopped = s.stopped := rfl
@[simp] theorem State.setRegBits_keys (s : State) (o l n v : Nat) : (s.setRegBits o l n v).keys = s.keys := rfl
@[simp] theorem State.setRegBits_peerNo (s : State) (o l n v : Nat) : (s.setRegBits o l n v).peerNo = s.peerNo := rfl
@[simp] theorem State.setRegBits_sessions (s : State) (o l n v : Nat) : (s.setRegBits o l n v).sessions = s.sessions := rfl
@[simp] theorem State.setRegBits_booted (s : State) (o l n v : Nat) : (s.setRegBits o l n v).booted = s.booted := rfl
@[simp] theorem State.setRegBits_tlbiWait (s : State) (o l n v : Nat) : (s.setRegBits o l n v).tlbiWait = s.tlbiWait := rfl
@[simp] theorem State.setRegBits_ide (s : State) (o l n v : Nat) : (s.setRegBits o l n v).ide = s.ide := rfl
@[simp] theorem State.setRegBits_flips (s : State) (o l n v : Nat) : (s.setRegBits o l n v).flips = s.flips := rfl
@[simp] theorem State.setRegBits_agenda (s : State) (o l n v : Nat) : (s.setRegBits o l n v).agenda = s.agenda := rfl
@[simp] theorem State.setRegBits_cur (s : State) (o l n v : Nat) : (s.setRegBits o l n v).cur = s.cur := rfl
@[simp] theorem State.setRegBits_pace (s : State) (o l n v : Nat) : (s.setRegBits o l n v).pace = s.pace := rfl
@[simp] theorem State.setRegBits_uids (s : State) (o l n v : Nat) : (s.setRegBits o l n v).uids = s.uids := rfl
@[simp] theorem State.setRegBits_free (s : State) (o l n v : Nat) : (s.setRegBits o l n v).free = s.free := rfl

/-! ## `State.setFrame` -/

@[simp] theorem State.setFrame_mem (s : State) (p : Nat) (f : Frame) : (s.setFrame p f).mem = s.mem := rfl
@[simp] theorem State.setFrame_stale (s : State) (p : Nat) (f : Frame) : (s.setFrame p f).stale = s.stale := rfl
@[simp] theorem State.setFrame_dir (s : State) (p : Nat) (f : Frame) : (s.setFrame p f).dir = s.dir := rfl
@[simp] theorem State.setFrame_rels (s : State) (p : Nat) (f : Frame) : (s.setFrame p f).rels = s.rels := rfl
@[simp] theorem State.setFrame_frames (s : State) (p : Nat) (f : Frame) : (s.setFrame p f).frames = spSet (Frame.default p) p f s.frames := rfl
@[simp] theorem State.setFrame_dcb (s : State) (p : Nat) (f : Frame) : (s.setFrame p f).dcb = s.dcb := rfl
@[simp] theorem State.setFrame_slices (s : State) (p : Nat) (f : Frame) : (s.setFrame p f).slices = s.slices := rfl
@[simp] theorem State.setFrame_clk (s : State) (p : Nat) (f : Frame) : (s.setFrame p f).clk = s.clk := rfl
@[simp] theorem State.setFrame_pwr (s : State) (p : Nat) (f : Frame) : (s.setFrame p f).pwr = s.pwr := rfl
@[simp] theorem State.setFrame_blocks (s : State) (p : Nat) (f : Frame) : (s.setFrame p f).blocks = s.blocks := rfl
@[simp] theorem State.setFrame_requests (s : State) (p : Nat) (f : Frame) : (s.setFrame p f).requests = s.requests := rfl
@[simp] theorem State.setFrame_copies (s : State) (p : Nat) (f : Frame) : (s.setFrame p f).copies = s.copies := rfl
@[simp] theorem State.setFrame_robin (s : State) (p : Nat) (f : Frame) : (s.setFrame p f).robin = s.robin := rfl
@[simp] theorem State.setFrame_path (s : State) (p : Nat) (f : Frame) : (s.setFrame p f).path = s.path := rfl
@[simp] theorem State.setFrame_tlb (s : State) (p : Nat) (f : Frame) : (s.setFrame p f).tlb = s.tlb := rfl
@[simp] theorem State.setFrame_phases (s : State) (p : Nat) (f : Frame) : (s.setFrame p f).phases = s.phases := rfl
@[simp] theorem State.setFrame_launches (s : State) (p : Nat) (f : Frame) : (s.setFrame p f).launches = s.launches := rfl
@[simp] theorem State.setFrame_gangs (s : State) (p : Nat) (f : Frame) : (s.setFrame p f).gangs = s.gangs := rfl
@[simp] theorem State.setFrame_blazes (s : State) (p : Nat) (f : Frame) : (s.setFrame p f).blazes = s.blazes := rfl
@[simp] theorem State.setFrame_overflowed (s : State) (p : Nat) (f : Frame) : (s.setFrame p f).overflowed = s.overflowed := rfl
@[simp] theorem State.setFrame_listed (s : State) (p : Nat) (f : Frame) : (s.setFrame p f).listed = s.listed := rfl
@[simp] theorem State.setFrame_pubs (s : State) (p : Nat) (f : Frame) : (s.setFrame p f).pubs = s.pubs := rfl
@[simp] theorem State.setFrame_runReqs (s : State) (p : Nat) (f : Frame) : (s.setFrame p f).runReqs = s.runReqs := rfl
@[simp] theorem State.setFrame_runs (s : State) (p : Nat) (f : Frame) : (s.setFrame p f).runs = s.runs := rfl
@[simp] theorem State.setFrame_used (s : State) (p : Nat) (f : Frame) : (s.setFrame p f).used = s.used := rfl
@[simp] theorem State.setFrame_pass (s : State) (p : Nat) (f : Frame) : (s.setFrame p f).pass = s.pass := rfl
@[simp] theorem State.setFrame_overrun (s : State) (p : Nat) (f : Frame) : (s.setFrame p f).overrun = s.overrun := rfl
@[simp] theorem State.setFrame_eligible (s : State) (p : Nat) (f : Frame) : (s.setFrame p f).eligible = s.eligible := rfl
@[simp] theorem State.setFrame_aged (s : State) (p : Nat) (f : Frame) : (s.setFrame p f).aged = s.aged := rfl
@[simp] theorem State.setFrame_quotaAt (s : State) (p : Nat) (f : Frame) : (s.setFrame p f).quotaAt = s.quotaAt := rfl
@[simp] theorem State.setFrame_trapFrames (s : State) (p : Nat) (f : Frame) : (s.setFrame p f).trapFrames = s.trapFrames := rfl
@[simp] theorem State.setFrame_saveSlots (s : State) (p : Nat) (f : Frame) : (s.setFrame p f).saveSlots = s.saveSlots := rfl
@[simp] theorem State.setFrame_svcs (s : State) (p : Nat) (f : Frame) : (s.setFrame p f).svcs = s.svcs := rfl
@[simp] theorem State.setFrame_preempting (s : State) (p : Nat) (f : Frame) : (s.setFrame p f).preempting = s.preempting := rfl
@[simp] theorem State.setFrame_pfs (s : State) (p : Nat) (f : Frame) : (s.setFrame p f).pfs = s.pfs := rfl
@[simp] theorem State.setFrame_records (s : State) (p : Nat) (f : Frame) : (s.setFrame p f).records = s.records := rfl
@[simp] theorem State.setFrame_arrived (s : State) (p : Nat) (f : Frame) : (s.setFrame p f).arrived = s.arrived := rfl
@[simp] theorem State.setFrame_msix (s : State) (p : Nat) (f : Frame) : (s.setFrame p f).msix = s.msix := rfl
@[simp] theorem State.setFrame_d3hot (s : State) (p : Nat) (f : Frame) : (s.setFrame p f).d3hot = s.d3hot := rfl
@[simp] theorem State.setFrame_host (s : State) (p : Nat) (f : Frame) : (s.setFrame p f).host = s.host := rfl
@[simp] theorem State.setFrame_mapCmds (s : State) (p : Nat) (f : Frame) : (s.setFrame p f).mapCmds = s.mapCmds := rfl
@[simp] theorem State.setFrame_captures (s : State) (p : Nat) (f : Frame) : (s.setFrame p f).captures = s.captures := rfl
@[simp] theorem State.setFrame_latches (s : State) (p : Nat) (f : Frame) : (s.setFrame p f).latches = s.latches := rfl
@[simp] theorem State.setFrame_scans (s : State) (p : Nat) (f : Frame) : (s.setFrame p f).scans = s.scans := rfl
@[simp] theorem State.setFrame_layers (s : State) (p : Nat) (f : Frame) : (s.setFrame p f).layers = s.layers := rfl
@[simp] theorem State.setFrame_pairs (s : State) (p : Nat) (f : Frame) : (s.setFrame p f).pairs = s.pairs := rfl
@[simp] theorem State.setFrame_takeover (s : State) (p : Nat) (f : Frame) : (s.setFrame p f).takeover = s.takeover := rfl
@[simp] theorem State.setFrame_takingOver (s : State) (p : Nat) (f : Frame) : (s.setFrame p f).takingOver = s.takingOver := rfl
@[simp] theorem State.setFrame_elected (s : State) (p : Nat) (f : Frame) : (s.setFrame p f).elected = s.elected := rfl
@[simp] theorem State.setFrame_jorac (s : State) (p : Nat) (f : Frame) : (s.setFrame p f).jorac = s.jorac := rfl
@[simp] theorem State.setFrame_bank (s : State) (p : Nat) (f : Frame) : (s.setFrame p f).bank = s.bank := rfl
@[simp] theorem State.setFrame_images (s : State) (p : Nat) (f : Frame) : (s.setFrame p f).images = s.images := rfl
@[simp] theorem State.setFrame_counts (s : State) (p : Nat) (f : Frame) : (s.setFrame p f).counts = s.counts := rfl
@[simp] theorem State.setFrame_nextBank (s : State) (p : Nat) (f : Frame) : (s.setFrame p f).nextBank = s.nextBank := rfl
@[simp] theorem State.setFrame_opCtr (s : State) (p : Nat) (f : Frame) : (s.setFrame p f).opCtr = s.opCtr := rfl
@[simp] theorem State.setFrame_opKey (s : State) (p : Nat) (f : Frame) : (s.setFrame p f).opKey = s.opKey := rfl
@[simp] theorem State.setFrame_updating (s : State) (p : Nat) (f : Frame) : (s.setFrame p f).updating = s.updating := rfl
@[simp] theorem State.setFrame_memlayDone (s : State) (p : Nat) (f : Frame) : (s.setFrame p f).memlayDone = s.memlayDone := rfl
@[simp] theorem State.setFrame_stopped (s : State) (p : Nat) (f : Frame) : (s.setFrame p f).stopped = s.stopped := rfl
@[simp] theorem State.setFrame_keys (s : State) (p : Nat) (f : Frame) : (s.setFrame p f).keys = s.keys := rfl
@[simp] theorem State.setFrame_peerNo (s : State) (p : Nat) (f : Frame) : (s.setFrame p f).peerNo = s.peerNo := rfl
@[simp] theorem State.setFrame_sessions (s : State) (p : Nat) (f : Frame) : (s.setFrame p f).sessions = s.sessions := rfl
@[simp] theorem State.setFrame_booted (s : State) (p : Nat) (f : Frame) : (s.setFrame p f).booted = s.booted := rfl
@[simp] theorem State.setFrame_tlbiWait (s : State) (p : Nat) (f : Frame) : (s.setFrame p f).tlbiWait = s.tlbiWait := rfl
@[simp] theorem State.setFrame_ide (s : State) (p : Nat) (f : Frame) : (s.setFrame p f).ide = s.ide := rfl
@[simp] theorem State.setFrame_flips (s : State) (p : Nat) (f : Frame) : (s.setFrame p f).flips = s.flips := rfl
@[simp] theorem State.setFrame_agenda (s : State) (p : Nat) (f : Frame) : (s.setFrame p f).agenda = s.agenda := rfl
@[simp] theorem State.setFrame_cur (s : State) (p : Nat) (f : Frame) : (s.setFrame p f).cur = s.cur := rfl
@[simp] theorem State.setFrame_pace (s : State) (p : Nat) (f : Frame) : (s.setFrame p f).pace = s.pace := rfl
@[simp] theorem State.setFrame_uids (s : State) (p : Nat) (f : Frame) : (s.setFrame p f).uids = s.uids := rfl
@[simp] theorem State.setFrame_free (s : State) (p : Nat) (f : Frame) : (s.setFrame p f).free = s.free := rfl

end Sys2Proof.Machine
end

