-- ==== Sys2Proof/Laws/Memory.lean ====
section
/-!
SUPPORT. The memory operations: each keeps the canonical forms, and each leaves alone what is not its own.
-/
namespace Sys2Proof.Machine

/-! ## The canonical forms -/

/-- The canonical forms speak of three fields alone. -/
theorem State.Canonical.of_eq {s t : State} (h : s.Canonical) (h1 : t.mem = s.mem) (h2 : t.dcb = s.dcb) (h3 : t.frames = s.frames) :
    t.Canonical := by
  unfold State.Canonical State.memOk at *; rw [h1, h2, h3]; exact h

theorem setDir_canonical {s : State} (h : s.Canonical) (l : List DirEnt) : ({ s with dir := l } : State).Canonical := h

theorem reset_canonical : State.reset.Canonical := ⟨rfl, rfl, rfl⟩

theorem setMem_canonical {s : State} (h : s.Canonical) (k : Nat) (x : Byte) : ({ s with mem := spSet 0 k x s.mem } : State).Canonical :=
  ⟨spWf_spSet 0 k x h.1, h.2⟩

theorem filterMem_canonical {s : State} (h : s.Canonical) (p : Host.Cell → Bool) : ({ s with mem := s.mem.filter p } : State).Canonical :=
  ⟨spWf_filter 0 p h.1, h.2⟩

theorem setReg_canonical {s : State} (h : s.Canonical) (o : Nat) (v : W64) : (s.setReg o v).Canonical :=
  ⟨h.1, spKeyed_spSet _ _ _ h.2.1, h.2.2⟩

theorem setRegBits_canonical {s : State} (h : s.Canonical) (o l n v : Nat) : (s.setRegBits o l n v).Canonical :=
  setReg_canonical h o _

theorem setFrame_canonical {s : State} (h : s.Canonical) (p : Nat) (f : Frame) : (s.setFrame p f).Canonical :=
  ⟨h.1, h.2.1, spKeyed_spSet _ _ _ h.2.2⟩

theorem mapBlock_canonical {s : State} (h : s.Canonical) (u : Nat) (g : Block → Block) : (s.mapBlock u g).Canonical := h
theorem mapWave_canonical {s : State} (h : s.Canonical) (u w : Nat) (g : Wave → Wave) : (s.mapWave u w g).Canonical := h
theorem mapEntry_canonical {s : State} (h : s.Canonical) (r : ERef) (g : Entry → Entry) : (s.mapEntry r g).Canonical := h
theorem withWave_canonical {s : State} (h : s.Canonical) (c : Ctx) (w : Wave) : (s.withWave c w).Canonical := h
theorem mapLaunch_canonical {s : State} (h : s.Canonical) (u : Nat) (g : Launch → Launch) : (s.mapLaunch u g).Canonical := h
theorem mapPhase_canonical {s : State} (h : s.Canonical) (u : Nat) (g : Phase → Phase) : (s.mapPhase u g).Canonical := h
theorem fresh_canonical {s : State} (h : s.Canonical) : s.fresh.2.Canonical := h
theorem begun_canonical {s : State} (h : s.Canonical) : s.begun.Canonical := h

/-! ## Registers of the control block -/

theorem reg_setReg_same {s : State} (h : s.Canonical) (o : Nat) (v : W64) : (s.setReg o v).reg o = v :=
  spGet_spSet_same _ _ _ (spSorted_of_spKeyed h.2.1)

theorem reg_setReg_of_ne (s : State) (o : Nat) {v : W64} (h : v ≠ dcbDefault (o / 8)) : (s.setReg o v).reg o = v :=
  spGet_spSet_same_of_ne _ _ _ h

theorem reg_setReg_other (s : State) {o p : Nat} (v : W64) (h : p / 8 ≠ o / 8) : (s.setReg o v).reg p = s.reg p := by
  unfold State.reg State.setReg; exact spGet_writes_other _ _ h

theorem frame_setFrame_same {s : State} (h : s.Canonical) (p : Nat) (f : Frame) : (s.setFrame p f).frame p = f :=
  spGet_spSet_same _ _ _ (spSorted_of_spKeyed h.2.2)

theorem frame_setFrame_other (s : State) {p q : Nat} (f : Frame) (h : q ≠ p) : (s.setFrame p f).frame q = s.frame q := by
  unfold State.frame State.setFrame; exact spGet_writes_other _ _ h

/-! ## What the directory's events leave alone -/

/-- A write-back changes nothing but what DRAM keeps for its sectors. -/
theorem writeBackEnt_keeps {γ : Type} (g : State → γ) (hg : ∀ (s : State) l, g { s with stale := l } = g s) (s : State) (d : DirEnt) :
    g (writeBackEnt s d) = g s :=
  foldl_same (fun a n => by unfold staleDrop; exact hg a _) _ s

/-- Write-backs change nothing but what DRAM keeps for their sectors. -/
theorem writeBacks_keep {γ : Type} (g : State → γ) (hg : ∀ (s : State) l, g { s with stale := l } = g s) (l : List DirEnt) (s : State) :
    g (l.foldl writeBackEnt s) = g s :=
  foldl_same (fun a d => writeBackEnt_keeps g hg a d) l s

theorem writeBackEnt_canonical {s : State} (h : s.Canonical) (d : DirEnt) : (writeBackEnt s d).Canonical :=
  State.Canonical.of_eq h (writeBackEnt_keeps (fun s => s.mem) (fun _ _ => rfl) s d)
    (writeBackEnt_keeps (fun s => s.dcb) (fun _ _ => rfl) s d) (writeBackEnt_keeps (fun s => s.frames) (fun _ _ => rfl) s d)

theorem writeBacks_canonical {s : State} (h : s.Canonical) (l : List DirEnt) : (l.foldl writeBackEnt s).Canonical :=
  foldl_keeps (P := State.Canonical) (fun _ d hs => writeBackEnt_canonical hs d) l h

theorem staleRestore_canonical {s : State} (h : s.Canonical) (n : Nat) : (staleRestore s n).Canonical := by
  refine ⟨?_, h.2⟩
  refine foldl_keeps (P := fun m => spWf 0 m = true) ?_ _ h.1
  intro m i hm
  split
  · exact spWf_spSet _ _ _ hm
  · exact hm

theorem discardEnt_canonical {s : State} (h : s.Canonical) (d : DirEnt) : (discardEnt s d).Canonical :=
  foldl_keeps (P := State.Canonical) (fun _ n hs => staleRestore_canonical hs n) _ h

theorem dropEnts_canonical {s : State} (h : s.Canonical) (disc : Bool) (l : List DirEnt) :
    (l.foldl (fun s d => if disc then discardEnt s d else writeBackEnt s d) s).Canonical := by
  refine foldl_keeps (P := State.Canonical) (fun a d ha => ?_) _ h
  split
  · exact discardEnt_canonical ha d
  · exact writeBackEnt_canonical ha d

theorem readShared_canonical {s : State} (h : s.Canonical) (line : Nat) (x : Holder) : (readShared s line x).Canonical := by
  unfold readShared; split <;> exact h

theorem readShared_mem (s : State) (line : Nat) (x : Holder) : (readShared s line x).mem = s.mem := by
  unfold readShared; split <;> rfl

theorem clearReservations_canonical {s : State} (h : s.Canonical) (line : Nat) : (clearReservations s line).Canonical := h

theorem tearKey_canonical {s : State} (h : s.Canonical) (key : Nat) (x : Byte) : (tearKey s key x).Canonical := by
  unfold tearKey; dsimp only; split <;> exact h

theorem tearKey_mem (s : State) (key : Nat) (x : Byte) : (tearKey s key x).mem = s.mem := by
  unfold tearKey; dsimp only; split <;> rfl

/-- Tagging changes the directory alone. -/
theorem tagHeld_keeps {γ : Type} (g : State → γ) (hd : ∀ (s : State) l, g { s with dir := l } = g s) (which : Holder → Bool) (oid : Nat)
    (s : State) (l : List Nat) : g (tagHeld which oid s l) = g s := by
  unfold tagHeld; dsimp only; split
  · rfl
  · exact hd s _

theorem tagHeld_canonical {s : State} (h : s.Canonical) (which : Holder → Bool) (oid : Nat) (l : List Nat) :
    (tagHeld which oid s l).Canonical :=
  h.of_eq (tagHeld_keeps (fun s => s.mem) (fun _ _ => rfl) ..) (tagHeld_keeps (fun s => s.dcb) (fun _ _ => rfl) ..)
    (tagHeld_keeps (fun s => s.frames) (fun _ _ => rfl) ..)

theorem tagLines_canonical {s : State} (h : s.Canonical) (oid : Nat) (l : List Nat) : (tagLines oid s l).Canonical :=
  tagHeld_canonical h _ _ _

theorem tagLines_mem (s : State) (oid : Nat) (l : List Nat) : (tagLines oid s l).mem = s.mem :=
  tagHeld_keeps (fun s => s.mem) (fun _ _ => rfl) _ _ _ _

theorem fillTlb_canonical {s : State} (h : s.Canonical) (who : Who) (va : Nat) : (fillTlb s who va).Canonical := by
  unfold fillTlb; dsimp only; split
  · exact h
  · split <;> exact h

/-! ## Bytes -/

/-- What one byte's write, past the directory, does to memory. -/
theorem putByte_mem (s : State) (key : Nat) (b : Byte) : (putByte s key b).mem = spSet 0 key b s.mem := by
  unfold putByte; dsimp only; rw [tearKey_mem]

theorem putByte_canonical {s : State} (h : s.Canonical) (key : Nat) (b : Byte) : (putByte s key b).Canonical :=
  setMem_canonical (tearKey_canonical h key b) key b

theorem staleAdd_keeps {γ : Type} (g : State → γ) (hg : ∀ (s : State) l, g { s with stale := l } = g s) (s : State) (n : Nat) :
    g (staleAdd s n) = g s := by unfold staleAdd; exact hg s _

/-- Owning a line changes nothing but the directory and what DRAM keeps. -/
theorem readOwn_keeps {γ : Type} (g : State → γ) (hg : ∀ (s : State) l, g { s with stale := l } = g s)
    (hd : ∀ (s : State) l, g { s with dir := l } = g s) (s : State) (line : Nat) (x : Holder) : g (readOwn s line x) = g s := by
  unfold readOwn; exact (hd _ _).trans (writeBacks_keep g hg _ s)

/-- Owning a byte changes nothing but the directory and what DRAM keeps. -/
theorem ownByte_keeps {γ : Type} (g : State → γ) (hg : ∀ (s : State) l, g { s with stale := l } = g s)
    (hd : ∀ (s : State) l, g { s with dir := l } = g s) (x : Holder) (s : State) (key : Nat) : g (ownByte x s key) = g s := by
  unfold ownByte
  split
  · refine (hd _ _).trans ?_
    split
    · exact readOwn_keeps g hg hd s _ x
    · exact (staleAdd_keeps g hg _ _).trans (readOwn_keeps g hg hd s _ x)
  · rfl

theorem ownByte_canonical (x : Holder) {s : State} (h : s.Canonical) (key : Nat) : (ownByte x s key).Canonical :=
  State.Canonical.of_eq h (ownByte_keeps (fun s => s.mem) (fun _ _ => rfl) (fun _ _ => rfl) x s key)
    (ownByte_keeps (fun s => s.dcb) (fun _ _ => rfl) (fun _ _ => rfl) x s key)
    (ownByte_keeps (fun s => s.frames) (fun _ _ => rfl) (fun _ _ => rfl) x s key)

/-- What one coherent byte's write does to memory. -/
theorem writeByte_mem (x : Holder) (s : State) (key : Nat) (b : Byte) : (writeByte x s key b).mem = spSet 0 key b s.mem := by
  have h : (ownByte x s key).mem = s.mem := ownByte_keeps (fun s => s.mem) (fun _ _ => rfl) (fun _ _ => rfl) x s key
  unfold writeByte
  exact (putByte_mem _ key b).trans (congrArg (spSet 0 key b) h)

theorem writeByte_canonical (x : Holder) {s : State} (h : s.Canonical) (key : Nat) (b : Byte) : (writeByte x s key b).Canonical := by
  unfold writeByte
  exact clearReservations_canonical (putByte_canonical (ownByte_canonical x h key) key b) _

theorem writeKeys_canonical (x : Holder) {s : State} (h : s.Canonical) (l : List (Nat × Byte)) : (writeKeys x s l).Canonical :=
  foldl_keeps (P := State.Canonical) (fun _ p hs => writeByte_canonical x hs p.1 p.2) _ h

/-- Writing bytes leaves every other byte alone. -/
theorem writeKeys_byte_other (x : Holder) (s : State) (l : List (Nat × Byte)) {a : Nat} (h : ∀ p ∈ l, p.1 ≠ a) :
    (writeKeys x s l).byte a = s.byte a := by
  induction l generalizing s with
  | nil => rfl
  | cons p t ih =>
    have h1 : (writeByte x s p.1 p.2).byte a = s.byte a := by
      show spGet 0 (writeByte x s p.1 p.2).mem a = _
      rw [writeByte_mem]
      exact spGet_spSet_other _ _ _ fun e => h p (by simp) e.symm
    exact (ih _ fun q hq => h q (by simp [hq])).trans h1

/-- The last byte that is written at a key is read back. -/
theorem writeKeys_byte_same (x : Holder) {s : State} (hs : s.Canonical) (l r : List (Nat × Byte)) (a : Nat) (b : Byte)
    (h : ∀ p ∈ r, p.1 ≠ a) : (writeKeys x s (l ++ (a, b) :: r)).byte a = b := by
  have h1 : writeKeys x s (l ++ (a, b) :: r) = writeKeys x (writeByte x (writeKeys x s l) a b) r := by
    simp [writeKeys, List.foldl_append]
  rw [h1, writeKeys_byte_other x _ r h]
  show spGet 0 (writeByte x (writeKeys x s l) a b).mem a = b
  rw [writeByte_mem]
  exact spGet_spSet_same _ _ _ (by
    have := (writeKeys_canonical x hs l).1
    simp only [State.memOk, Memory.wf, spWf, Bool.and_eq_true] at this
    exact this.1)

/-! ## Stores, drains and pinned structures -/

theorem directWrite_canonical {s : State} (h : s.Canonical) (key : Nat) (l : List Byte) : (directWrite s key l).Canonical := by
  unfold directWrite
  refine clearReservations_canonical (foldl_keeps (P := State.Canonical) (fun a p ha => putByte_canonical ha _ _) _ ?_) _
  exact (writeBacks_canonical h _).of_eq rfl rfl rfl

theorem performStore_canonical {s : State} (h : s.Canonical) (p : Pending) : (performStore s p).Canonical := by
  unfold performStore; dsimp only; split
  · exact h
  split
  · exact directWrite_canonical h _ _
  · exact tagLines_canonical (writeKeys_canonical _ h _) _ _

theorem drainPath_canonical {s : State} (h : s.Canonical) (which : Pending → Bool) : (drainPath s which).Canonical :=
  foldl_keeps (P := State.Canonical) (fun _ p hs => performStore_canonical hs p) _ h

theorem drainCore_canonical {s : State} (h : s.Canonical) (die core : Nat) : (drainCore s die core).Canonical :=
  drainPath_canonical h _

theorem writeBackWindows_canonical {s : State} (h : s.Canonical) (blk : Nat) (which : Nat → Bool) :
    (writeBackWindows s blk which).Canonical :=
  (writeBacks_canonical h (s.dir.filter fun d => match d.holder with
    | .window b w => b == blk && which w
    | _ => false)).of_eq rfl rfl rfl

theorem dropWindows_canonical {s : State} (h : s.Canonical) (blk : Nat) (which : Nat → Bool) (disc : Bool) :
    (dropWindows s blk which disc).Canonical :=
  (dropEnts_canonical h disc (s.dir.filter fun d => match d.holder with
    | .window b w => b == blk && which w
    | _ => false)).of_eq rfl rfl rfl

theorem releaseAt_canonical {s : State} (h : s.Canonical) (b : Block) (scope : Nat) : (releaseAt s b scope).Canonical := by
  unfold releaseAt; dsimp only
  split
  · exact h
  · split
    · exact drainCore_canonical h _ _
    · exact writeBackWindows_canonical (drainCore_canonical h _ _) _ _

theorem hwWrite_canonical {s : State} (h : s.Canonical) (oid : Nat) (ks : List Nat) (l : List Byte) :
    (hwWrite s oid ks l).Canonical := by
  unfold hwWrite; split
  · exact h.of_eq rfl rfl rfl
  · exact tagLines_canonical (writeKeys_canonical _ h _) _ _

theorem pinWrite_canonical {s t : State} (h : s.Canonical) {oid va : Nat} {l : List Byte} (e : pinWrite s oid va l = some t) :
    t.Canonical := by
  unfold pinWrite at e
  split at e
  · cases e; exact hwWrite_canonical h _ _ _
  · cases e

theorem pinWrites_canonical {oid : Nat} {l : List (Nat × List Byte)} {s t : State} (h : s.Canonical)
    (e : pinWrites oid l s = some t) : t.Canonical := by
  induction l generalizing s with
  | nil => cases e; exact h
  | cons p r ih =>
    simp only [pinWrites] at e
    split at e
    · cases e
    · rename_i hp; exact ih (pinWrite_canonical h hp) e

theorem writePhys_canonical {s : State} (h : s.Canonical) (a : Nat) (l : List Byte) : (writePhys s a l).Canonical :=
  writeKeys_canonical _ h _

/-! ## The stash -/

theorem fillWindow_canonical {s : State} (h : s.Canonical) (blk : Nat) (w : Window) (x : Nat) : (fillWindow s blk w x).Canonical := by
  have h1 (g : Block → Block) (line : Nat) (y : Holder) := readShared_canonical (mapBlock_canonical h blk g) line y
  unfold fillWindow; dsimp only; split
  · exact tagHeld_canonical (h1 _ _ _) _ _ _
  · exact h1 _ _ _

theorem writeStashByte_canonical {s : State} (h : s.Canonical) (blk off : Nat) (x : Byte) : (writeStashByte blk s off x).Canonical := by
  unfold writeStashByte
  split
  · exact h
  · split
    · exact writeByte_canonical _ (fillWindow_canonical h _ _ _) _ _
    · split <;> exact h

theorem writeStash_canonical {s : State} (h : s.Canonical) (blk off : Nat) (l : List Byte) : (writeStash blk s off l).Canonical :=
  foldl_keeps (P := State.Canonical) (fun _ p hs => writeStashByte_canonical hs blk (off + p.1) p.2) _ h

theorem writeStashAs_canonical {s : State} (h : s.Canonical) (blk wave off : Nat) (x : Byte) : (writeStashAs blk wave s off x).Canonical := by
  unfold writeStashAs
  split
  · exact h
  · split
    · exact mapBlock_canonical h _ _
    · exact writeStashByte_canonical h _ _ _

theorem writeStashFor_canonical {s : State} (h : s.Canonical) (blk wave off : Nat) (l : List Byte) :
    (writeStashFor blk wave s off l).Canonical :=
  foldl_keeps (P := State.Canonical) (fun _ p hs => writeStashAs_canonical hs blk wave (off + p.1) p.2) _ h

/-! ## Accesses -/

/-- The caches take a line. -/
theorem allocate_canonical {s : State} (h : s.Canonical) (b : Block) (hint : Nat) (p : Place) : (allocate s b hint p).Canonical := by
  have h2 : (if hint = 5 then s else readShared s (p.tgt.key / 128) (.l2 (homeSlice s b.glade p.tgt.key))).Canonical := by
    split
    · exact h
    · exact readShared_canonical h _ _
  unfold allocate
  split
  · exact h
  · dsimp only
    split
    · exact tagLines_canonical h2 _ _
    · exact tagLines_canonical (setDir_canonical (readShared_canonical h2 _ _) _) _ _

theorem uncacheLine_canonical {s : State} (h : s.Canonical) (line : Nat) : (uncacheLine s line).Canonical :=
  (writeBacks_canonical h (s.dir.filter fun d => d.line == line)).of_eq rfl rfl rfl

theorem noteRead_canonical {s : State} (h : s.Canonical) (b : Block) (hint va : Nat) (q : Spot) : (noteRead s b hint va q).Canonical := by
  unfold noteRead
  split
  · split
    · exact fillWindow_canonical h _ _ _
    · exact h
  · exact h
  · rename_i p
    have h1 : (if p.ca = 0 then fillTlb s b.who va else uncacheLine (fillTlb s b.who va) (p.tgt.key / 128)).Canonical := by
      split
      · exact fillTlb_canonical h _ _
      · exact uncacheLine_canonical (fillTlb_canonical h _ _) _
    split
    · exact allocate_canonical h1 _ _ _
    · exact allocate_canonical h1 _ _ _
    · exact fillTlb_canonical h _ _

theorem drainLine_canonical {s : State} (h : s.Canonical) (b : Block) (line : Nat) : (drainLine s b line).Canonical :=
  drainPath_canonical h _

theorem dcbWrite_canonical {s : State} (h : s.Canonical) (l : List (Nat × Byte)) : (dcbWrite s l).Canonical := by
  unfold dcbWrite; split <;> exact h
theorem scratchWrite_canonical {s : State} (h : s.Canonical) (blk off : Nat) (l : List Byte) : (scratchWrite s blk off l).Canonical := h

theorem stashWrite_canonical {s : State} (h : s.Canonical) (b : Block) (off : Nat) (l : List Byte) : (stashWrite s b off l).Canonical := by
  unfold stashWrite
  refine writeStash_canonical ?_ _ _ _
  split
  · exact drainLine_canonical h _ _
  · exact h

theorem storeAt_canonical {s : State} (h : s.Canonical) (c : Ctx) (disp : Option (Nat × Nat × Nat)) (hint va : Nat) (l : List Byte) (q : Spot) :
    (storeAt s c disp hint va l q).Canonical := by
  unfold storeAt
  split
  · exact stashWrite_canonical h _ _ _
  · exact scratchWrite_canonical h _ _ _
  · dsimp only; split
    · exact fillTlb_canonical h _ _
    · split
      · exact fillTlb_canonical h _ _
      · exact directWrite_canonical (drainLine_canonical (fillTlb_canonical h _ _) _ _) _ _

theorem writeSpot_canonical {s : State} (h : s.Canonical) (b : Block) (x : Holder) (l : List Byte) (q : Spot) :
    (writeSpot s b x l q).Canonical := by
  unfold writeSpot
  split
  · exact stashWrite_canonical h _ _ _
  · exact scratchWrite_canonical h _ _ _
  · split
    · exact dcbWrite_canonical h _
    · split
      · exact directWrite_canonical (drainLine_canonical h _ _) _ _
      · exact tagLines_canonical (writeKeys_canonical _ (drainLine_canonical h _ _) _) _ _

end Sys2Proof.Machine
end

