-- ==== Sys2Proof/Laws/Faults.lean ====
section
/-!
SUPPORT. Records, ends of blocks, faults and traps: each keeps the canonical forms.
-/
namespace Sys2Proof.Machine

/-- A choice keeps what both branches keep. -/
theorem ite_canonical {p : Prop} [Decidable p] {s t : State} (hs : p → s.Canonical) (ht : ¬ p → t.Canonical) :
    (if p then s else t).Canonical := by
  split
  · exact hs ‹_›
  · exact ht ‹_›

theorem notify_canonical {s : State} (h : s.Canonical) (fn vec : Nat) : (notify s fn vec).Canonical := by
  unfold notify; split <;> exact h

theorem putRecord_canonical {s t : State} (h : s.Canonical) {x : Raised} (e : putRecord s x = some t) : t.Canonical := by
  unfold putRecord at e
  dsimp only at e
  by_cases hl : s.ctxFalog x.area < 4
  · rw [if_pos hl] at e; cases e; exact h
  · rw [if_neg hl] at e
    split at e
    · split at e
      · exact pinWrite_canonical h e
      · split at e
        · cases e
        · rename_i h1
          split at e
          · cases e
          · rename_i h2
            cases e
            exact notify_canonical (pinWrite_canonical (pinWrite_canonical h h1) h2) _ _
    · cases e

theorem writeRecord_canonical {s t : State} (h : s.Canonical) {area : Nat} {r : Record} (e : writeRecord s area r = some t) :
    t.Canonical := by
  unfold writeRecord at e
  dsimp only at e
  split at e
  · cases e; exact h
  · exact putRecord_canonical h e

theorem dropBlockWork_canonical {s : State} (h : s.Canonical) (uid : Nat) : (dropBlockWork s uid).Canonical := h

theorem leaveCore_canonical {s : State} (h : s.Canonical) (uid : Nat) (disc : Bool) : (leaveCore s uid disc).Canonical := by
  unfold leaveCore
  split
  · exact h
  · have h1 := dropWindows_canonical (drainCore_canonical h ‹Block›.die ‹Block›.core) uid (fun _ => true) disc
    exact h1

theorem noteState_canonical {s t : State} (h : s.Canonical) {l : Launch} {n : Nat} {st : PState} (e : noteState s l n st = some t) :
    t.Canonical := pinWrite_canonical h e

theorem movePhase_canonical {s : State} (h : s.Canonical) (uid : Nat) (st : PState) : (movePhase s uid st).1.Canonical := by
  unfold movePhase
  dsimp only
  split
  · exact h
  · split
    · exact h
    · split
      · rename_i h1; exact noteState_canonical (mapPhase_canonical h _ _) h1
      · exact h

theorem finishPhase_canonical {s : State} (h : s.Canonical) (uid : Nat) : (finishPhase s uid).1.Canonical := by
  unfold finishPhase
  split
  · exact h
  · have h1 := movePhase_canonical h uid .done
    dsimp only
    split <;> exact h1

theorem freeFrames_canonical {s : State} (h : s.Canonical) (b : Block) : (freeFrames s b).Canonical := h

theorem rasterTriangle_canonical {s : State} (h : s.Canonical) (blk wave : Nat) (r : Rast) (t : List W32 × W32) :
    (rasterTriangle blk wave r s t).Canonical := by
  have px : ∀ (s : State), s.Canonical → ∀ tile v0 v1 v2 a vis i, (rasterPixel blk wave tile v0 v1 v2 a vis s i).Canonical := by
    intro s h tile v0 v1 v2 a vis i
    unfold rasterPixel
    refine ite_canonical (fun _ => ?_) fun _ => h
    split
    · exact h
    · exact ite_canonical (fun _ => h) fun _ => writeStashFor_canonical (writeStashFor_canonical h _ _ _ _) _ _ _ _
  unfold rasterTriangle
  dsimp only
  split
  · refine ite_canonical (fun _ => h) fun _ => ite_canonical (fun _ => ?_) fun _ => ?_ <;>
      exact foldl_keeps (P := State.Canonical) (fun a i ha => px a ha _ _ _ _ _ _ i) _ h
  · exact h

theorem applyRast_canonical {s : State} (h : s.Canonical) (blk wave : Nat) (r : Rast) : (applyRast blk wave s r).Canonical := by
  unfold applyRast
  exact foldl_keeps (P := State.Canonical) (fun a p ha => rasterTriangle_canonical ha blk wave r p) _ h

theorem finishRasters_canonical {s : State} (h : s.Canonical) (b : Block) : (finishRasters s b).Canonical := by
  unfold finishRasters
  exact foldl_keeps (P := State.Canonical) (fun a x ha => applyRast_canonical ha b.uid x.1 x.2) _ h

theorem removeBlock_canonical {s : State} (h : s.Canonical) (uid : Nat) (fatal : Bool) : (removeBlock s uid fatal).1.Canonical := by
  unfold removeBlock
  split
  · exact h
  · rename_i b _
    have h1 := freeFrames_canonical (finishRasters_canonical h b) b
    dsimp only
    refine finishPhase_canonical (leaveCore_canonical ?_ _ _) _
    split <;> exact h1

theorem removePhase_canonical {s : State} (h : s.Canonical) (p : Phase) : (removePhase s p).1.Canonical := by
  unfold removePhase
  split
  · exact h
  · refine finishPhase_canonical ?_ _
    split <;> exact h

theorem removeOwner_canonical {s : State} (h : s.Canonical) (oid : Nat) : (removeOwner s oid).Canonical := by
  have h1 : ∀ l : List Phase, (l.foldl (fun s p => (removePhase s p).1) s).Canonical :=
    fun l => foldl_keeps (P := State.Canonical) (fun _ p hs => removePhase_canonical hs p) l h
  unfold removeOwner
  dsimp only
  exact h1 _

theorem disableQueues_canonical {s : State} (h : s.Canonical) (oid : Nat) : (disableQueues s oid).Canonical :=
  foldl_keeps (P := State.Canonical) (fun _ _ hs => ite_canonical (fun _ => setRegBits_canonical hs _ _ _ _) fun _ => hs) _ h

theorem sweepDie_canonical {s : State} (h : s.Canonical) (die : Nat) (disc : Bool) (hit : Nat × Nat → Bool) :
    (sweepDie s die disc hit).Canonical := by
  have h1 : ∀ (l : List DirEnt) (a : State), a.Canonical → (l.foldl (fun s d => clearReservations s d.line) a).Canonical :=
    fun l a ha => foldl_keeps (P := State.Canonical) (f := fun s d => clearReservations s d.line)
      (fun a d hs => clearReservations_canonical hs d.line) l ha
  unfold sweepDie
  dsimp only
  exact h1 _ _ (setDir_canonical (dropEnts_canonical h disc _) _)

theorem sweepAll_canonical {s : State} (h : s.Canonical) (disc : Bool) (hit : Nat × Nat → Bool) : (sweepAll s disc hit).Canonical :=
  foldl_keeps (P := State.Canonical) (fun _ d hs => sweepDie_canonical hs d disc hit) _ h

theorem depart_canonical {s : State} (h : s.Canonical) (oid : Nat) : (depart s oid).Canonical :=
  sweepAll_canonical h _ _

theorem endContext_canonical {s : State} (h : s.Canonical) (oid : Nat) : (endContext s oid).Canonical :=
  depart_canonical (removeOwner_canonical
    (foldl_keeps (P := State.Canonical) (fun _ b hs => removeBlock_canonical hs b.uid true) _ h) _) _

theorem pairWrite_canonical {s : State} (h : s.Canonical) (d a : Nat) (l : List Byte) : (pairWrite s d a l).Canonical :=
  ite_canonical (fun _ => writePhys_canonical h a l) fun _ => h

theorem fatalError_canonical {s : State} (h : s.Canonical) (c : FatalCause) : (fatalError s c).Canonical := by
  have h1 := setRegBits_canonical h 0 11 1 1
  unfold fatalError; dsimp only; split
  · exact h1
  · exact notify_canonical (pairWrite_canonical h1 _ _ _) 0 3

theorem systemRecord_canonical {s : State} (h : s.Canonical) (r : Record) : (systemRecord s r).Canonical := by
  unfold systemRecord
  split
  · rename_i e; exact writeRecord_canonical h e
  · exact fatalError_canonical h _

theorem doubleAt_canonical {s : State} (h : s.Canonical) (r : Record) : (doubleAt s r).Canonical := by
  unfold doubleAt
  split
  · exact fatalError_canonical h _
  · exact systemRecord_canonical (disableQueues_canonical (endContext_canonical h _) _) _

theorem doubleFault_canonical {s : State} (h : s.Canonical) (oid die va : Nat) : (doubleFault s oid die va).Canonical := doubleAt_canonical h _
theorem blockDouble_canonical {s : State} (h : s.Canonical) (b : Block) (va : Nat) : (blockDouble s b va).Canonical := doubleAt_canonical h _
theorem phaseDouble_canonical {s : State} (h : s.Canonical) (l : Launch) (p : Phase) (die va : Nat) :
    (phaseDouble s l p die va).Canonical := doubleAt_canonical h _

theorem endBlock_canonical {s : State} (h : s.Canonical) (uid : Nat) (fatal : Bool) : (endBlock s uid fatal).Canonical := by
  unfold endBlock
  split
  · exact h
  · exact ite_canonical (fun _ => removeBlock_canonical h _ _) fun _ => blockDouble_canonical (removeBlock_canonical h _ _) _ _

theorem setPhase_canonical {s : State} (h : s.Canonical) (uid : Nat) (st : PState) : (setPhase s uid st).Canonical := by
  have h1 := movePhase_canonical h uid st
  unfold setPhase
  generalize movePhase s uid st = m at *
  dsimp only
  split
  · exact h1
  · split
    · exact h1
    · split
      · exact h1
      · exact phaseDouble_canonical h1 _ _ _ _

theorem raiseRecord_canonical {s : State} (h : s.Canonical) (r : Record) : (raiseRecord s r).Canonical := by
  unfold raiseRecord
  split
  · rename_i e; exact writeRecord_canonical h e
  · exact doubleAt_canonical h _

theorem fatalFault_canonical {s : State} (h : s.Canonical) (b : Block) (w : Option Wave) (cls detail vaddr caddr index : Nat) (m : W32) :
    (fatalFault s b w cls detail vaddr caddr index m).Canonical := endBlock_canonical (raiseRecord_canonical h _) _ _

theorem takeFault_canonical {s : State} (h : s.Canonical) (c : Ctx) (cls detail vaddr : Nat) (m : W32) :
    (takeFault s c cls detail vaddr m).Canonical := fatalFault_canonical h _ _ _ _ _ _ _ _

theorem noteFault_canonical {s : State} (h : s.Canonical) (c : Ctx) (cls detail vaddr : Nat) (m : W32) :
    (noteFault s c cls detail vaddr m).Canonical := raiseRecord_canonical h _

theorem takePageAs_canonical {s : State} (h : s.Canonical) (who : PfWho) (r : ERef) (oid glade va : Nat) (m : W32) :
    (takePageAs who s r oid glade va m).Canonical := h

theorem takePage_canonical {s : State} (h : s.Canonical) (r : ERef) (oid glade va : Nat) (m : W32) :
    (takePage s r oid glade va m).Canonical := h

theorem advance_canonical {s : State} (h : s.Canonical) (c : Ctx) (f : Fields) : (advance c f s).Canonical := h

theorem settleAt_canonical {s : State} (h : s.Canonical) (r : WRef) : (settleAt s r).Canonical := by
  unfold settleAt; split <;> exact h

theorem checkDeadlock_canonical {s : State} (h : s.Canonical) (r : WRef) : (checkDeadlock s r).Canonical := by
  unfold checkDeadlock
  split
  · exact h
  · split
    · split
      · exact fatalFault_canonical h _ _ _ _ _ _ _ _
      · exact h
    · exact h

theorem restoreFrame_canonical {s : State} (h : s.Canonical) (r : WRef) (oid frame clk : Nat) (l : List Byte) :
    (restoreFrame s r oid frame clk l).Canonical := h

theorem enterTrap_canonical {s t : State} (h : s.Canonical) {c : Ctx} {kind k : Nat} {p : W32} {ret : Nat} {rest : List Entry} {a : Nat}
    (e : enterTrap s c kind k p ret rest a = .ok t) : t.Canonical := by
  unfold enterTrap at e
  split at e
  · cases e
  · split at e
    · cases e
    · split at e
      · cases e
      · rename_i h1; cases e; have h2 := pinWrite_canonical h h1; exact h2

theorem leaveTrap_canonical {s t : State} (h : s.Canonical) {r : WRef} {oid : Nat} {m : W32} (e : leaveTrap s r oid m = .ok t) :
    t.Canonical := by
  unfold leaveTrap at e
  split at e
  · cases e; exact h
  · split at e
    · cases e; exact h
    · dsimp only at e
      split at e
      · split at e
        · cases e
        · cases e; exact h
      · cases e; exact h

/-- The state that a stop carries has its canonical forms. -/
def Stop.Keeps : Stop → Prop
  | .page _ _ s => s.Canonical
  | .record _ _ s => s.Canonical
  | .hold _ s => s.Canonical
  | _ => True

/-- A stop keeps the canonical forms, where the state that it carries has them. -/
theorem stopped_canonical {s : State} (h : s.Canonical) (c : Ctx) {e : Stop} (he : e.Keeps) : (stopped s c e).Canonical := by
  unfold stopped
  split
  · exact takeFault_canonical h _ _ _ _ _
  · exact takePage_canonical he _ _ _ _ _
  · exact takePageAs_canonical he _ _ _ _ _ _
  · exact mapEntry_canonical he _ _
  · exact doubleAt_canonical h _

/-- The issue of an instruction keeps the canonical forms, where its meaning does in every outcome. -/
theorem issue_canonical {opc : Nat} {f : Fields} {s t : State} {k : State → Ctx → Except Stop Go} (h : s.Canonical)
    (hk : ∀ s c, s.Canonical → match k s c with
      | .error e => e.Keeps
      | .ok (.seq u) => u.Canonical
      | .ok (.placed u) => u.Canonical) (e : issue opc f s k = .next t) : t.Canonical := by
  cases hc : ctxOf s with
  | none => rw [issue_none hc] at e; cases e
  | some c =>
    rcases issue_cases (opc := opc) (f := f) (k := k) hc with ⟨_, e1⟩ | e1 | ⟨x, hx, e1⟩ | ⟨u, hu, e1⟩ | ⟨u, hu, e1⟩ <;> rw [e1] at e <;> cases e
    · exact stopped_canonical h c h
    · exact takeFault_canonical (begun_canonical h) _ _ _ _ _
    · have h1 := hk s.begun c h
      rw [hx] at h1
      refine stopped_canonical (begun_canonical h) c ?_
      cases x <;> exact h1
    · have h1 := hk s.begun c h
      rw [hu] at h1; exact advance_canonical h1 c f
    · have h1 := hk s.begun c h
      rw [hu] at h1; exact settleAt_canonical h1 _

end Sys2Proof.Machine
end

