-- ==== Sys2Proof/Laws/Frames.lean ====
section
/-!
SUPPORT. What register writes, the settling of a wave and the shared shape of the computing instructions change, and what they leave.
-/
namespace Sys2Proof.Machine

/-! ## Lists of blocks and waves -/

theorem updWhere_updWhere {α : Type} {p : α → Bool} {f g : α → α} (hf : ∀ a, p a = true → p (f a) = true) (l : List α) :
    updWhere p g (updWhere p f l) = updWhere p (g ∘ f) l := by
  induction l with
  | nil => rfl
  | cons a t ih =>
    simp only [updWhere, ih, List.cons.injEq, and_true]
    by_cases h : p a = true
    · simp [h, hf a h]
    · simp [h]

theorem updWhere_id {α : Type} (p : α → Bool) (l : List α) : updWhere p (fun a => a) l = l := by
  induction l with
  | nil => rfl
  | cons a t ih => simp [updWhere, ih]

/-- Two changes of one wave are one change. -/
theorem mapWave_mapWave (s : State) (u w : Nat) (f g : Wave → Wave) (hf : ∀ v : Wave, v.wave = w → (f v).wave = w) :
    ((s.mapWave u w f).mapWave u w g) = s.mapWave u w (g ∘ f) := by
  have h1 : ∀ b : Block, (b.mapWave w f).mapWave w g = b.mapWave w (g ∘ f) := by
    intro b
    simp only [Block.mapWave]
    rw [updWhere_updWhere]
    intro a ha
    simp only [beq_iff_eq] at *
    exact hf a ha
  simp only [State.mapWave, State.mapBlock]
  rw [updWhere_updWhere (by intro a ha; exact ha)]
  have h2 : ((fun b : Block => b.mapWave w g) ∘ fun b : Block => b.mapWave w f) = fun b : Block => b.mapWave w (g ∘ f) := funext h1
  rw [h2]

/-! ## Frames of waves -/

theorem SameOutside.refl (d : List Reg) (w : Wave) : SameOutside d w w := by simp [SameOutside]

theorem SameOutside.trans {d : List Reg} {u v w : Wave} (h1 : SameOutside d u v) (h2 : SameOutside d v w) : SameOutside d u w := by
  obtain ⟨a1, a2, a3, a4, a5, a6, a7, a8, a9, a10, a11, a12, a13, a15, a16, a17, a18, a14⟩ := h1
  obtain ⟨b1, b2, b3, b4, b5, b6, b7, b8, b9, b10, b11, b12, b13, b15, b16, b17, b18, b14⟩ := h2
  exact ⟨fun n l hn hl => (b1 n l hn hl).trans (a1 n l hn hl), fun n hn => (b2 n hn).trans (a2 n hn),
    fun n hn => (b3 n hn).trans (a3 n hn), b4.trans a4, b5.trans a5, b6.trans a6, b7.trans a7, b8.trans a8, b9.trans a9,
    b10.trans a10, b11.trans a11, b12.trans a12, b13.trans a13, b15.trans a15, b16.trans a16, b17.trans a17, b18.trans a18,
    fun k hk => (b14 k hk).trans (a14 k hk)⟩

/-- Settling a wave moves its entries and its flags alone. -/
theorem settleWave_same (d : List Reg) (s : State) (b : Block) (w : Wave) : SameOutside d w (settleWave s b w) := SameOutside.refl d w

theorem mapEntry_same (d : List Reg) (w : Wave) (lane : Nat) (g : Entry → Entry) : SameOutside d w (w.mapEntry lane g) :=
  SameOutside.refl d w

theorem pushQ_same (d : List Reg) (w : Wave) (m : W32) (b : Bool) (r : Nat) (l : List W32) : SameOutside d w (w.pushQ m b r l) :=
  SameOutside.refl d w

/-- A result delivered at issue leaves e2, e4, e6 and e7 alone. -/
theorem pushQ_queues (w : Wave) (m : W32) (b : Bool) (r : Nat) (l : List W32) :
    (w.pushQ m b r l).e2 = w.e2 ∧ (w.pushQ m b r l).e4 = w.e4 ∧ (w.pushQ m b r l).e6 = w.e6 ∧ (w.pushQ m b r l).seqE = w.seqE ∧
      (w.pushQ m b r l).e7 = w.e7 := ⟨rfl, rfl, rfl, rfl, rfl⟩

/-- Settling a wave leaves its queues. -/
theorem settleWave_queues (s : State) (b : Block) (w : Wave) : SameQueues w (settleWave s b w) := ⟨rfl, rfl, rfl, rfl, rfl, rfl⟩

/-! ## Register writes -/

/-- A write of lanes of one vector register leaves the other registers. -/
theorem putV_other (w : Wave) (n : Nat) (mask : W32) (vals : List W32) {m l : Nat} (h : m ≠ n) (hl : l < 32) :
    (w.putV n mask vals).getV m l = w.getV m l := by
  have key : ∀ ps : List (Nat × W32), (∀ p ∈ ps, p.1 < 32) → ∀ w : Wave,
      (ps.foldl (fun a p => if mask.getLsbD p.1 then a.setV n p.1 p.2 else a) w).getV m l = w.getV m l := by
    intro ps
    induction ps with
    | nil => intros; rfl
    | cons p t ih =>
      intro hp w
      have h1 : (if mask.getLsbD p.1 = true then w.setV n p.1 p.2 else w).getV m l = w.getV m l := by
        split
        · have h2 : p.1 < 32 := hp p (by simp)
          exact spGet_spSet_other _ _ _ (by omega)
        · rfl
      simp only [List.foldl]
      exact (ih (fun q hq => hp q (by simp [hq])) _).trans h1
  refine key _ ?_ w
  intro p hp
  have h1 : p.1 ∈ lanes32 := (List.of_mem_zip hp).1
  simp only [lanes32, List.mem_cons, List.not_mem_nil, or_false] at h1
  omega

/-! ## The shared shape of the computing instructions (R74) -/

/-- An instruction that computes a value from its value sources completes with that value's effect. -/
theorem computing_goesOn {opc : Nat} {v : ValueOp} {f : Fields} {s : State} {c : Ctx} {ls : List (List Nat)} {w : Wave}
    (h : ValueReady v opc f s c ls w) :
    computing opc v.srcs v.pair v.lat v.long true v.fn f s = goesOn c f (valueEffect v opc f s.begun c ls w) := by
  obtain ⟨h1, h2, h3, h4⟩ := h
  refine issue_goesOn h1 ?_
  rcases h3 with h3 | h3
  · simp only [h3] at h2 h4
    simp only [h3]
    simp [h2, h4, valueEffect, laneResults, positions, h3]
  · simp only [positions] at h3
    simp [h2, h3, h4, valueEffect, laneResults, positions]

end Sys2Proof.Machine
end

