-- ==== Sys2Proof/Laws/PerInstr.lean ====
section
/-!
SUPPORT. The encoding, one lemma per instruction: its opcode has 10 bits, and when it is well formed its opcode and fields select it again.
A step that no instruction word names has no opcode.
-/
namespace Sys2Proof.Laws.EncodeLaw

/-- What the encoding says of one instruction. -/
def Statement (i : Instr) : Prop :=
  ∀ opc f, i.parts = some (opc, f) → opc < 1024 ∧ (i.wf = true → instrOf opc f = some i)

theorem of_parts {i : Instr} {opc : Nat} {f : Fields} (h : i.parts = some (opc, f)) (h1 : opc < 1024) : Statement i := by
  intro o g hp
  rw [h] at hp
  cases hp
  refine ⟨h1, fun hw => ?_⟩
  simp only [Instr.wf, h, Bool.and_eq_true, beq_iff_eq] at hw
  exact hw.2

theorem of_none {i : Instr} (h : i.parts = none) : Statement i := by
  intro o g hp; rw [h] at hp; cases hp

theorem iadd (f : Fields) : Statement (.iadd f) := of_parts rfl (by decide)
theorem isub (f : Fields) : Statement (.isub f) := of_parts rfl (by decide)
theorem iaddc (f : Fields) : Statement (.iaddc f) := of_parts rfl (by decide)
theorem isubb (f : Fields) : Statement (.isubb f) := of_parts rfl (by decide)
theorem iadds (f : Fields) : Statement (.iadds f) := of_parts rfl (by decide)
theorem isubs (f : Fields) : Statement (.isubs f) := of_parts rfl (by decide)
theorem imul (f : Fields) : Statement (.imul f) := of_parts rfl (by decide)
theorem imulh (f : Fields) : Statement (.imulh f) := of_parts rfl (by decide)
theorem imad (f : Fields) : Statement (.imad f) := of_parts rfl (by decide)
theorem imadw (f : Fields) : Statement (.imadw f) := of_parts rfl (by decide)
theorem idiv (f : Fields) : Statement (.idiv f) := of_parts rfl (by decide)
theorem irem (f : Fields) : Statement (.irem f) := of_parts rfl (by decide)
theorem ineg (f : Fields) : Statement (.ineg f) := of_parts rfl (by decide)
theorem iabs (f : Fields) : Statement (.iabs f) := of_parts rfl (by decide)
theorem imin (f : Fields) : Statement (.imin f) := of_parts rfl (by decide)
theorem imax (f : Fields) : Statement (.imax f) := of_parts rfl (by decide)
theorem iclamp (f : Fields) : Statement (.iclamp f) := of_parts rfl (by decide)
theorem idiff (f : Fields) : Statement (.idiff f) := of_parts rfl (by decide)
theorem idp4 (f : Fields) : Statement (.idp4 f) := of_parts rfl (by decide)
theorem idp2 (f : Fields) : Statement (.idp2 f) := of_parts rfl (by decide)
theorem lea (f : Fields) : Statement (.lea f) := of_parts rfl (by decide)
theorem mov (f : Fields) : Statement (.mov f) := of_parts rfl (by decide)
theorem movw (f : Fields) : Statement (.movw f) := of_parts rfl (by decide)
theorem and (f : Fields) : Statement (.and f) := of_parts rfl (by decide)
theorem or (f : Fields) : Statement (.or f) := of_parts rfl (by decide)
theorem xor (f : Fields) : Statement (.xor f) := of_parts rfl (by decide)
theorem andn (f : Fields) : Statement (.andn f) := of_parts rfl (by decide)
theorem not (f : Fields) : Statement (.not f) := of_parts rfl (by decide)
theorem shl (f : Fields) : Statement (.shl f) := of_parts rfl (by decide)
theorem shr (f : Fields) : Statement (.shr f) := of_parts rfl (by decide)
theorem sar (f : Fields) : Statement (.sar f) := of_parts rfl (by decide)
theorem rotl (f : Fields) : Statement (.rotl f) := of_parts rfl (by decide)
theorem rotr (f : Fields) : Statement (.rotr f) := of_parts rfl (by decide)
theorem funnel (f : Fields) : Statement (.funnel f) := of_parts rfl (by decide)
theorem bfx (f : Fields) : Statement (.bfx f) := of_parts rfl (by decide)
theorem bfi (f : Fields) : Statement (.bfi f) := of_parts rfl (by decide)
theorem brev (f : Fields) : Statement (.brev f) := of_parts rfl (by decide)
theorem popc (f : Fields) : Statement (.popc f) := of_parts rfl (by decide)
theorem clz (f : Fields) : Statement (.clz f) := of_parts rfl (by decide)
theorem ctz (f : Fields) : Statement (.ctz f) := of_parts rfl (by decide)
theorem fadd (f : Fields) : Statement (.fadd f) := of_parts rfl (by decide)
theorem fsub (f : Fields) : Statement (.fsub f) := of_parts rfl (by decide)
theorem fmul (f : Fields) : Statement (.fmul f) := of_parts rfl (by decide)
theorem ffma (f : Fields) : Statement (.ffma f) := of_parts rfl (by decide)
theorem fmin (f : Fields) : Statement (.fmin f) := of_parts rfl (by decide)
theorem fmax (f : Fields) : Statement (.fmax f) := of_parts rfl (by decide)
theorem fminn (f : Fields) : Statement (.fminn f) := of_parts rfl (by decide)
theorem fmaxn (f : Fields) : Statement (.fmaxn f) := of_parts rfl (by decide)
theorem fabs (f : Fields) : Statement (.fabs f) := of_parts rfl (by decide)
theorem fclamp (f : Fields) : Statement (.fclamp f) := of_parts rfl (by decide)
theorem frnd (f : Fields) : Statement (.frnd f) := of_parts rfl (by decide)
theorem ffrac (f : Fields) : Statement (.ffrac f) := of_parts rfl (by decide)
theorem fscl (f : Fields) : Statement (.fscl f) := of_parts rfl (by decide)
theorem fexpn (f : Fields) : Statement (.fexpn f) := of_parts rfl (by decide)
theorem fmant (f : Fields) : Statement (.fmant f) := of_parts rfl (by decide)
theorem fdiv (f : Fields) : Statement (.fdiv f) := of_parts rfl (by decide)
theorem fsqrt (f : Fields) : Statement (.fsqrt f) := of_parts rfl (by decide)
theorem frcp (f : Fields) : Statement (.frcp f) := of_parts rfl (by decide)
theorem frsq (f : Fields) : Statement (.frsq f) := of_parts rfl (by decide)
theorem fexp2 (f : Fields) : Statement (.fexp2 f) := of_parts rfl (by decide)
theorem flog2 (f : Fields) : Statement (.flog2 f) := of_parts rfl (by decide)
theorem fsin (f : Fields) : Statement (.fsin f) := of_parts rfl (by decide)
theorem fcos (f : Fields) : Statement (.fcos f) := of_parts rfl (by decide)
theorem ftanh (f : Fields) : Statement (.ftanh f) := of_parts rfl (by decide)
theorem cvt (f : Fields) : Statement (.cvt f) := of_parts rfl (by decide)
theorem pack (f : Fields) : Statement (.pack f) := of_parts rfl (by decide)
theorem unpk (f : Fields) : Statement (.unpk f) := of_parts rfl (by decide)
theorem bpack (f : Fields) : Statement (.bpack f) := of_parts rfl (by decide)
theorem bunpk (f : Fields) : Statement (.bunpk f) := of_parts rfl (by decide)
theorem isetp (f : Fields) : Statement (.isetp f) := of_parts rfl (by decide)
theorem fsetp (f : Fields) : Statement (.fsetp f) := of_parts rfl (by decide)
theorem fclass (f : Fields) : Statement (.fclass f) := of_parts rfl (by decide)
theorem sel (f : Fields) : Statement (.sel f) := of_parts rfl (by decide)
theorem plop (f : Fields) : Statement (.plop f) := of_parts rfl (by decide)
theorem ptov (f : Fields) : Statement (.ptov f) := of_parts rfl (by decide)
theorem vtop (f : Fields) : Statement (.vtop f) := of_parts rfl (by decide)
theorem shfl (f : Fields) : Statement (.shfl f) := of_parts rfl (by decide)
theorem tlu (f : Fields) : Statement (.tlu f) := of_parts rfl (by decide)
theorem zip2 (f : Fields) : Statement (.zip2 f) := of_parts rfl (by decide)
theorem zip3 (f : Fields) : Statement (.zip3 f) := of_parts rfl (by decide)
theorem zip4 (f : Fields) : Statement (.zip4 f) := of_parts rfl (by decide)
theorem unz2 (f : Fields) : Statement (.unz2 f) := of_parts rfl (by decide)
theorem unz3 (f : Fields) : Statement (.unz3 f) := of_parts rfl (by decide)
theorem unz4 (f : Fields) : Statement (.unz4 f) := of_parts rfl (by decide)
theorem vote (f : Fields) : Statement (.vote f) := of_parts rfl (by decide)
theorem reduce (f : Fields) : Statement (.reduce f) := of_parts rfl (by decide)
theorem wscan (f : Fields) : Statement (.wscan f) := of_parts rfl (by decide)
theorem rdlane (f : Fields) : Statement (.rdlane f) := of_parts rfl (by decide)
theorem bra (f : Fields) : Statement (.bra f) := of_parts rfl (by decide)
theorem brx (f : Fields) : Statement (.brx f) := of_parts rfl (by decide)
theorem call (f : Fields) : Statement (.call f) := of_parts rfl (by decide)
theorem callB64 (f : Fields) : Statement (.callB64 f) := of_parts rfl (by decide)
theorem ret (f : Fields) : Statement (.ret f) := of_parts rfl (by decide)
theorem joinm (f : Fields) : Statement (.joinm f) := of_parts rfl (by decide)
theorem leavem (f : Fields) : Statement (.leavem f) := of_parts rfl (by decide)
theorem waitm (f : Fields) : Statement (.waitm f) := of_parts rfl (by decide)
theorem mskmov (f : Fields) : Statement (.mskmov f) := of_parts rfl (by decide)
theorem exit (f : Fields) : Statement (.exit f) := of_parts rfl (by decide)
theorem nop (f : Fields) : Statement (.nop f) := of_parts rfl (by decide)
theorem yield (f : Fields) : Statement (.yield f) := of_parts rfl (by decide)
theorem ld (f : Fields) : Statement (.ld f) := of_parts rfl (by decide)
theorem st (f : Fields) : Statement (.st f) := of_parts rfl (by decide)
theorem lds (f : Fields) : Statement (.lds f) := of_parts rfl (by decide)
theorem sts (f : Fields) : Statement (.sts f) := of_parts rfl (by decide)
theorem stmap (f : Fields) : Statement (.stmap f) := of_parts rfl (by decide)
theorem stunmap (f : Fields) : Statement (.stunmap f) := of_parts rfl (by decide)
theorem stflush (f : Fields) : Statement (.stflush f) := of_parts rfl (by decide)
theorem pref (f : Fields) : Statement (.pref f) := of_parts rfl (by decide)
theorem atom (f : Fields) : Statement (.atom f) := of_parts rfl (by decide)
theorem atomr (f : Fields) : Statement (.atomr f) := of_parts rfl (by decide)
theorem cas (f : Fields) : Statement (.cas f) := of_parts rfl (by decide)
theorem lr (f : Fields) : Statement (.lr f) := of_parts rfl (by decide)
theorem sc (f : Fields) : Statement (.sc f) := of_parts rfl (by decide)
theorem fence (f : Fields) : Statement (.fence f) := of_parts rfl (by decide)
theorem waita (f : Fields) : Statement (.waita f) := of_parts rfl (by decide)
theorem waitaReevaluate (e : ERef) : Statement (.waitaReevaluate e) := of_none rfl
theorem waitaTimeout (e : ERef) : Statement (.waitaTimeout e) := of_none rfl
theorem acqReg (f : Fields) : Statement (.acqReg f) := of_parts rfl (by decide)
theorem acqMslot (f : Fields) : Statement (.acqMslot f) := of_parts rfl (by decide)
theorem acqt (f : Fields) : Statement (.acqt f) := of_parts rfl (by decide)
theorem rel (f : Fields) : Statement (.rel f) := of_parts rfl (by decide)
theorem give (f : Fields) : Statement (.give f) := of_parts rfl (by decide)
theorem claim (f : Fields) : Statement (.claim f) := of_parts rfl (by decide)
theorem carveGet (f : Fields) : Statement (.carveGet f) := of_parts rfl (by decide)
theorem carveTry (f : Fields) : Statement (.carveTry f) := of_parts rfl (by decide)
theorem carvePut (f : Fields) : Statement (.carvePut f) := of_parts rfl (by decide)
theorem phase (f : Fields) : Statement (.phase f) := of_parts rfl (by decide)
theorem bar (f : Fields) : Statement (.bar f) := of_parts rfl (by decide)
theorem regroup (f : Fields) : Statement (.regroup f) := of_parts rfl (by decide)
theorem mtenQuiesce (f : Fields) : Statement (.mtenQuiesce f) := of_parts rfl (by decide)
theorem mtenResume (f : Fields) : Statement (.mtenResume f) := of_parts rfl (by decide)
theorem mtenReset (f : Fields) : Statement (.mtenReset f) := of_parts rfl (by decide)
theorem mtenCtr (f : Fields) : Statement (.mtenCtr f) := of_parts rfl (by decide)
theorem mwld (f : Fields) : Statement (.mwld f) := of_parts rfl (by decide)
theorem mswap (f : Fields) : Statement (.mswap f) := of_parts rfl (by decide)
theorem mrun (f : Fields) : Statement (.mrun f) := of_parts rfl (by decide)
theorem minit (f : Fields) : Statement (.minit f) := of_parts rfl (by decide)
theorem mrda (f : Fields) : Statement (.mrda f) := of_parts rfl (by decide)
theorem mrdaOvf (f : Fields) : Statement (.mrdaOvf f) := of_parts rfl (by decide)
theorem msync (f : Fields) : Statement (.msync f) := of_parts rfl (by decide)
theorem enqE0 (f : Fields) : Statement (.enqE0 f) := of_parts rfl (by decide)
theorem enqE1 (f : Fields) : Statement (.enqE1 f) := of_parts rfl (by decide)
theorem deq (f : Fields) : Statement (.deq f) := of_parts rfl (by decide)
theorem mwldExecute (blk : Nat) : Statement (.mwldExecute blk) := of_none rfl
theorem mswapExecute (blk : Nat) : Statement (.mswapExecute blk) := of_none rfl
theorem mrunExecute (blk : Nat) : Statement (.mrunExecute blk) := of_none rfl
theorem minitExecute (blk : Nat) : Statement (.minitExecute blk) := of_none rfl
theorem mrdaExecute (blk : Nat) : Statement (.mrdaExecute blk) := of_none rfl
theorem slotChangeEffect (blk : Nat) : Statement (.slotChangeEffect blk) := of_none rfl
theorem gbar (f : Fields) : Statement (.gbar f) := of_parts rfl (by decide)
theorem gbarComplete (gang : Nat) : Statement (.gbarComplete gang) := of_none rfl
theorem cpy (f : Fields) : Statement (.cpy f) := of_parts rfl (by decide)
theorem cpyS (f : Fields) : Statement (.cpyS f) := of_parts rfl (by decide)
theorem copyExecute (cid : Nat) : Statement (.copyExecute cid) := of_none rfl
theorem copyStatusPush (cid : Nat) : Statement (.copyStatusPush cid) := of_none rfl
theorem launch (f : Fields) : Statement (.launch f) := of_parts rfl (by decide)
theorem grun (f : Fields) : Statement (.grun f) := of_parts rfl (by decide)
theorem blaze (f : Fields) : Statement (.blaze f) := of_parts rfl (by decide)
theorem blzq (f : Fields) : Statement (.blzq f) := of_parts rfl (by decide)
theorem blzdrop (f : Fields) : Statement (.blzdrop f) := of_parts rfl (by decide)
theorem pxst (f : Fields) : Statement (.pxst f) := of_parts rfl (by decide)
theorem pxld (f : Fields) : Statement (.pxld f) := of_parts rfl (by decide)
theorem tex (f : Fields) : Statement (.tex f) := of_parts rfl (by decide)
theorem texf (f : Fields) : Statement (.texf f) := of_parts rfl (by decide)
theorem rast (f : Fields) : Statement (.rast f) := of_parts rfl (by decide)
theorem trap (f : Fields) : Statement (.trap f) := of_parts rfl (by decide)
theorem svc (f : Fields) : Statement (.svc f) := of_parts rfl (by decide)
theorem rtt (f : Fields) : Statement (.rtt f) := of_parts rfl (by decide)
theorem brkp (f : Fields) : Statement (.brkp f) := of_parts rfl (by decide)
theorem mfsr (f : Fields) : Statement (.mfsr f) := of_parts rfl (by decide)
theorem mtsr (f : Fields) : Statement (.mtsr f) := of_parts rfl (by decide)
theorem roundOpen (w : WRef) : Statement (.roundOpen w) := of_none rfl
theorem longLatencyComplete (w : WRef) (op : Nat) : Statement (.longLatencyComplete w op) := of_none rfl
theorem e6Push (w : WRef) : Statement (.e6Push w) := of_none rfl
theorem waveEnd (w : WRef) : Statement (.waveEnd w) := of_none rfl
theorem pendingGrant (die core : Nat) : Statement (.pendingGrant die core) := of_none rfl
theorem phaseEnd (blk : Nat) : Statement (.phaseEnd blk) := of_none rfl
theorem regroupPermute (blk : Nat) : Statement (.regroupPermute blk) := of_none rfl
theorem dirReadShared (line : Nat) (h : Holder) : Statement (.dirReadShared line h) := of_none rfl
theorem dirReadOwn (line : Nat) (h : Holder) : Statement (.dirReadOwn line h) := of_none rfl
theorem dirWriteBack (line : Nat) (h : Holder) : Statement (.dirWriteBack line h) := of_none rfl
theorem dirRecall (line : Nat) (h : Holder) (toShared : Bool) : Statement (.dirRecall line h toShared) := of_none rfl
theorem promote (blk : Nat) : Statement (.promote blk) := of_none rfl
theorem racqProceed (e : ERef) : Statement (.racqProceed e) := of_none rfl
theorem pageFaultResolve (pf : Nat) (r : PfAnswer) : Statement (.pageFaultResolve pf r) := of_none rfl
theorem queueArrival (qid : Nat) : Statement (.queueArrival qid) := of_none rfl
theorem queueEntryAccept (qid : Nat) : Statement (.queueEntryAccept qid) := of_none rfl
theorem blockCreate (launch : Nat) : Statement (.blockCreate launch) := of_none rfl
theorem phaseReady (phase : Nat) : Statement (.phaseReady phase) := of_none rfl
theorem phaseDispatch (die core : Nat) : Statement (.phaseDispatch die core) := of_none rfl
theorem ageingPeriod (die : Nat) : Statement (.ageingPeriod die) := of_none rfl
theorem launchComplete (launch : Nat) : Statement (.launchComplete launch) := of_none rfl
theorem quotaPeriodStart (die : Nat) : Statement (.quotaPeriodStart die) := of_none rfl
theorem quotaOverrun (die oid : Nat) : Statement (.quotaOverrun die oid) := of_none rfl
theorem blazePublish (pub : Nat) : Statement (.blazePublish pub) := of_none rfl
theorem graphRunStart (die : Nat) : Statement (.graphRunStart die) := of_none rfl
theorem nodeComplete (run node : Nat) : Statement (.nodeComplete run node) := of_none rfl
theorem priorityPreempt (die : Nat) : Statement (.priorityPreempt die) := of_none rfl
theorem blockPark (blk : Nat) : Statement (.blockPark blk) := of_none rfl
theorem svcReplyLand (oid slot : Nat) (bytes : List Byte) : Statement (.svcReplyLand oid slot bytes) := of_none rfl
theorem svcReplyDeliver (w : WRef) : Statement (.svcReplyDeliver w) := of_none rfl
theorem precmd (v : W64) : Statement (.precmd v) := of_none rfl
theorem preemptHalt (blk : Nat) : Statement (.preemptHalt blk) := of_none rfl
theorem preemptSave (blk : Nat) : Statement (.preemptSave blk) := of_none rfl
theorem tlbi (v : W32) : Statement (.tlbi v) := of_none rfl
theorem l2ModeSwitch (v : W32) : Statement (.l2ModeSwitch v) := of_none rfl
theorem ftAssign (v : W64) : Statement (.ftAssign v) := of_none rfl
theorem ftRelease (v : W64) : Statement (.ftRelease v) := of_none rfl
theorem ftBiasToHost (v : W64) : Statement (.ftBiasToHost v) := of_none rfl
theorem ftBiasToDevice (v : W64) : Statement (.ftBiasToDevice v) := of_none rfl
theorem hostCxlMemRead (addr n : Nat) : Statement (.hostCxlMemRead addr n) := of_none rfl
theorem hostCxlMemWrite (addr : Nat) (bytes : List Byte) : Statement (.hostCxlMemWrite addr bytes) := of_none rfl
theorem hostSnoop (line : Nat) (write : HostWrite) : Statement (.hostSnoop line write) := of_none rfl
theorem hostRegisterRead (fn off : Nat) : Statement (.hostRegisterRead fn off) := of_none rfl
theorem msixSend (fn vec : Nat) : Statement (.msixSend fn vec) := of_none rfl
theorem mailboxDoorbell (fn : Nat) : Statement (.mailboxDoorbell fn) := of_none rfl
theorem mailboxReply (fn : Nat) (bytes : List Byte) : Statement (.mailboxReply fn bytes) := of_none rfl
theorem joracFinalise (fn : Nat) : Statement (.joracFinalise fn) := of_none rfl
theorem lockstepMismatch (die : Nat) : Statement (.lockstepMismatch die) := of_none rfl
theorem heartbeatTimeout (die : Nat) : Statement (.heartbeatTimeout die) := of_none rfl
theorem takeoverAttempt (die : Nat) : Statement (.takeoverAttempt die) := of_none rfl
theorem throttleDown (die : Nat) : Statement (.throttleDown die) := of_none rfl
theorem throttleUp (die : Nat) : Statement (.throttleUp die) := of_none rfl
theorem gladeEnable (g : Nat) : Statement (.gladeEnable g) := of_none rfl
theorem gladeDisable (g : Nat) : Statement (.gladeDisable g) := of_none rfl
theorem memlayWrite (v : BitVec 4) : Statement (.memlayWrite v) := of_none rfl
theorem accessTableWrite (t iid win : Nat) (v : W128) : Statement (.accessTableWrite t iid win v) := of_none rfl
theorem peerRequest (p h addr : Nat) (r : PeerOp) : Statement (.peerRequest p h addr r) := of_none rfl
theorem shenerMacFailure (port : Nat) : Statement (.shenerMacFailure port) := of_none rfl
theorem functionLevelReset (n : Nat) : Statement (.functionLevelReset n) := of_none rfl
theorem tagWalkSweep (die : Nat) (v : W32) : Statement (.tagWalkSweep die v) := of_none rfl
theorem spdmGetMeasurements (fn : Nat) (r : SpdmRequest) : Statement (.spdmGetMeasurements fn r) := of_none rfl
theorem rollbackRecord (r : BitVec 1536) : Statement (.rollbackRecord r) := of_none rfl
theorem fatalError (cause : FatalCause) : Statement (.fatalError cause) := of_none rfl
theorem frameStart (d : Nat) : Statement (.frameStart d) := of_none rfl
theorem mapCommand (d : Nat) (v : W32) : Statement (.mapCommand d v) := of_none rfl
theorem captureStart (d : Nat) (v : W64) : Statement (.captureStart d v) := of_none rfl
theorem displayEnable (d : Nat) (v : W64) : Statement (.displayEnable d v) := of_none rfl
theorem displayDisable (d : Nat) (v : W64) : Statement (.displayDisable d v) := of_none rfl
theorem registerWrite (port : RegPort) (v : W64) : Statement (.registerWrite port v) := of_none rfl
theorem backgroundComplete (die core idx : Nat) (refused : Bool) : Statement (.backgroundComplete die core idx refused) := of_none rfl
theorem kill (t : KillTarget) : Statement (.kill t) := of_none rfl
theorem shenerKeyExchange (k : ShenerKeys) : Statement (.shenerKeyExchange k) := of_none rfl
theorem firmwareImageUpdate (u : ImageUpdate) : Statement (.firmwareImageUpdate u) := of_none rfl
theorem leaderElection : Statement (.leaderElection) := of_none rfl
theorem heartbeat : Statement (.heartbeat) := of_none rfl
theorem deviceReset : Statement (.deviceReset) := of_none rfl
theorem biasFlipComplete : Statement (.biasFlipComplete) := of_none rfl
theorem ideKmKeyProg (slot : IdeSlot) (key : BitVec 256) : Statement (.ideKmKeyProg slot key) := of_none rfl

end Sys2Proof.Laws.EncodeLaw
end

