-- ==== Sys2Proof/Laws/Pinned.lean ====
section
/-!
SUPPORT. Writes of pinned structures one after another: a write changes neither translations in the TLBs nor the firewall, so the lines
that could be reached before it can be reached after it.
-/
namespace Sys2Proof.Machine

/-- What decides where an access through a TLB goes. -/
def State.ways (s : State) : List TlbEnt × Sparse W64 × List Nat × BitVec 3 × List W64 := (s.tlb, s.dcb, s.stopped, s.peerNo, s.clk)

theorem putByte_ways (s : State) (key : Nat) (x : Byte) : (putByte s key x).ways = s.ways := by
  unfold putByte tearKey; dsimp only; split <;> rfl

theorem writeByte_ways (x : Holder) (s : State) (key : Nat) (b : Byte) : (writeByte x s key b).ways = s.ways := by
  have h := ownByte_keeps State.ways (fun _ _ => rfl) (fun _ _ => rfl) x s key
  unfold writeByte
  exact (putByte_ways _ key b).trans h

theorem writeKeys_ways (x : Holder) (s : State) (l : List (Nat × Byte)) : (writeKeys x s l).ways = s.ways :=
  foldl_same (g := State.ways) (f := fun (s : State) (p : Nat × Byte) => writeByte x s p.1 p.2) (fun s p => writeByte_ways x s p.1 p.2) l s

theorem tagLines_ways (oid : Nat) (s : State) (l : List Nat) : (tagLines oid s l).ways = s.ways :=
  tagHeld_keeps State.ways (fun _ _ => rfl) _ _ _ _

theorem hwWrite_ways (s : State) (oid : Nat) (ks : List Nat) (l : List Byte) : (hwWrite s oid ks l).ways = s.ways := by
  unfold hwWrite; split
  · rfl
  · exact (tagLines_ways ..).trans (writeKeys_ways ..)

theorem pinWrite_ways {s t : State} {oid va : Nat} {l : List Byte} (h : pinWrite s oid va l = some t) : t.ways = s.ways := by
  unfold pinWrite at h
  split at h
  · cases h; exact hwWrite_ways ..
  · cases h

/-- The core's TLB holds the translation of an address for whoever accesses it. -/
def inTlb (s : State) (who : Who) (va : Nat) : Bool := (tlbHit s who va (who.core % 16)).isSome

theorem translate_of_inTlb {s t : State} {who : Who} {va : Nat} (h : t.ways = s.ways) (hit : inTlb s who va = true) :
    translate t who va = translate s who va := by
  have h1 : t.tlb = s.tlb := congrArg (fun x => x.1) h
  have h2 (n : Nat) : tlbHit t who va n = tlbHit s who va n := by unfold tlbHit; rw [h1]
  obtain ⟨x, hx⟩ := Option.isSome_iff_exists.1 hit
  unfold translate
  rw [h2, hx]

theorem firewall_of_ways {s t : State} (h : t.ways = s.ways) (iid : Nat) (g : Target) (rd wr : Bool) :
    firewall t iid g rd wr = firewall s iid g rd wr := by
  have h2 : t.dcb = s.dcb := congrArg (fun x => x.2.1) h
  have h3 : t.stopped = s.stopped := congrArg (fun x => x.2.2.1) h
  have hr : t.reg = s.reg := by funext o; unfold State.reg; rw [h2]
  unfold firewall rostered portShut State.rstep gladesOn inRange channelOf tableAllows State.gladeState State.gldBits State.partitioned State.regBits
  simp only [hr, h3]

theorem peerRefused_of_ways {s t : State} (h : t.ways = s.ways) (who : Who) (g : Target) (ca : Nat) (n : Need) :
    peerRefused t who g ca n = peerRefused s who g ca n := by
  have h4 : t.peerNo = s.peerNo := congrArg (fun x => x.2.2.2.1) h
  have h5 : t.clk = s.clk := congrArg (fun x => x.2.2.2.2) h
  unfold peerRefused peerIid State.clkOf
  rw [h4, h5]

theorem place_of_ways {s t : State} {who : Who} {va : Nat} (h : t.ways = s.ways) (hit : inTlb s who va = true) (n : Need) :
    place t who va n = place s who va n := by
  unfold place
  rw [translate_of_inTlb h hit]
  simp only [firewall_of_ways h, peerRefused_of_ways h]

/-- Every line of a range is in the TLB. -/
def rangeInTlb (s : State) (who : Who) (va n : Nat) : Bool := (pieceList va n).all fun p => inTlb s who p.1

theorem foldl_agree {α σ : Type} {f g : σ → α → σ} (l : List α) (a : σ) (h : ∀ x ∈ l, ∀ b, f b x = g b x) : l.foldl f a = l.foldl g a := by
  induction l generalizing a with
  | nil => rfl
  | cons x t ih =>
    simp only [List.foldl_cons]
    rw [h x (by simp) a]
    exact ih _ fun y hy => h y (by simp [hy])

theorem rangeKeys_of_ways {s t : State} {who : Who} {va n : Nat} (h : t.ways = s.ways) (hit : rangeInTlb s who va n = true) (need : Need) :
    rangeKeys t who need va n = rangeKeys s who need va n := by
  unfold rangeKeys
  refine foldl_agree _ _ fun p hp a => ?_
  have := List.all_eq_true.1 hit p hp
  rw [place_of_ways h this]

theorem hw_of_ways {s t : State} (h : t.ways = s.ways) (oid : Nat) : t.hw oid = s.hw oid := by
  have h2 : t.dcb = s.dcb := congrArg (fun x => x.2.1) h
  unfold State.hw State.ctxGlade State.ctx State.reg
  rw [h2]

/-- A pinned structure that can be written in `s` can be written after writes that leave the ways to memory alone. -/
theorem pinWrite_of_ways {s t : State} {oid va : Nat} {l : List Byte} (h : t.ways = s.ways)
    (hit : rangeInTlb s (s.hw oid) va l.length = true)
    (ok : (rangeKeys s (s.hw oid) { rd := false, wr := true, pin := true } va l.length).toOption.isSome = true) :
    ∃ u, pinWrite t oid va l = some u ∧ u.ways = s.ways := by
  have hk := rangeKeys_of_ways (who := s.hw oid) h hit { rd := false, wr := true, pin := true }
  cases hp : pinWrite t oid va l with
  | some u => exact ⟨u, rfl, (pinWrite_ways hp).trans h⟩
  | none =>
    unfold pinWrite at hp
    rw [hw_of_ways h, hk] at hp
    split at hp
    · cases hp
    · rename_i e; rw [e] at ok; cases ok

/-- The same for a list of structures, each of which can be written in `s`. -/
theorem pinWrites_of_ways {s : State} {oid : Nat} (l : List (Nat × List Byte)) {t : State} (h : t.ways = s.ways)
    (ok : ∀ p ∈ l, rangeInTlb s (s.hw oid) p.1 p.2.length = true ∧
      (rangeKeys s (s.hw oid) { rd := false, wr := true, pin := true } p.1 p.2.length).toOption.isSome = true) :
    ∃ u, pinWrites oid l t = some u ∧ u.ways = s.ways := by
  induction l generalizing t with
  | nil => exact ⟨t, rfl, h⟩
  | cons p r ih =>
    obtain ⟨u, hu, hw⟩ := pinWrite_of_ways h (ok p (by simp)).1 (ok p (by simp)).2
    obtain ⟨v, hv, hx⟩ := ih hw fun q hq => ok q (by simp [hq])
    exact ⟨v, by simp [pinWrites, hu, hv], hx⟩

end Sys2Proof.Machine
end

