-- ==== Sys2Proof/Tests/Slice0.lean ====
section
/-!
SUPPORT. Tests of the encoding and of single steps, with values from the manual or worked by hand from it; and, for every statement
with hypotheses, a state and operands that meet them together.
-/
open Sys2Proof Sys2Proof.Machine
namespace Sys2Proof.Tests
set_option Elab.async false

/-! ## Small states -/

/-- The entry of `placeWord`'s block in an empty machine. -/
def r0 : ERef := { blk := 1, wave := 0, lane := 0 }
def w0 : WRef := { blk := 1, wave := 0 }

/-- `base` with one instruction placed whose entry is the issuing one, its block and wave changed. -/
def prep (base : State) (i : Instr) (h : Block → Block) (g : Wave → Wave) : State :=
  (({ placeWord base ((encode i).getD 0) with agenda := [], cur := some r0 }).mapBlock 1 h).mapWave 1 0 g

def placed (i : Instr) : State := prep State.reset i id id

/-- Owner 0 reaches 64 KiB of device memory at address 0: a page table of two entries, the frame, and the access table's window. It has
16 trap frames at 0x1000, a ring of two services at 0x2000, its arguments at 0x4000, and the debug permission. -/
def mapped : State :=
  { State.reset with
    mem := [(0, 1), (1, 0x80), (0x8000, 0x3F)]
    frames := [(0, { v := true, lin := false, hb := false, pend := false, oid := 0 })]
    dcb := [(0x8000, 0x0140C00000000000), (0x8003, 0x3000), (0x8004, 0x1000), (0x8005, 0x2000), (0x8006, 0x4000),
      (0x22000, 0xFFFFFFF000000000), (0x22001, 0x7FF), (0x22800, 0xFFFFFFF000000000), (0x22801, 0x7FF),
      (0x23000, 0xFFFFFFF000000000), (0x23001, 0x7FF), (0x23800, 0xFFFFFFF000000000), (0x23801, 0x7FF)] }

def okB {ε α : Type} : Except ε α → Bool
  | .ok _ => true
  | .error _ => false

def nextB : Host.Outcome State Fault Refusal → (State → Bool) → Bool
  | .next t, p => p t
  | _, _ => false

/-! ## Witnesses of instructions -/

def standsAnd (opc : Nat) (f : Fields) (s : State) (p : Ctx → Bool) : Bool :=
  match ctxOf s with
  | some c => !scoreboard c opc f && okB (check opc f) && placedWell c opc && p c
  | none => false

/-- The instruction stands to issue, and `p` holds of its context. -/
def Met (opc : Nat) (f : Fields) (s : State) (p : Ctx → Bool) : Prop := ∃ c, Stands opc f s c ∧ p c = true

theorem met {opc : Nat} {f : Fields} {s : State} {p : Ctx → Bool} (h : standsAnd opc f s p = true) : Met opc f s p := by
  unfold standsAnd at h
  split at h
  · rename_i c hc
    simp only [Bool.and_eq_true, Bool.not_eq_true'] at h
    obtain ⟨⟨⟨h1, h2⟩, h3⟩, h4⟩ := h
    refine ⟨c, ⟨hc, h1, ?_, h3⟩, h4⟩
    cases hk : check opc f with
    | ok u => rfl
    | error e => rw [hk] at h2; cases h2
  · cases h

def readyB (table : Instr → Option (Nat × Fields × ValueOp)) (i : Instr) : Bool :=
  match table i with
  | some (opc, f, v) => standsAnd opc f (placed i) fun c => destOk c f.op0 (isScalar opc f) true v.pair &&
      (isScalar opc f || oneScalar f (positions v.srcs)) &&
      okB (readSrcs (placed i).begun c opc f (isScalar opc f) (c.parts f) v.srcs c.w)
  | none => false

/-- The hypotheses of `ValuesComplete` are met by an instruction. -/
def Ready (table : Instr → Option (Nat × Fields × ValueOp)) (i : Instr) : Prop :=
  ∃ opc f v c ls w, table i = some (opc, f, v) ∧ ValueReady v opc f (placed i) c ls w

theorem ready {table : Instr → Option (Nat × Fields × ValueOp)} {i : Instr} (h : readyB table i = true) : Ready table i := by
  unfold readyB at h
  split at h
  · rename_i opc f v ht
    obtain ⟨c, hs, hp⟩ := met h
    simp only [Bool.and_eq_true, Bool.or_eq_true] at hp
    obtain ⟨⟨h1, h2⟩, h3⟩ := hp
    cases hr : readSrcs (placed i).begun c opc f (isScalar opc f) (c.parts f) v.srcs c.w with
    | ok x => exact ⟨opc, f, v, c, x.1, x.2, ht, hs, h1, h2, hr⟩
    | error e => rw [hr] at h3; cases h3
  · cases h

/-- Two vector registers to a third, and two scalars to a third. -/
def fVV (t : Ty) : Fields := plain t (.v 10) (.v 2) (.v 4) .none .none
def fSS (t : Ty) : Fields := plain t (.s 10) (.s 2) (.s 4) .none .none
def fV (t : Ty) : Fields := plain t (.v 10) (.v 2) .none .none .none

theorem witness_integerValues : Ready integerValue (.iadd (fVV .n32)) ∧ Ready integerValue (.iadd (fSS .n64)) :=
  ⟨ready (by decide +kernel), ready (by decide +kernel)⟩

theorem witness_bitValues : Ready bitValue (.xor (fVV .b64)) ∧ Ready bitValue (.xor (fSS .b32)) :=
  ⟨ready (by decide +kernel), ready (by decide +kernel)⟩

theorem witness_floatValues : Ready floatValue (.fadd (fVV .f32)) ∧ Ready floatValue (.frcp (fV .f16x2)) :=
  ⟨ready (by decide +kernel), ready (by decide +kernel)⟩

theorem witness_conversionValues : Ready conversionValue (.cvt (plain .f32 (.v 10) (.v 2) (.int 1) .none .none)) ∧
    Ready conversionValue (.pack (fVV .f16x2)) ∧ Ready conversionValue (.unpk (plain .f16x2 (.v 10) (.v 2) (.int 1) .none .none)) :=
  ⟨ready (by decide +kernel), ready (by decide +kernel), ready (by decide +kernel)⟩

def fCarry (a : Operand) : Fields := plain .n32 (.v 10) a (.v 3) (.p 1) (.p 2)
def sCarry : State := prep State.reset (.isubb (fCarry (.e 4))) id fun w => { w with e4 := [5] }

theorem witness_carry : Met 0x002 (fCarry (.v 2)) (placed (.iaddc (fCarry (.v 2)))) (fun c => destOk c (fCarry (.v 2)).op0 false true false &&
      oneScalar (fCarry (.v 2)) (positions [1, 2]) && !popsQueue (fCarry (.v 2)) (positions [1, 2]) &&
      okB (readSrcs (placed (.iaddc (fCarry (.v 2)))).begun c 0x002 (fCarry (.v 2)) false (c.parts (fCarry (.v 2))) [1, 2] c.w)) ∧
    Met 0x003 (fCarry (.e 4)) sCarry (fun c => destOk c (fCarry (.e 4)).op0 false true false &&
      oneScalar (fCarry (.e 4)) (positions [1, 2]) && popsQueue (fCarry (.e 4)) (positions [1, 2]) &&
      okB (readSrcs sCarry.begun c 0x003 (fCarry (.e 4)) false (c.parts (fCarry (.e 4))) [1, 2] c.w)) := by
  and_intros <;> exact met (by decide +kernel)

def fPush (t : Ty) (n : Fin 8) (a : Operand) : Fields := plain t (.e n) a .none .none .none
def sPush (f : Fields) : State := prep State.reset (.mov f) (fun b => { b with mslots := 1, tenant := some (Tenant.new false 1) })
  fun w => { w with e3 := List.replicate 15 0 }

theorem witness_movToQueue :
    Met 0x015 (fPush .b32 0 (.v 2)) (sPush (fPush .b32 0 (.v 2))) (fun c => !isScalar 0x015 (fPush .b32 0 (.v 2)) &&
      okB (needTenant (sPush (fPush .b32 0 (.v 2))).begun c)) ∧
    Met 0x015 (fPush .b32 1 (.v 2)) (sPush (fPush .b32 1 (.v 2))) (fun c => c.w.e1.length < 16) ∧
    Met 0x015 (fPush .b32 5 (.v 2)) (sPush (fPush .b32 5 (.v 2))) (fun c => c.w.e5.length < 4) ∧
    Met 0x015 (fPush .b32 3 (.s 2)) (sPush (fPush .b32 3 (.s 2))) (fun c => isScalar 0x015 (fPush .b32 3 (.s 2)) && c.w.e3.length < 64 &&
      !pathStuck (sPush (fPush .b32 3 (.s 2))).begun c.b.die c.b.core) := by
  and_intros <;> exact met (by decide +kernel)

def fTest (a : Operand) : Fields := plain .i32 a (.v 2) (.v 3) (.int 2) .none
def fTestF : Fields := plain .f32 (.s 1) (.s 2) (.s 3) (.int 13) .none
def fClass : Fields := plain .f32 (.p 1) (.v 2) (.s 3) .none .none

theorem witness_tests :
    Met 0x140 (fTest (.p 1)) (placed (.isetp (fTest (.p 1)))) (fun c => (condOf 6 (fTest (.p 1))).isSome &&
      oneScalar (fTest (.p 1)) (positions [1, 2]) &&
      okB (readSrcs (placed (.isetp (fTest (.p 1)))).begun c 0x140 (fTest (.p 1)) false (c.parts (fTest (.p 1))) [1, 2] c.w)) ∧
    Met 0x141 fTestF (placed (.fsetp fTestF)) (fun c => (condOf 14 fTestF).isSome && isScalar 0x141 fTestF &&
      okB (readSrcs (placed (.fsetp fTestF)).begun c 0x141 fTestF true (c.parts fTestF) [1, 2] c.w)) ∧
    Met 0x142 fClass (placed (.fclass fClass)) (fun c => oneScalar fClass (positions [1, 2]) &&
      okB (readSrcs (placed (.fclass fClass)).begun c 0x142 fClass false (c.parts fClass) [1, 2] c.w)) := by
  and_intros <;> exact met (by decide +kernel)

def fSel : Fields := plain .b32 (.v 1) (.p 2) (.v 3) (.v 4) .none
def fPlop : Fields := plain .none (.p 1) (.p 2) (.p 3) (.int 7) .none
def fPlopNot : Fields := plain .none (.p 1) (.p 2) .none (.int 9) .none
def fPtov : Fields := plain .b32 (.v 1) (.p 2) .none .none .none
def fVtop : Fields := plain .b32 (.p 1) (.v 2) .none .none .none

theorem witness_predicates :
    Met 0x143 fSel (placed (.sel fSel)) (fun c => oneScalar fSel (positions [2, 3]) && destOk c fSel.op0 false true false &&
      okB (readSrcs (placed (.sel fSel)).begun c 0x143 fSel false (c.parts fSel) [2, 3] c.w)) ∧
    Met 0x144 fPlop (placed (.plop fPlop)) (fun _ => predNum fPlop.op2 == some 3) ∧
    Met 0x144 fPlopNot (placed (.plop fPlopNot)) (fun _ => predNum fPlopNot.op1 == some 2) ∧
    Met 0x145 fPtov (placed (.ptov fPtov)) (fun c => destOk c fPtov.op0 false true false) ∧
    Met 0x146 fVtop (placed (.vtop fVtop)) (fun c =>
      okB (readSrcs (placed (.vtop fVtop)).begun c 0x146 fVtop false (c.parts fVtop) [1] c.w)) := by
  and_intros <;> exact met (by decide +kernel)

def fBpack : Fields := plain .i4p (.v 1) (.v 2) (.v 3) .none .none
def fBunpk : Fields := plain .i4p (.v 1) (.v 2) (.int 1) (.int 4) .none

theorem witness_planes :
    Met 0x103 fBpack (placed (.bpack fBpack)) (fun c => destOk c fBpack.op0 false true false &&
      okB (readSrcs (placed (.bpack fBpack)).begun c 0x103 fBpack false (c.parts fBpack) [1, 2] c.w)) ∧
    Met 0x104 fBunpk (placed (.bunpk fBunpk)) (fun c => destOk c fBunpk.op0 false true false && 4 ≤ elemWidth fBunpk.ty &&
      okB (readSrcs (placed (.bunpk fBunpk)).begun c 0x104 fBunpk false (c.parts fBunpk) [1] c.w)) := by
  and_intros <;> exact met (by decide +kernel)

def fShfl : Fields := plain .b32 (.v 1) (.v 2) (.int 31) .none .none
def fTlu : Fields := plain .b32 (.v 1) (.v 2) (.v 632) (.int 8) (.v 3)
def fZip : Fields := plain .b32 (.v 8) (.v 2) (.v 3) .none .none
def fVote (d : Operand) (t : Ty) (n : Fin 64) : Fields := plain t d (.p 1) (.int n) .none .none

theorem witness_laneMoves :
    Met 0x180 fShfl (placed (.shfl fShfl)) (fun c => destOk c fShfl.op0 false true false && laneKind false fShfl.op1 && laneKind true fShfl.op2 &&
      (match readSrc (placed (.shfl fShfl)).begun c c.w 0x180 fShfl false (c.parts fShfl) 2 with
        | .ok (ix, w) => okB (readLanes (placed (.shfl fShfl)).begun c w 0x180 fShfl false
            ((lanesOf (c.parts fShfl)).map fun l => (l, arg ix l % 32)) 1)
        | .error _ => false)) ∧
    Met 0x181 fTlu (placed (.tlu fTlu)) (fun c => 632 + 8 ≤ 8 * c.w.claim && destOk c fTlu.op0 false true false && laneKind false fTlu.op1 &&
      laneKind true fTlu.op4 && oneScalar fTlu (positions [1, 4]) &&
      okB (readSrcs (placed (.tlu fTlu)).begun c 0x181 fTlu false (c.parts fTlu) [1, 4] c.w)) ∧
    Met 0x182 fZip (placed (.zip2 fZip)) (fun c => vectorsOk c fZip.op0 2 && [0, 1].all fun j => laneKind false (fZip.op (j + 1)) &&
      okB (readLanes (placed (.zip2 fZip)).begun c c.w 0x182 fZip false
        ((lanesOf (c.parts fZip)).flatMap fun l => (List.range 2).filterMap fun r =>
          if (zipFrom false 2 r l).1 = j then some (l, (zipFrom false 2 r l).2) else none) (j + 1))) ∧
    Met 0x188 (fVote (.p 2) .none 0) (placed (.vote (fVote (.p 2) .none 0))) (fun _ => true) ∧
    Met 0x188 (fVote (.v 2) .b32 3) (placed (.vote (fVote (.v 2) .b32 3))) (fun c => destOk c (.v 2) false true false) := by
  and_intros <;> exact met (by decide +kernel)

def fReduce : Fields := plain .i32 .none (.v 2) (.int 0) .none .none
def fWscan : Fields := plain .i32 (.v 1) (.v 2) (.int 0) (.int 1) .none
def fRdlane : Fields := plain .b32 .none (.v 2) (.int 31) .none .none

theorem witness_collectives :
    Met 0x189 fReduce (placed (.reduce fReduce)) (fun c => (collectiveOf fReduce).isSome && c.w.e6.length + c.w.flights.length < 4 &&
      okB (treeSource (placed (.reduce fReduce)).begun c 0x189 fReduce (c.parts fReduce))) ∧
    Met 0x18A fWscan (placed (.wscan fWscan)) (fun c => (collectiveOf fWscan).isSome && destOk c fWscan.op0 false true false &&
      okB (readSrcs (placed (.wscan fWscan)).begun c 0x18A fWscan false (c.parts fWscan) [1] c.w)) ∧
    Met 0x18B fRdlane (placed (.rdlane fRdlane)) (fun c => c.w.e6.length + c.w.flights.length < 4 &&
      okB (treeSource (placed (.rdlane fRdlane)).begun c 0x18B fRdlane (1#32 <<< 31))) := by
  and_intros <;> exact met (by decide +kernel)

def fBra (a : Operand) : Fields := plain .none .none a .none .none .none
def fBrx (a : Operand) : Fields := plain .b64 .none a .none .none .none
def fCall (t : Ty) (a : Operand) : Fields := plain t (.v 20) a .none .none .none

/-- The header of the placed instruction's clause with a literal. -/
def withLit (lit : Nat) (w : Wave) : Wave :=
  { w with frontier := w.frontier.map fun e =>
      { e with clause := BitVec.ofNat 128 ((e.clause.headD 0).toNat % 2 ^ 64 + 2 ^ 64 * lit) :: e.clause.drop 1 } }


def sBra (i : Instr) (lit : Nat) : State := prep State.reset i id (withLit lit)

theorem witness_branches :
    Met 0x1C0 (fBra .litLo) (sBra (.bra (fBra .litLo)) 0xFFFFFFF0) (fun c => relTarget c .litLo == some (2 ^ 64 - 16)) ∧
    Met 0x1C1 (fBrx .litLo) (sBra (.brx (fBrx .litLo)) 0x100) (fun c =>
      okB (readSrcs (sBra (.brx (fBrx .litLo)) 0x100).begun c 0x1C1 (fBrx .litLo) false (c.parts (fBrx .litLo)) [1] c.w)) ∧
    Met 0x1C2 (fCall .none .litHi) (sBra (.call (fCall .none .litHi)) (2 ^ 36)) (fun c =>
      relTarget c .litHi == some 16 && destOk c (.v 20) false true true) ∧
    Met 0x1C2 (fCall .b64 (.v 2)) (placed (.callB64 (fCall .b64 (.v 2)))) (fun c => destOk c (.v 20) false true true &&
      okB (readSrcs (placed (.callB64 (fCall .b64 (.v 2)))).begun c 0x1C2 (fCall .b64 (.v 2)) false (c.parts (fCall .b64 (.v 2))) [1] c.w)) := by
  and_intros <;> exact met (by decide +kernel)

/-- The first participating lane's target, the literal `x`, is not a multiple of 16. -/
def wrongWay (i : Instr) (opc : Nat) (f : Fields) (x : Nat) (c : Ctx) : Bool :=
  match readSrcs (sBra i x).begun c opc f false (c.parts f) [1] c.w with
  | .ok (l :: _, _) => (lanesOf (c.parts f)).find? (fun j => arg l j % 16 != 0) == some 0
  | _ => false

theorem witness_misalignedBranch :
    Met 0x1C0 (fBra .litLo) (sBra (.bra (fBra .litLo)) 8) (fun c => relTarget c .litLo == some 8) ∧
    Met 0x1C2 (fCall .none .litLo) (sBra (.call (fCall .none .litLo)) 0xFFFFFFFF) (fun c =>
      relTarget c .litLo == some (2 ^ 64 - 1) && destOk c (.v 20) false true true) ∧
    Met 0x1C1 (fBrx .litLo) (sBra (.brx (fBrx .litLo)) 8) (wrongWay (.brx (fBrx .litLo)) 0x1C1 (fBrx .litLo) 8) ∧
    Met 0x1C3 (fBrx .litLo) (sBra (.ret (fBrx .litLo)) 15) (wrongWay (.ret (fBrx .litLo)) 0x1C3 (fBrx .litLo) 15) ∧
    Met 0x1C2 (fCall .b64 .litLo) (sBra (.callB64 (fCall .b64 .litLo)) 1) (fun c => destOk c (.v 20) false true true &&
      wrongWay (.callB64 (fCall .b64 .litLo)) 0x1C2 (fCall .b64 .litLo) 1 c) := by
  and_intros <;> exact met (by decide +kernel)

def fMask (d a : Operand) (t : Ty) : Fields := plain t d a .none .none .none
def fM : Fields := fMask (.m 1) .none .none
/-- Mask 1 holds `x`. -/
def sMask (i : Instr) (x : W32) : State := prep State.reset i id fun w => { w with m := if x = 0 then [] else [(1, x)] }
/-- A wave of two entries, lanes 0 and 1 apart from the rest, all of them in mask 1. -/
def sSplit (i : Instr) : State := prep State.reset i id fun w => { w with
  m := [(1, 0xFFFFFFFF)]
  frontier := w.frontier.flatMap fun e => [{ e with mask := 3 }, { e with hdr := 7, mask := 0xFFFFFFFC, opn := false }] }

theorem witness_masks :
    Met 0x1C4 fM (sMask (.joinm fM) 0) (fun _ => true) ∧ Met 0x1C5 fM (sMask (.leavem fM) 1) (fun _ => true) ∧
    Met 0x1C6 fM (sMask (.waitm fM) 0) (fun c => c.parts fM &&& c.w.getM 1 == 0) ∧
    Met 0x1C6 fM (sMask (.waitm fM) 1) (fun c => c.parts fM &&& c.w.getM 1 != 0 && c.w.maskDone 1 (c.parts fM &&& c.w.getM 1)) ∧
    Met 0x1C6 fM (sSplit (.waitm fM)) (fun c => c.parts fM &&& c.w.getM 1 == 3 && !c.w.maskDone 1 3) ∧
    Met 0x1C7 (fMask (.m 11) (.m 0) .b32) (placed (.mskmov (fMask (.m 11) (.m 0) .b32))) (fun _ => true) ∧
    Met 0x1C7 (fMask (.v 639) (.m 11) .b32) (placed (.mskmov (fMask (.v 639) (.m 11) .b32))) (fun c => destOk c (.v 639) false false false) ∧
    Met 0x1C7 (fMask (.s 127) (.m 1) .b32) (placed (.mskmov (fMask (.s 127) (.m 1) .b32))) (fun _ => true) ∧
    Met 0x1C7 (fMask (.p 14) (.m 1) .b32) (placed (.mskmov (fMask (.p 14) (.m 1) .b32))) (fun _ => true) := by
  and_intros <;> exact met (by decide +kernel)

def f0 : Fields := plain .none .none .none .none .none .none
def fYield : Fields := plain .none .none (.int 63) .none .none .none

theorem witness_exitNopYield :
    Met 0x1C8 f0 (placed (.exit f0)) (fun c => okB (leaveTrap ((placed (.exit f0)).begun.mapWave 1 0 fun w =>
      (replaceEntry w c.ref.lane [{ c.e with mask := c.parts f0 }, fallEntry (placed (.exit f0)).begun c f0 (c.e.mask &&& ~~~c.parts f0)]).endLanes
        (c.parts f0)) w0 c.b.oid (c.parts f0)) && !leaveHeld (placed (.exit f0)).begun c.w c.b.oid (c.parts f0)) ∧
    Met 0x1C9 f0 (placed (.nop f0)) (fun _ => true) ∧ Met 0x1CA fYield (placed (.yield fYield)) (fun _ => true) := by
  and_intros <;> exact met (by decide +kernel)

def fMfsr (d : Operand) (n : Fin 64) : Fields := plain .b32 d (.int n) .none .none .none
def fMtsr (a : Operand) : Fields := plain .b32 .none (.int 5) a .none .none

theorem witness_specialRegisters :
    Met 0x384 (fMfsr (.v 1) 0) (placed (.mfsr (fMfsr (.v 1) 0))) (fun c => destOk c (.v 1) false false false) ∧
    Met 0x384 (fMfsr (.s 1) 5) (placed (.mfsr (fMfsr (.s 1) 5))) (fun c => isScalar 0x384 (fMfsr (.s 1) 5) &&
      destOk c (.s 1) true false false && !stickyDue c) ∧
    Met 0x384 (fMfsr (.v 639) 15) (placed (.mfsr (fMfsr (.v 639) 15))) (fun c => destOk c (.v 639) false false false) ∧
    Met 0x385 (fMtsr (.int 4)) (placed (.mtsr (fMtsr (.int 4)))) (fun _ => true) := by
  and_intros <;> exact met (by decide +kernel)

/-! Memory: the address stands in s4 and s5, or in s4 for the stash; owner 0 reaches it. -/

def reach (i : Instr) (a : W32) : State :=
  prep mapped i (fun b => { b with ways := 1 }) fun w => { w with s := [(4, a)] }

/-- The checks of an access of lanes `ls` pass. -/
def reachB (s : State) (c : Ctx) (f : Fields) (stash scalar : Bool) (e n : Nat) (ls : List Nat) (need : Need) : Bool :=
  match addresses s c c.w f stash scalar e (c.parts f) with
  | .ok (al, _) => okB (spotsOf s c stash ls (fun l => (al[l]?).getD 0) n need scalar)
  | .error _ => false

def rdN : Need := { rd := true, wr := false }
def wrN : Need := { rd := false, wr := true }
def rwN : Need := { rd := true, wr := true }

def fLd (t : Ty) (d k : Operand) : Fields := plain t d (.s 4) (.int 2) k .none

theorem witness_loads :
    Met 0x200 (fLd .b64 (.v 8) (.int 2)) (reach (.ld (fLd .b64 (.v 8) (.int 2))) 0xFFE0) (fun c => rangeOk c (.v 8) false true 4 &&
      reachB (reach (.ld (fLd .b64 (.v 8) (.int 2))) 0xFFE0).begun c (fLd .b64 (.v 8) (.int 2)) false false 8 16
        (accLanes false (c.parts (fLd .b64 (.v 8) (.int 2)))) rdN) ∧
    Met 0x202 (fLd .b32 (.s 8) .none) (reach (.lds (fLd .b32 (.s 8) .none)) 0x7FF4) (fun c => rangeOk c (.s 8) true false 1 &&
      isScalar 0x202 (fLd .b32 (.s 8) .none) &&
      reachB (reach (.lds (fLd .b32 (.s 8) .none)) 0x7FF4).begun c (fLd .b32 (.s 8) .none) true true 4 4 [0] rdN) := by
  and_intros <;> exact met (by decide +kernel)

def fSt (t : Ty) (d : Operand) : Fields := plain t .none (.s 4) (.int 0) d .none

theorem witness_stores :
    Met 0x201 (fSt .b32 (.v 8)) (reach (.st (fSt .b32 (.v 8))) 0xFFFC) (fun c => oneScalar (fSt .b32 (.v 8)) (positions [1, 3]) &&
      okB (storeBytes (reach (.st (fSt .b32 (.v 8))) 0xFFFC).begun c 0x201 (fSt .b32 (.v 8)) false (c.parts (fSt .b32 (.v 8))) 1) &&
      reachB (reach (.st (fSt .b32 (.v 8))) 0xFFFC).begun c (fSt .b32 (.v 8)) false false 4 4 (accLanes false (c.parts (fSt .b32 (.v 8)))) wrN) ∧
    Met 0x203 (fSt .i8 (.s 8)) (reach (.sts (fSt .i8 (.s 8))) 0x7FFF) (fun c => isScalar 0x203 (fSt .i8 (.s 8)) &&
      okB (storeBytes (reach (.sts (fSt .i8 (.s 8))) 0x7FFF).begun c 0x203 (fSt .i8 (.s 8)) true (c.parts (fSt .i8 (.s 8))) 1) &&
      reachB (reach (.sts (fSt .i8 (.s 8))) 0x7FFF).begun c (fSt .i8 (.s 8)) true true 1 1 [0] wrN) := by
  and_intros <;> exact met (by decide +kernel)

def fMap : Fields := plain .none .none (.s 4) .zero (.s 6) (.int 15)
def fWin (n : Fin 64) : Fields := plain .none .none (.int n) .none .none .none
def fPref : Fields := plain .b32 .none (.s 4) (.int 0) .none .none
/-- s4 holds a line's address and s6 a window's length. -/
def sMap : State := prep mapped (.stmap fMap) (fun b => { b with ways := 1 }) fun w => { w with s := [(4, 0x9000), (6, 0x8000 - 0x1000)] }
/-- A block with window 15. -/
def sWin (i : Instr) : State := prep mapped i (fun b => { b with
  ways := 1, windows := [{ win := 15, off := 0, len := 128, va := 0x9000, leaves := [(0, 0x3F, 2)], filled := [], owner := 0, shown := true, op := 0 }] }) id

theorem witness_windows :
    Met 0x204 fMap sMap (fun c => stmapScalar c fMap.op2 true == some 0 && stmapScalar c fMap.op3 false == some 0x7000 && 0x7000 ≤ c.b.z &&
      c.b.windows.isEmpty && match windowLeaves sMap.begun c.b.who 0x9000 0x7000 with
        | .ok lv => !windowStuck sMap.begun c.b (newWindow c sMap.uids 15 0 0x7000 0x9000 lv)
        | .error _ => false) ∧
    Met 0x205 (fWin 14) (sWin (.stunmap (fWin 14))) (fun c => !(c.b.windows.any fun x => x.win == 14)) ∧
    Met 0x205 (fWin 15) (sWin (.stunmap (fWin 15))) (fun c => (c.b.windows.any fun x => x.win == 15) &&
      !mayTouch (sWin (.stunmap (fWin 15))).begun c.b) ∧
    Met 0x206 (fWin 16) (sWin (.stflush (fWin 16))) (fun _ => true) ∧
    Met 0x207 fPref (reach (.pref fPref) 0x9000) (fun c =>
      okB (addresses (reach (.pref fPref) 0x9000).begun c c.w fPref false (isScalar 0x207 fPref) 4 (c.parts fPref))) := by
  and_intros <;> exact met (by decide +kernel)

/-- MORD for a scope and an order. -/
def ordered (scope ord : Nat) (f : Fields) : Fields := { f with sm1 := BitVec.ofNat 12 (scope + 8 * ord) }
def fAtomr : Fields := ordered 5 3 (plain .n32 (.v 8) (.s 4) .zero (.v 2) (.int 8))
def fAtom : Fields := ordered 4 2 (plain .f32 .none (.s 4) .zero (.s 2) (.int 0))
def fCas : Fields := ordered 7 0 (plain .b64 (.v 8) (.v 12) .zero (.v 2) (.v 4))

theorem witness_atomics :
    Met 0x241 fAtomr (reach (.atomr fAtomr) 0x9000) (fun c => rangeOk c fAtomr.op0 false false 1 && oneScalar fAtomr (positions [1, 3]) &&
      reachB (reach (.atomr fAtomr) 0x9000).begun c fAtomr false false 4 4 (accLanes false (c.parts fAtomr)) rwN &&
      okB (readSrcs (reach (.atomr fAtomr) 0x9000).begun c 0x241 fAtomr false (c.parts fAtomr) [3] c.w)) ∧
    Met 0x240 fAtom (reach (.atom fAtom) 0x9000) (fun c => isScalar 0x240 fAtom &&
      reachB (reach (.atom fAtom) 0x9000).begun c fAtom false true 4 4 [0] rwN &&
      okB (readSrcs (reach (.atom fAtom) 0x9000).begun c 0x240 fAtom true (c.parts fAtom) [3] c.w)) ∧
    Met 0x242 fCas (reach (.cas fCas) 0) (fun c => rangeOk c fCas.op0 false true 2 && oneScalar fCas (positions [1, 3, 4]) &&
      reachB (reach (.cas fCas) 0).begun c fCas false false 8 8 (accLanes false (c.parts fCas)) rwN &&
      okB (readSrcs (reach (.cas fCas) 0).begun c 0x242 fCas false (c.parts fCas) [3, 4] c.w)) := by
  and_intros <;> exact met (by decide +kernel)

def fLr : Fields := ordered 5 1 (plain .b32 (.v 8) (.s 4) .zero .none .none)
def fSc (d a : Operand) : Fields := ordered 5 2 (plain .b32 d (.s 4) .zero a .none)

theorem witness_reservations :
    Met 0x243 fLr (reach (.lr fLr) 0x9000) (fun c => rangeOk c fLr.op0 false false 1 &&
      match addresses (reach (.lr fLr) 0x9000).begun c c.w fLr false false 4 (c.parts fLr) with
      | .ok (al, _) => match spotsOf (reach (.lr fLr) 0x9000).begun c false (oneLane false (c.parts fLr)) (fun l => (al[l]?).getD 0) 4 rdN false with
        | .ok [(_, q)] => homeIsDevice c.b q
        | _ => false
      | .error _ => false) ∧
    Met 0x244 (fSc (.p 2) (.v 2)) (reach (.sc (fSc (.p 2) (.v 2))) 0x9000) (fun c => oneScalar (fSc (.p 2) (.v 2)) (positions [1, 3]) &&
      reachB (reach (.sc (fSc (.p 2) (.v 2))) 0x9000).begun c (fSc (.p 2) (.v 2)) false false 4 4 [0] rwN &&
      okB (readSrcs (reach (.sc (fSc (.p 2) (.v 2))) 0x9000).begun c 0x244 (fSc (.p 2) (.v 2)) false (c.parts (fSc (.p 2) (.v 2))) [3] c.w)) ∧
    Met 0x244 (fSc (.s 2) (.s 2)) (reach (.sc (fSc (.s 2) (.s 2))) 0x9000) (fun c => isScalar 0x244 (fSc (.s 2) (.s 2)) &&
      reachB (reach (.sc (fSc (.s 2) (.s 2))) 0x9000).begun c (fSc (.s 2) (.s 2)) false true 4 4 [0] rwN) := by
  and_intros <;> exact met (by decide +kernel)

def fFence : Fields := ordered 4 2 f0
def fFenceR : Fields := { plain .none .none (.s 4) (.int 0) .none .none with sm1 := 0x2C }
def fWaita (t : Operand) : Fields := ordered 2 0 (plain .b32 (.p 1) (.s 4) .zero (.v 2) t)

theorem witness_fenceAndWaita :
    Met 0x245 fFence (reach (.fence fFence) 0) (fun _ => !fFence.rmt) ∧
    Met 0x245 fFenceR (reach (.fence fFenceR) 0x9000) (fun c => fFenceR.rmt &&
      reachB (reach (.fence fFenceR) 0x9000).begun c fFenceR false false 1 1 (lanesOf c.e.mask) rdN) ∧
    ([Operand.int 0, .int 63, .ones].all fun t => standsAnd 0x246 (fWaita t) (reach (.waita (fWaita t)) 0x9000) fun c =>
      oneScalar (fWaita t) (positions [1, 3, 4]) &&
      reachB (reach (.waita (fWaita t)) 0x9000).begun c (fWaita t) false false 4 4 (accLanes false (c.parts (fWaita t))) rdN &&
      okB (readSrcs (reach (.waita (fWaita t)) 0x9000).begun c 0x246 (fWaita t) false (c.parts (fWaita t)) [3, 4] c.w)) = true :=
  ⟨met (by decide +kernel), met (by decide +kernel), by decide +kernel⟩


/-! The launch record of the placed block: 80 bundles, 10 ways and 4 slots at most; template 0 and the output template are valid. -/

def limits : BitVec 2048 := BitVec.ofNat 2048 (80 * 2 ^ 524 + 10 * 2 ^ 531 + 4 * 2 ^ 535 + 2 ^ 538 + 2 ^ 767 + 2 ^ 895)
def limited (s : State) : State := { s with launches := s.launches.map fun l => { l with record := limits } }
/-- A second block on the core, of the same record, with `m` slots. -/
def crowded (m : Nat) (s : State) : State :=
  { limited s with blocks := (limited s).blocks ++ [{ oneBlock s 9 0 0 with mslots := m, waves := [] }] }
def lean8 (w : Wave) : Wave := { w with claim := 8 }

def fAsk (k kind : Operand) : Fields := plain .none .none k kind .none .none
def fTry (k kind : Operand) : Fields := plain .none (.s 5) k kind (.p 2) .none
def sAsk (i : Instr) : State := limited (prep State.reset i (fun b => { b with mslots := 1, tenant := some (Tenant.new false 1), mend := some false }) lean8)
def sTry (m : Nat) (i : Instr) : State := crowded m (prep State.reset i (fun b => { b with mslots := 1, tenant := some (Tenant.new false 1) }) lean8)

def grantedB (s : State) (c : Ctx) (kind k : Nat) (f : Fields) (status : Bool) : Bool :=
  decideRequest s.begun c.b c.w kind k == .granted &&
    !slotsPending (if status then reportStatus (giveUnits s.begun 1 0 kind k) c f 0 else giveUnits s.begun 1 0 kind k) 1 kind

theorem witness_requests :
    Met 0x280 (fAsk (.s 4) (.int 0)) (sAsk (.acqReg (fAsk (.s 4) (.int 0)))) (fun c => okB (readCount c (.s 4)) && c.readS true 4 == 0) ∧
    Met 0x280 (fAsk (.int 63) (.int 0)) (sAsk (.acqReg (fAsk (.int 63) (.int 0)))) (fun c =>
      grantedB (sAsk (.acqReg (fAsk (.int 63) (.int 0)))) c 0 63 (fAsk (.int 63) (.int 0)) false) ∧
    Met 0x280 (fAsk (.int 3) (.int 2)) (sAsk (.acqMslot (fAsk (.int 3) (.int 2)))) (fun c =>
      grantedB (sAsk (.acqMslot (fAsk (.int 3) (.int 2)))) c 2 3 (fAsk (.int 3) (.int 2)) false) ∧
    Met 0x285 (fAsk (.int 10) (.int 0)) (sAsk (.carveGet (fAsk (.int 10) (.int 0)))) (fun c =>
      grantedB (sAsk (.carveGet (fAsk (.int 10) (.int 0)))) c 1 10 (fAsk (.int 10) (.int 0)) false) ∧
    Met 0x281 (fTry (.int 1) (.int 2)) (sTry 3 (.acqt (fTry (.int 1) (.int 2)))) (fun c =>
      decideRequest (sTry 3 (.acqt (fTry (.int 1) (.int 2)))).begun c.b c.w 2 1 == .busy) ∧
    Met 0x281 (fTry (.int 1) (.int 2)) (sTry 1 (.acqt (fTry (.int 1) (.int 2)))) (fun c =>
      decideRequest (sTry 1 (.acqt (fTry (.int 1) (.int 2)))).begun c.b c.w 2 1 == .risky) ∧
    Met 0x281 (fTry (.int 63) (.int 0)) (sAsk (.acqt (fTry (.int 63) (.int 0)))) (fun c =>
      grantedB (sAsk (.acqt (fTry (.int 63) (.int 0)))) c 0 63 (fTry (.int 63) (.int 0)) true) ∧
    Met 0x285 (fTry (.int 10) (.int 1)) (sAsk (.carveTry (fTry (.int 10) (.int 1)))) (fun c =>
      grantedB (sAsk (.carveTry (fTry (.int 10) (.int 1)))) c 1 10 (fTry (.int 10) (.int 1)) true) := by
  and_intros <;> exact met (by decide +kernel)

def fCount (k : Operand) : Fields := plain .none .none k .none .none .none
def sSpare (i : Instr) : State := prep State.reset i (fun b => { b with ways := 2, spare0 := [[(0, 1)], [(0, 2)]] }) fun w => { w with claim := 78 }

theorem witness_releases :
    Met 0x282 (fAsk (.int 7) (.int 0)) (sAsk (.rel (fAsk (.int 7) (.int 0)))) (fun c => 7 < c.w.claim && !c.w.writesFrom c.clk (c.w.claim - 7)) ∧
    Met 0x282 (fAsk (.int 1) (.int 2)) (sAsk (.rel (fAsk (.int 1) (.int 2)))) (fun c => 1 ≤ c.b.mslots && c.b.queueEmpty) ∧
    Met 0x283 (fCount (.int 7)) (sAsk (.give (fCount (.int 7)))) (fun c => 7 < c.w.claim && !c.w.writesFrom c.clk (c.w.claim - 7)) ∧
    Met 0x284 (fCount (.int 2)) (sSpare (.claim (fCount (.int 2)))) (fun c => c.w.claim + 2 == 80 && 2 ≤ (c.b.spare c.w.half).length) ∧
    Met 0x285 (fAsk (.int 2) (.int 2)) (sSpare (.carvePut (fAsk (.int 2) (.int 2)))) (fun c => c.b.ways == 2 &&
      !mayTouch (sSpare (.carvePut (fAsk (.int 2) (.int 2)))).begun c.b) := by
  and_intros <;> exact met (by decide +kernel)

theorem witness_wholeClaim :
    Met 0x282 (fAsk (.int 8) (.int 0)) (sAsk (.rel (fAsk (.int 8) (.int 0)))) (fun c => c.w.claim == 8) ∧
    Met 0x283 (fCount (.int 8)) (sAsk (.give (fCount (.int 8)))) (fun c => c.w.claim == 8) := by
  and_intros <;> exact met (by decide +kernel)

def fOnce (a : Operand) : Fields := plain .none .none a .none .none .none

theorem witness_barriers :
    ([0, 8].all fun t => standsAnd 0x286 (fOnce (.int t)) (sAsk (.phase (fOnce (.int t)))) fun c => (t == 8 ||
      tV (lItpl (recordOf (sAsk (.phase (fOnce (.int t)))).begun c.b) t.val)) && lCb (recordOf (sAsk (.phase (fOnce (.int t)))).begun c.b) ≤ c.w.claim &&
      c.w.trap.isNone && (c.b.waves.all fun w => w.trap.isNone) && c.e.mask == c.w.live && c.b.barrier.isNone) = true ∧
    Met 0x287 f0 (placed (.bar f0)) (fun c => c.e.mask == c.w.live && c.b.barrier.isNone) ∧
    Met 0x300 f0 (placed (.gbar f0)) (fun c => c.e.mask == c.w.live && c.b.barrier.isNone) ∧
    Met 0x288 (fOnce (.v 63)) (sAsk (.regroup (fOnce (.v 63)))) (fun c => 63 < 8 * c.w.claim && c.e.mask == c.w.live && c.b.barrier.isNone) :=
  ⟨by decide +kernel, met (by decide +kernel), met (by decide +kernel), met (by decide +kernel)⟩

def sTen (i : Instr) : State := prep State.reset i
  (fun b => { b with ways := 1, mslots := 1, mend := some false, tenant := some (Tenant.new false 1) }) fun w =>
    { w with e2 := List.replicate 8 [], trap := some { lanes := 0xFFFFFFFF, frame := 0 } }
def tenB (i : Instr) (c : Ctx) : Bool := okB (needTenant (sTen i).begun c)
def fMinit (o : Operand) : Fields := plain .b32 .none (.int 56) (.int 8) o .none
def fMrda : Fields := plain .b32 (.v 632) (.int 63) (.int 8) .none .none
def fOvf : Fields := plain .b32 (.s 127) .none .none (.int 1) .none

theorem witness_matrixCommands :
    Met 0x2C1 (fOnce (.int 63)) (sTen (.mwld (fOnce (.int 63)))) (fun c => tenB (.mwld (fOnce (.int 63))) c &&
      offsetOperand c (.int 63) 32 true == some 2016 && okB (capture (sTen (.mwld (fOnce (.int 63)))).begun c 2016 32 32)) ∧
    Met 0x2C2 f0 (sTen (.mswap f0)) (tenB (.mswap f0)) ∧
    Met 0x2C3 (fOnce .zero) (sTen (.mrun (fOnce .zero))) (fun c => tenB (.mrun (fOnce .zero)) c &&
      okB (capture (sTen (.mrun (fOnce .zero))).begun c 0 64 64)) ∧
    Met 0x2C4 (fMinit .zero) (sTen (.minit (fMinit .zero))) (fun c => tenB (.minit (fMinit .zero)) c) ∧
    Met 0x2C4 (fMinit (.int 63)) (sTen (.minit (fMinit (.int 63)))) (fun c => tenB (.minit (fMinit (.int 63))) c &&
      okB (capture (sTen (.minit (fMinit (.int 63)))).begun c 8064 128 128)) ∧
    Met 0x2C5 fMrda (sTen (.mrda fMrda)) (fun c => tenB (.mrda fMrda) c && rangeOk c fMrda.op0 false false 8) ∧
    Met 0x2C5 fOvf (sTen (.mrdaOvf fOvf)) (tenB (.mrdaOvf fOvf)) ∧
    Met 0x2C6 f0 (sTen (.msync f0)) (fun c => tenB (.msync f0) c && c.b.queueEmpty) := by
  and_intros <;> exact met (by decide +kernel)

def fEnq (d a n : Operand) : Fields := plain .b32 d a n .none .none

/-- e1 and e2 hold `a` and `b` elements, and the entry has moved `d`. -/
def sMoving (i : Instr) (a b d : Nat) : State := (sTen i).mapWave 1 0 fun w => { w with
  e1 := List.replicate a [], e2 := List.replicate b [], frontier := w.frontier.map fun e => { e with done := d } }
def fEnq8 : Fields := fEnq (.e 1) (.v 632) (.int 8)
def fDeq8 : Fields := fEnq (.v 632) (.e 2) (.int 8)

/-- ENQ moves all its elements, some of them, or the rest; DEQ likewise. -/
theorem witness_matrixQueues :
    Met 0x2C7 (fEnq (.e 0) (.s 112) (.int 16)) (sTen (.enqE0 (fEnq (.e 0) (.s 112) (.int 16)))) (tenB (.enqE0 (fEnq (.e 0) (.s 112) (.int 16)))) ∧
    ([(8, 0), (9, 0), (15, 7)].all fun (x : Nat × Nat) => standsAnd 0x2C7 fEnq8 (sMoving (.enqE1 fEnq8) x.1 0 x.2) fun c => c.e.done < 8 &&
      c.w.e1.length < 16 && c.b.tenant.isSome && okB (enqElements (sMoving (.enqE1 fEnq8) x.1 0 x.2).begun c (.v 632) 8 (c.parts fEnq8))) = true ∧
    ([(8, 0), (1, 0), (3, 5)].all fun (x : Nat × Nat) => standsAnd 0x2C8 fDeq8 (sMoving (.deq fDeq8) 0 x.1 x.2) fun c => c.e.done < 8 &&
      !c.w.e2.isEmpty && c.b.tenant.isSome && rangeOk c (.v 632) false false 8) = true := by
  exact ⟨met (by decide +kernel), by decide +kernel, by decide +kernel⟩

def fMten (d : Operand) (op : Fin 64) : Fields := plain .none d (.s 4) (.int op) .none .none

theorem witness_tenantControl :
    ([(Operand.none, 0), (.none, 1), (.none, 2), (.s 6, 3)].all fun (x : Operand × Fin 64) =>
      standsAnd 0x2C0 (fMten x.1 x.2) (sTen (.mtenCtr (fMten x.1 x.2))) fun c => c.b.oid == 0 && c.w.trap.isSome &&
        (tenantAt (sTen (.mtenCtr (fMten x.1 x.2))).begun c false).isSome) = true ∧
    Met 0x2C0 (fMten (.s 6) 3) (sTen (.mtenCtr (fMten (.s 6) 3))) (fun c => rangeOk c (.s 6) true false 1) ∧
    Met 0x2C0 (fMten .none 2) (placed (.mtenReset (fMten .none 2))) (fun c => c.w.trap.isNone) :=
  ⟨by decide +kernel, met (by decide +kernel), met (by decide +kernel)⟩

/-- A launch record that passes every check stands at 0x9000. -/
def launchable (i : Instr) : State :=
  let s := limited (prep mapped i (fun b => { b with ways := 1 }) fun w => { w with s := [(4, 0x9000)] })
  { s with mem := s.mem ++ [(0x9018, 1), (0x901D, 0x20), (0x9020, 2), (0x9022, 0x20), (0x9040, 0x20), (0x9041, 0x10)] }
def fCpy (a n : Operand) : Fields := plain .none .none a n .none .none
def fLaunch : Fields := plain .none .none (.s 4) (.s 6) .ones .none
def fBlaze (key n : Operand) : Fields := plain .none .none key n (.int 7) .none
def fBlzq : Fields := plain .none (.s 2) .litLo .none .none .none

theorem witness_launches :
    Met 0x301 (fCpy (.int 63) .none) (launchable (.cpy (fCpy (.int 63) .none))) (fun c => c.w.e3.isEmpty &&
      okB (capture (launchable (.cpy (fCpy (.int 63) .none))).begun c 4032 64 64)) ∧
    Met 0x301 (fCpy (.s 112) (.int 16)) (launchable (.cpyS (fCpy (.s 112) (.int 16)))) (fun c => c.w.e3.isEmpty) ∧
    Met 0x302 fLaunch (launchable (.launch fLaunch)) (fun c => completionOperands c fLaunch == some (0, 0xFFFFFFFF) &&
      !pathStuck (launchable (.launch fLaunch)).begun c.b.die c.b.core &&
      poolRoom (releaseAt (launchable (.launch fLaunch)).begun c.b 5) 0 &&
      !recordHeld (releaseAt (launchable (.launch fLaunch)).begun c.b 5)
        (launchOf (releaseAt (launchable (.launch fLaunch)).begun c.b 5) c 0x9000 0 0xFFFFFFFF) &&
      match submit (releaseAt (launchable (.launch fLaunch)).begun c.b 5)
          (launchOf (releaseAt (launchable (.launch fLaunch)).begun c.b 5) c 0x9000 0 0xFFFFFFFF) none with
        | .ok (_, ok) => ok
        | .error _ => false) ∧
    Met 0x303 fLaunch (launchable (.grun fLaunch)) (fun c => addressOperand c (.s 4) == some 0x9000) ∧
    Met 0x304 (fBlaze (.int 0) .none) (launchable (.blaze (fBlaze (.int 0) .none))) (fun c =>
      okB (keyOperand (launchable (.blaze (fBlaze (.int 0) .none))).begun c (.int 0))) ∧
    Met 0x304 (fBlaze .litLo (.int 63)) (launchable (.blaze (fBlaze .litLo (.int 63)))) (fun c =>
      okB (keyOperand (launchable (.blaze (fBlaze .litLo (.int 63)))).begun c .litLo)) ∧
    Met 0x305 fBlzq (launchable (.blzq fBlzq)) (fun c => okB (keyOperand (launchable (.blzq fBlzq)).begun c .litLo)) ∧
    Met 0x306 (fOnce (.s 4)) (launchable (.blzdrop (fOnce (.s 4)))) (fun c => okB (keyOperand (launchable (.blzdrop (fOnce (.s 4)))).begun c (.s 4))) := by
  and_intros <;> exact met (by decide +kernel)

/-- Owner 0 has a layer of one pixel on display 0: its record stands at 0xA000 with its back surface at 0xB000, and it holds that pixel. -/
def screen : State :=
  { mapped with
    mem := [(0, 1), (1, 0x80), (0x8000, 0x3F), (0xA028, 1), (0xA02A, 1), (0xA02C, 0x40), (0xA071, 0xB0), (0x10001, 0xA0), (0x20001, 0x10)]
    dcb := mapped.dcb.take 5 ++ [(0x18003, 0x20000), (0x18005, 0x10000)] ++ mapped.dcb.drop 5 }
def fPxst : Fields := plain .f32 .none (.s 2) (.v 8) (.int 0) (.int 1)
def fPxld : Fields := plain .b32 (.v 8) (.v 2) (.int 0) .none .none

theorem witness_pixels :
    Met 0x340 fPxst (prep screen (.pxst fPxst) id id) (fun c =>
      match c.layerRecord (prep screen (.pxst fPxst) id id).begun 0 with
      | .ok (some y) => pxstTarget (prep screen (.pxst fPxst) id id).begun 0 0 (some y) 0 == some 0xB000 && !widthBad .f32 (some y) &&
        pixelRange c .f32 (.v 8) == some 8 &&
        okB (checkAccesses (prep screen (.pxst fPxst) id id).begun c false (pixelAccesses (c.parts fPxst) (fun _ => some 0xB000) rwN) 4 false)
      | _ => false) ∧
    Met 0x341 fPxld (prep screen (.pxld fPxld) id id) (fun c =>
      match c.layerRecord (prep screen (.pxld fPxld) id id).begun 0 with
      | .ok (some y) => pxldTarget (some y) 0 == some 0xB000 && !widthBad .b32 (some y) &&
        okB (checkAccesses (prep screen (.pxld fPxld) id id).begun c false (pixelAccesses (c.parts fPxld) (fun _ => some 0xB000) rdN) 4 false)
      | _ => false) := by
  and_intros <;> exact met (by decide +kernel)

def fTex (g : Operand) : Fields := plain .f32 (.v 8) (.v 2) (.s 16) g .none
/-- s16 to s23 hold a descriptor of one texel at 0x9000. -/
def sTex (i : Instr) : State := prep mapped i (fun b => { b with ways := 1 }) fun w => { w with s := [(16, 0x9000)] }
def fRast : Fields := plain .f32 .none (.v 2) (.v 12) (.s 4) .none

theorem witness_sampling :
    Met 0x342 (fTex .zero) (sTex (.tex (fTex .zero))) (fun c => texRegs c (fTex .zero) == some 2 && descriptor c (.s 16) == some 0x9000 &&
      !descriptorBad 0x9000 && okB (readRaw (sTex (.tex (fTex .zero))).begun c c.w .zero .f32 false (c.parts (fTex .zero))) &&
      okB (checkAccesses (sTex (.tex (fTex .zero))).begun c false
        (texelAccesses (sTex (.tex (fTex .zero))).begun c 0x9000 (c.parts (fTex .zero)) (laneTexels c 0x9000 2 fun _ => 0)) (xSize 0x9000) false)) ∧
    Met 0x343 (fTex (.v 636)) (sTex (.texf (fTex (.v 636)))) (fun c => 636 + 4 ≤ 8 * c.w.claim && texRegs c (fTex (.v 636)) == some 2 &&
      okB (checkAccesses (sTex (.texf (fTex (.v 636)))).begun c false (texelAccesses (sTex (.texf (fTex (.v 636)))).begun c 0x9000
        (c.parts (fTex (.v 636))) (laneTexels c 0x9000 2 fun k => texfLevel 0x9000 (lanePx c 636 k))) (xSize 0x9000) false)) ∧
    Met 0x344 fRast (reach (.rast fRast) 0) (fun c => 2 + 9 ≤ 8 * c.w.claim && 8192 ≤ c.b.z &&
      okB (readRaw (reach (.rast fRast) 0).begun c c.w fRast.op2 .b32 false (c.parts fRast)) &&
      okB (fillRanges (reach (.rast fRast) 0).begun c.b c.ref.wave true [(0, 8192)]) && !pathStuck (reach (.rast fRast) 0).begun c.b.die c.b.core &&
      !tileFlips (reach (.rast fRast) 0).begun c.b c.ref.wave 0) := by
  and_intros <;> exact met (by decide +kernel)

def fTrap : Fields := plain .none .none (.int 63) .none .none .none
def never (f : Fields) : Fields := { f with ga := 1 }
def sTrap (base : State) (i : Instr) (t : Option TrapSt) : State := prep base i id fun w => { w with trap := t }
def inTrap (l : W32) : Option TrapSt := some { lanes := l, frame := 0 }

theorem witness_trapEntry :
    Met 0x380 (never fTrap) (placed (.trap (never fTrap))) (fun c => c.parts (never fTrap) == 0) ∧
    Met 0x383 (never fTrap) (placed (.brkp (never fTrap))) (fun c => c.parts (never fTrap) == 0) ∧
    Met 0x380 fTrap (sTrap mapped (.trap fTrap) none) (fun c => freeFrame? (sTrap mapped (.trap fTrap) none).begun 0 == some 0 &&
      !frameHeld (sTrap mapped (.trap fTrap) none).begun 0 0 true &&
      (pinWrite (sTrap mapped (.trap fTrap) none).begun 0 0x1000 (frameBytes c 0 63 (c.parts fTrap) (16 * c.e.nextHdr.toNat))).isSome) ∧
    Met 0x383 fTrap (sTrap mapped (.brkp fTrap) none) (fun c => (sTrap mapped (.brkp fTrap) none).begun.ctxDbg 0 && !frameHeld (sTrap mapped (.brkp fTrap) none).begun 0 0 true &&
      (pinWrite (sTrap mapped (.brkp fTrap) none).begun 0 0x1000 (frameBytes c 1 63 (c.parts fTrap) (16 * c.e.nextHdr.toNat))).isSome) := by
  and_intros <;> exact met (by decide +kernel)

theorem witness_trapsRefused :
    Met 0x380 fTrap (sTrap mapped (.trap fTrap) (inTrap 1)) (fun c => c.parts fTrap != 0 && c.w.trap.isSome) ∧
    Met 0x383 fTrap (sTrap mapped (.brkp fTrap) (inTrap 1)) (fun c => c.parts fTrap != 0 && c.w.trap.isSome) ∧
    Met 0x380 fTrap (placed (.trap fTrap)) (fun c => (placed (.trap fTrap)).begun.ctxTslog c.b.oid == 0) ∧
    Met 0x383 fTrap (placed (.brkp fTrap)) (fun c => !(placed (.brkp fTrap)).begun.ctxDbg c.b.oid) ∧
    Met 0x383 fTrap (placed (.brkp fTrap)) (fun c => (placed (.brkp fTrap)).begun.ctxTslog c.b.oid == 0) := by
  and_intros <;> exact met (by decide +kernel)

/-- RTT's hypotheses where lanes of the trap set return: `left` of it stay. -/
def returnB (s : State) (c : Ctx) (left : W32) : Bool :=
  match frameRead s c.b 0, pinWrite s 0 0x103C (bytesLE 4 left.toNat) with
  | some l, some u => natLE ((l.drop 0x38).take 4) % 8 < 5 && okB (leaveTrap (u.mapWave 1 0 fun w => replaceEntry w c.ref.lane
      [returnEntry u c f0 (c.parts f0) (natLE ((l.drop 0x20).take 8)), fallEntry s c f0 (c.e.mask &&& ~~~c.parts f0)]) w0 0 (c.parts f0))
  | _, _ => false

theorem witness_trapReturn :
    Met 0x382 (never f0) (sTrap mapped (.rtt (never f0)) (inTrap 1)) (fun c => c.parts (never f0) == 0) ∧
    Met 0x382 f0 (sTrap mapped (.rtt f0) (inTrap 0xFFFFFFFF)) (fun c => c.parts f0 == 0xFFFFFFFF &&
      !frameHeld (sTrap mapped (.rtt f0) (inTrap 0xFFFFFFFF)).begun 0 0 true && returnB (sTrap mapped (.rtt f0) (inTrap 0xFFFFFFFF)).begun c 0) := by
  and_intros <;> exact met (by decide +kernel)

def fSvc : Fields := plain .none .none (.int 7) (.v 624) (.int 16) (.int 4)

/-- Of p1 lane 31 alone is 1. -/
def sSvc (i : Instr) : State := prep mapped i id fun w => { w with p := [(1, 0x80000000)] }

theorem witness_service :
    Met 0x381 (never fSvc) (placed (.svc (never fSvc))) (fun c => c.parts (never fSvc) == 0 && serviceOperand c fSvc.op1 == some 7) ∧
    Met 0x381 (never fSvc) (sSvc (.svc (never fSvc))) (fun c =>
      let s := (sSvc (.svc (never fSvc))).begun
      c.parts (never fSvc) == 0x80000000 && 624 + 16 ≤ 8 * c.w.claim && s.ctxSrlog 0 == 1 && c.w.svc.isEmpty && !pathStuck s c.b.die c.b.core &&
      !pinsHeld s 0 [(0x2000, 4), (0x2080, 4)] false && pinRead s 0 0x2000 4 == some [0, 0, 0, 0] && pinRead s 0 0x2080 4 == some [0, 0, 0, 0] &&
      match pinWrites 0 [(svcArgs s 0 0 + 64 * 31, argBlock c 624 16 31), (svcHeader s 0 0, svcHeaderBytes s c 7 4 0 0x80000000)] s with
      | some t => (pinWrite (releaseAt t c.b 7) 0 0x2000 (bytesLE 4 1)).isSome
      | none => false) := by
  and_intros <;> exact met (by decide +kernel)

/-! ## Witnesses of events -/

def onWave (s : State) (p : Block → Wave → Bool) : Bool :=
  match s.wave? w0 with
  | some (b, v) => p b v
  | none => false

/-- `mapped` with the translations of 512 KiB in the TLB that serves the hardware's own accesses. -/
def quick : State :=
  { mapped with tlb := [0, 1, 2, 3, 4, 5, 6, 7].map fun n =>
      { die := 0, grove := 256, core := 0, oid := 0, glade := 0, vpn := n, leaf := 0x3F, level := 2, frameOk := true, tag := (0, 0) } }

def nop1 (h : Block → Block) (g : Wave → Wave) : State := prep mapped (.nop f0) h g
def op1 (x : Option Rast) : LongOp :=
  { id := 5, access := true, raises := false, flag := some 0, ready := true, due := 0, writes := [{ reg := .v 1, mask := 1, vals := [7] }], qtags := [], sticky := 0, ovr := [],
    rast := x, remote := none }
def onEntry (g : Entry → Entry) (w : Wave) : Wave := { w with frontier := w.frontier.map g }

def sOpen : State := nop1 id (onEntry fun e => { e with opn := false })
def sOp (x : Option Rast) : State := nop1 (fun b => { b with ways := 1 }) fun w => { w with ops := [op1 x] }
def noRast : Rast := { tile := 0, ox := 0, oy := 0, tris := [], words := [] }
def sFlight : State := nop1 id fun w => { w with flights := [{ due := 0, value := 9, seq := 0, raises := false, sticky := 0, op := 3 }] }
def sEnded : State := nop1 id fun w => { w with frontier := [] }
def sEndedOfTwo : State := nop1 (fun b => { b with waves := b.waves ++ b.waves.map fun w => { w with wave := 1 } }) fun w => { w with frontier := [] }
/-- Lanes 0 to 31 wait for a 4 B element of the stash to hold `v`, or for clk 0. -/
def sWatch (v : Nat) : State := nop1 (fun b => { b with ways := 1 }) (onEntry fun e => { e with
  opn := false, park := 13, watch := [{ mask := 0xFFFFFFFF, stash := true, size := 4, eq := true, acq := false, lanes := [(0, 0, v)], issued := 0, deadline := some 0, dst := .p 1 }] })
def sRacq (i : Instr) : State := prep mapped i id fun w => onEntry (fun e => { e with hold := .racq [{ line := 1, promoted := some 3 }] }) { w with s := [(4, 0x9000)] }
def fRacq : Fields := { plain .n32 (.v 8) (.s 4) .zero (.v 2) (.int 0) with sm1 := 0x2C }
def svc1 : SvcReq := { oid := 0, slot := 0, launch := 0, blk := 1, wave := 0, lmask := 1, nret := 1, landed := true, given := 0 }
def sReply (n : Nat) : State := { prep quick (.nop f0) id (fun w => { w with svc := [0], e7 := List.replicate 7 { mask := 0, vals := [] } }) with svcs := [{ svc1 with nret := n }] }
def decodes (i : Instr) (w : Option W128) : Bool := match w.map decode with
  | some (.ok j) => decide (j = i)
  | _ => false

theorem witness_waveEvents :
    onWave sOpen (fun b v => b.halt != .halted && !v.ended && !(v.frontier.any fun e => e.opn) &&
      v.frontier.any fun e => v.mayOpen e && !fetchHeld sOpen b e) = true ∧
    onWave (sOp none) (fun _ v => (v.ops.find? fun o => o.id == 5) == some (op1 none)) = true ∧
    onWave (sOp (some noRast)) (fun _ v => (v.ops.find? fun o => o.id == 5) == some (op1 (some noRast)) &&
      !commandWaits (sOp (some noRast)) 5) = true ∧
    onWave (sOp (some noRast)) (fun b _ => !earlierRast (sOp (some noRast)) b 5) = true ∧
    onWave sFlight (fun _ v => v.flights.length == 1) = true ∧
    onWave sEnded (fun b v => v.live == 0 && waveWorkDone sEnded b v && (b.waves.all fun x => x.ended || x.wave == 0) && b.queueEmpty &&
      !pathStuck sEnded b.die b.core && sEnded.copies.all fun c => c.blk != 1) = true ∧
    onWave sEndedOfTwo (fun b v => v.live == 0 && waveWorkDone sEndedOfTwo b v && !b.waves.all fun x => x.ended || x.wave == 0) = true ∧
    onWave (sWatch 0) (fun b v => match (v.entry? 31).bind fun x => x.watchOf 31 with
      | some t => !watchHeld (sWatch 0) b 0 t && (satisfied (sWatch 0) (b.seenBy 0) t).getLsbD 0
      | none => false) = true ∧
    onWave (sWatch 1) (fun _ v => (v.entry? 0).any fun x => x.park == 13) = true ∧
    onWave (sRacq (.atomr fRacq)) (fun _ v => (v.entry? 0).any fun x => decodes (.atomr fRacq) x.word &&
      (ctxOf { (sRacq (.atomr fRacq)).mapEntry r0 (fun x => { x with hold := .none }) with cur := some r0 }).isSome) = true ∧
    onWave (sRacq (.fence fFenceR)) (fun _ v => (v.entry? 0).any fun x => decodes (.fence fFenceR) x.word) = true ∧
    onWave (sReply 1) (fun b v => b.halt != .halted && v.e7.length < 8 && !pinsHeld (sReply 1) 0 [(0x4000, 2048)] false &&
      (pinRead (sReply 1) 0 0x4000 2048).isSome) = true ∧
    onWave (sReply 4) (fun _ v => 0 + min 4 (8 - v.e7.length) < 4) = true := by
  and_intros <;> decide +kernel

def reg1 (kind count : Nat) : Request :=
  { die := 0, core := 0, blk := 1, wave := 0, lane := 0, kind := kind, count := count, clk := 0, half := 0, second := false, due := true }
def sReq (kind count : Nat) : State := { sAsk (.nop f0) with requests := [reg1 kind count] }
def sSpared : State := { sSpare (.nop f0) with requests := [reg1 3 2] }
def sSlots : State := sAsk (.nop f0) |>.mapBlock 1 fun b => { b with mslots := 2 }
def sPromote : State := { sRacq (.atomr fRacq) with rels := [{ line := 1, blk := 1, num := 0 }] } |>.mapBlock 1 fun b => b.mapWave 0 (onEntry fun e =>
  { e with hold := .racq [{ line := 1, promoted := none }] })
/-- A held ACQ of slots whose tenant's queue has run empty. -/
def sHeld : State := sAsk (.nop f0) |>.mapBlock 1 fun b => b.mapWave 0 (onEntry fun e => { e with hold := .slots })
def sGang : State := { placed (.gbar f0) with gangs :=
  [{ uid := 4, launch := 0, num := 0, members := [1], ended := [], kind := some .gbar, addr := 16, arrived := [1] }] }

theorem witness_grantEvents :
    ((sSpared.requests.find? fun r => r.die == 0 && r.core == 0 && r.test sSpared) == some (reg1 3 2) &&
      (reg1 3 2).verdict sSpared == .granted) = true ∧
    ([(0, 63), (1, 10), (2, 3)].all fun p => (reg1 p.1 p.2).verdict (sReq p.1 p.2) == .granted &&
      !slotsPending (giveUnits { sReq p.1 p.2 with requests := [] } 1 0 p.1 p.2) 1 p.1) = true ∧
    (reg1 0 73).verdict (sReq 0 73) = .protocol ∧ (reg1 2 1).verdict (sTry 3 (.nop f0)) = .busy ∧
    (sHeld.block? 1).any (fun b => b.queueEmpty && b.slotsNow == b.mslots && b.waves.any fun w => w.frontier.any fun e => e.hold == .slots) = true ∧ (ctxAt (sReq 0 73) r0).isSome = true ∧
    (sSlots.block? 1).any (fun b => b.queueEmpty && b.slotsNow != b.mslots) = true ∧
    ((placed (.nop f0)).mapBlock 1 fun b => { b with halt := .asked }).block? 1 ≠ none ∧
    onWave sPromote (fun _ v => (v.entry? 0).any fun x => x.hold == .racq [{ line := 1, promoted := none }]) = true ∧
    sPromote.rels.any (fun y => y.line == 1 && y.blk == 1) = true ∧ pathStuck sPromote 0 0 = false ∧
    (sGang.gang? 4).any (fun g => g.kind == some .gbar && gangDone sGang g && g.arrived.all fun m => g.ended.contains m || (sGang.block? m).isSome) = true := by
  decide +kernel

/-- The block's launch has its record, and its save areas, at 0x9000. -/
def homed (s : State) : State := { s with launches := s.launches.map fun l => { l with record := BitVec.ofNat 2048 (0x9000 * 2 ^ 128) } }
def bar1 (kind : BarKind) : Barrier := { kind := kind, addr := 16, arrived := [0], tmpl := 8, full := true, key := .v 1 }
def small (w : Wave) : Wave := { w with claim := 1 }
def sPhase : State := homed (prep quick (.nop f0) (fun b => { b with barrier := some (bar1 .phase) }) small)
def sUnmapped : State := homed (prep State.reset (.nop f0) (fun b => { b with barrier := some (bar1 .phase) }) small)
def sRegroup (two : Bool) : State := nop1 (fun b => { b with
  barrier := some (bar1 .regroup), waves := b.waves ++ b.waves.map fun w => { w with wave := 1, claim := if two then 7 else 8 } }) lean8
def sParked : State := homed (prep quick (.nop f0) id fun w => onEntry (fun e => { e with park := 15, opn := false }) (small w))
/-- Owner 0 has two save slots, from address 0. -/
def saving (s : State) : State := { s with dcb := (0x8000, 0x1140C00000000000) :: s.dcb.drop 1 }
def sSave : State := saving (homed (prep quick (.nop f0) (fun b => { b with halt := .halted }) fun w => onEntry (fun e => { e with opn := false }) (small w)))

def theBlock (s : State) : Block := (s.block? 1).getD (oneBlock s 0 0 0)
def theLaunch (s : State) : Launch := (s.launch? 0).getD (oneLaunch 0)
def thePhase (s : State) : Phase := (s.phase? 1).getD (newPhase 0 (oneLaunch 0) 0 none)
/-- The block, its launch and its phase are there. -/
def There (s : State) : Prop :=
  s.block? 1 = some (theBlock s) ∧ s.launch? (theBlock s).launch = some (theLaunch s) ∧ s.phase? 1 = some (thePhase s)

/-- Each structure of a list can be written in a state whose TLB holds its lines. -/
def writable (s : State) (l : List (Nat × List Byte)) : Bool :=
  l.all fun p => rangeInTlb s (s.hw 0) p.1 p.2.length &&
    (rangeKeys s (s.hw 0) { rd := false, wr := true, pin := true } p.1 p.2.length).toOption.isSome

theorem written {s t : State} {l : List (Nat × List Byte)} (h : t.ways = s.ways) (ok : writable s l = true) :
    ∃ u, pinWrites 0 l t = some u ∧ u.ways = s.ways :=
  pinWrites_of_ways l h fun p hp => by
    have := List.all_eq_true.1 ok p hp
    simpa [Bool.and_eq_true] using this

def phaseEndPhase (s : State) : Phase :=
  { thePhase s with
    reason := 0, ntile := 8, phno := (thePhase s).phno + 1, wlive := liveBits ((theBlock s).liveWaves.map (afterPhase s (theBlock s))),
    fresh := false, kept := Kept.empty }

theorem witness_phaseEnd : phaseMates sPhase 1 = [1] ∧ There sPhase ∧ (theBlock sPhase).barrier = some (bar1 .phase) ∧
    (theBlock sPhase).halt ≠ .halted ∧ workDone sPhase (theBlock sPhase) = true ∧
    pathStuck sPhase (theBlock sPhase).die (theBlock sPhase).core = false ∧
    ∃ t, pinWrites 0 (savedParts sPhase (theLaunch sPhase) (phaseEndPhase sPhase)
      ((theBlock sPhase).liveWaves.map (afterPhase sPhase (theBlock sPhase))) .running 0) (releaseAt sPhase (theBlock sPhase) 5) = some t := by
  refine ⟨by decide +kernel, ⟨by decide +kernel, by decide +kernel, by decide +kernel⟩, by decide +kernel, by decide +kernel, by decide +kernel,
    by decide +kernel, ?_⟩
  obtain ⟨u, hu, -⟩ := written (s := quick) (t := releaseAt sPhase (theBlock sPhase) 5)
    (l := savedParts sPhase (theLaunch sPhase) (phaseEndPhase sPhase)
      ((theBlock sPhase).liveWaves.map (afterPhase sPhase (theBlock sPhase))) .running 0) (by decide +kernel) (by decide +kernel)
  exact ⟨u, hu⟩

/-- Nothing can be written where the owner has no page. -/
theorem witness_phaseEndUnwritten : There sUnmapped ∧ (theBlock sUnmapped).barrier = some (bar1 .phase) ∧
    pinWrites 0 (savedParts sUnmapped (theLaunch sUnmapped) (phaseEndPhase sUnmapped)
      ((theBlock sUnmapped).liveWaves.map (afterPhase sUnmapped (theBlock sUnmapped))) .running 0)
      (releaseAt sUnmapped (theBlock sUnmapped) 5) = none := by
  refine ⟨⟨by decide +kernel, by decide +kernel, by decide +kernel⟩, by decide +kernel, by decide +kernel⟩

theorem witness_regroup :
    There (sRegroup true) ∧ (theBlock (sRegroup true)).barrier = some (bar1 .regroup) ∧ ((theBlock (sRegroup true)).liveWaves.map fun w => w.claim) = [8, 7] ∧
    There (sRegroup false) ∧ ((theBlock (sRegroup false)).liveWaves.map fun w => (w.claim, w.ops, w.recent)) = [(8, [], []), (8, [], [])] ∧
    ((theBlock (sRegroup true)).liveWaves.any fun w => leaveHeld (sRegroup true) w 0 0xFFFFFFFF) = false ∧
    ((theBlock (sRegroup false)).liveWaves.any fun w => leaveHeld (sRegroup false) w 0 0xFFFFFFFF) = false :=
  ⟨⟨by decide +kernel, by decide +kernel, by decide +kernel⟩, by decide +kernel, by decide +kernel, ⟨by decide +kernel, by decide +kernel, by decide +kernel⟩,
    by decide +kernel, by decide +kernel, by decide +kernel⟩

/-- The phase that the pool keeps of a block saved with the reason, nothing kept. -/
def savedPhase (s : State) (reason : Nat) (k : Kept) : Phase :=
  { thePhase s with reason := reason, wlive := liveBits ((theBlock s).liveWaves.map (savedWave s (theBlock s))), fresh := false, kept := k }

theorem witness_blockPark : There sParked ∧
    (((theBlock sParked).waves.flatMap fun w => w.frontier).all fun e => e.park != 0 || e.hold == .barrier) = true ∧
    (((theBlock sParked).waves.flatMap fun w => w.frontier).any fun e => e.park == 15) = true ∧ (theBlock sParked).halt ≠ .halted ∧
    workDone sParked (theBlock sParked) = true ∧ pathStuck sParked 0 0 = false ∧ ((theBlock sParked).waves.all fun w => w.queuesEmpty) = true ∧
    pushing sParked 1 = false ∧
    ∃ t, pinWrites 0 (trapParts sParked (theBlock sParked) ++ savedParts sParked (theLaunch sParked)
      (savedPhase sParked 2 { Kept.empty with frames := [], barrier := none })
        ((theBlock sParked).liveWaves.map (savedWave sParked (theBlock sParked))) .running (xsaveOf (theBlock sParked) 0))
      (releaseAt sParked (theBlock sParked) 5) = some t := by
  refine ⟨⟨by decide +kernel, by decide +kernel, by decide +kernel⟩, by decide +kernel, by decide +kernel, by decide +kernel, by decide +kernel,
    by decide +kernel, by decide +kernel, by decide +kernel, ?_⟩
  obtain ⟨u, hu, -⟩ := written (s := quick) (t := releaseAt sParked (theBlock sParked) 5)
    (l := trapParts sParked (theBlock sParked) ++ savedParts sParked (theLaunch sParked)
      (savedPhase sParked 2 { Kept.empty with frames := [], barrier := none })
        ((theBlock sParked).liveWaves.map (savedWave sParked (theBlock sParked))) .running (xsaveOf (theBlock sParked) 0))
    (by decide +kernel) (by decide +kernel)
  exact ⟨u, hu⟩

theorem witness_preemptSave : There sSave ∧ freeSave? sSave (theBlock sSave).oid = some 0 ∧ readyToSave (theBlock sSave) = true ∧
    canSave sSave (theBlock sSave).oid = true ∧ pathStuck sSave 0 0 = false ∧ ∃ t,
      pinWrites 0 (((slotParts (releaseAt sSave (theBlock sSave) 5) (theBlock sSave)
        ((theBlock sSave).liveWaves.map (savedWave sSave (theBlock sSave))) []).map fun q => (0 + q.1, q.2)) ++ trapParts sSave (theBlock sSave) ++
        savedParts sSave (theLaunch sSave) (savedPhase sSave 1 (keptOf (theBlock sSave)
          ((theBlock sSave).liveWaves.map (savedWave sSave (theBlock sSave))) [] 0))
          ((theBlock sSave).liveWaves.map (savedWave sSave (theBlock sSave))) .ready (xsaveOf (theBlock sSave) 0))
        (releaseAt sSave (theBlock sSave) 5) = some t := by
  refine ⟨⟨by decide +kernel, by decide +kernel, by decide +kernel⟩, by decide +kernel, by decide +kernel, by decide +kernel, by decide +kernel, ?_⟩
  obtain ⟨t, ht, -⟩ := written (s := saving quick) (t := releaseAt sSave (theBlock sSave) 5)
    (l := ((slotParts (releaseAt sSave (theBlock sSave) 5) (theBlock sSave)
        ((theBlock sSave).liveWaves.map (savedWave sSave (theBlock sSave))) []).map fun q => (0 + q.1, q.2)) ++ trapParts sSave (theBlock sSave) ++
        savedParts sSave (theLaunch sSave) (savedPhase sSave 1 (keptOf (theBlock sSave)
          ((theBlock sSave).liveWaves.map (savedWave sSave (theBlock sSave))) [] 0))
          ((theBlock sSave).liveWaves.map (savedWave sSave (theBlock sSave))) .ready (xsaveOf (theBlock sSave) 0)) (by decide +kernel) (by decide +kernel)
  exact ⟨t, ht⟩

/-! Engines -/

def cmd1 (kind : MKind) (bytes start count row : Nat) : MCmd :=
  { id := 9, kind := kind, data := List.replicate bytes 0, row := row, start := start, count := count, wave := 0, mask := 1, hdr := 0, idx := 0, acts := [],
    op := none }
/-- The tenant's queue holds one command; the active plane is loaded. -/
def sCmd (q : MCmd) : State := nop1 (fun b => { b with ways := 1, mslots := 1, tenant := some { Tenant.new false 1 with
  queue := [q], p0 := { Plane.empty with loaded := true } } }) id
def headB (s : State) (kind : MKind) (p : Block → Tenant → MCmd → Bool) : Bool :=
  match headCmd s 1 kind with
  | some (b, t, q) => p b t q
  | none => false
def badCmd : MCmd := { cmd1 .mwld 0 0 0 0 with data := List.replicate 32 255 }
/-- An MRUN that has begun runs to row `n`, with room in e2 for `free` rows. -/
def runsTo (data free n : Nat) : Bool :=
  let s := (sCmd { cmd1 .mrun 0 0 0 0 with data := bytesLE 64 data }).mapWave 1 0 fun w => { w with e2 := List.replicate (16 - free) [] }
  headB s .mrun fun b t q => mrunCheck (natLE q.data) t b.z == none && match mrunFills s b t q with
    | .ok s0 =>
      let acts := stashRows s0 b q.wave (natLE q.data) (rK (natLE q.data) (8 * t.slots) t.activePlane.sparse) q.row
      let r := mrunRows 1 (if q.acts = [] then { q with acts := acts } else q) (natLE q.data) (rM (natLE q.data) - q.row) q.row s0
      r.1 == n && (r.2.block? 1).any fun b => b.tenant.isSome
    | .error _ => false
def badRun : MCmd := { cmd1 .mrun 0 0 0 0 with data := List.replicate 64 255 }

theorem witness_matrixEvents :
    headB (sCmd badCmd) .mwld (fun b t q => mwldCheck (natLE q.data) (8 * t.slots) b.z == some 2) = true ∧
    headB (sCmd (cmd1 .mwld 32 0 0 0)) .mwld (fun b t q => mwldCheck (natLE q.data) (8 * t.slots) b.z == none) = true ∧
    headB (sCmd (cmd1 .mswap 0 0 0 0)) .mswap (fun _ _ _ => true) = true ∧
    headB (sCmd (cmd1 .minit 0 0 129 0)) .minit (fun _ t q => q.count != 0 && 128 * t.slots < q.start + q.count) = true ∧
    headB (sCmd (cmd1 .minit 0 0 128 0)) .minit (fun _ t q => q.start + q.count ≤ 128 * t.slots) = true ∧
    headB (sCmd (cmd1 .ovf 0 0 0 0)) .ovf (fun _ _ _ => true) = true ∧
    headB (sCmd (cmd1 .mrda 0 127 2 0)) .mrda (fun _ t q => 128 * t.slots < q.start + q.count) = true ∧
    headB (sCmd (cmd1 .mrda 0 127 1 0)) .mrda (fun _ t q => q.start + q.count ≤ 128 * t.slots) = true ∧
    headB (sCmd badRun) .mrun (fun b t q => (mrunCheck (natLE q.data) t b.z).isSome) = true ∧
    (rM 0 = 1 ∧ runsTo 0 16 1 = true) ∧ (rM (1 + 2 ^ 115) = 2 ∧ runsTo (1 + 2 ^ 115) 1 1 = true) := by
  and_intros <;> decide +kernel

/-- A fill of 4 B of the stash with scope 2 and a status word, or a copy record that fails its checks. -/
def fill4 : Nat := 4 * 2 ^ 192 + 2 ^ 352 + 2 ^ 384 + 2 ^ 389 + 2 ^ 392 + 2 * 2 ^ 393
def copy1 (r : Nat) (done : Bool) : Copy :=
  { id := 9, blk := 1, wave := 0, mask := 1, hdr := 0, idx := 0, record := BitVec.ofNat 512 r, row := 0, byte := 0, begun := false, payload := done, pf := none, saved := [] }
def sCopy (r : Nat) (done : Bool) : State := { nop1 (fun b => { b with ways := 1 }) id with copies := [copy1 r done] }
def copyB (s : State) (p : Block → Bool) : Bool := (s.block? 1).any fun b => b.halt != .halted &&
  !(s.copies.any fun x => x.id < 9 && x.blk == 1 && x.wave == 0 && !x.payload) && !commandWaits s 9 && s.flips.isEmpty && p b
def sPub : State := { nop1 id id with pubs := [{ id := 9, oid := 0, key := 5, gen := 0, count := 1, blk := 1, launch := 0, wave := 0, mask := 1, hdr := 0, idx := 0, op := none }] }

theorem witness_copyEvents :
    copyB (sCopy 0 false) (fun b => (copyCheck 0 b.z).isSome) = true ∧
    copyB (sCopy fill4 false) (fun b => (copyCheck fill4 b.z).isNone &&
      copyTurn (sCopy fill4 false) b (copy1 fill4 false) &&
      let s0 := copyTaken (sCopy fill4 false) b (copy1 fill4 false)
      match moveRows 1 0 9 fill4 (copySaved s0 b (copy1 fill4 false)) (copyOverlap s0 b fill4) (cRows fill4) 0 0 s0 with
      | .done s1 => okB (copyWord s1 b (copy1 fill4 false))
      | _ => false) = true ∧
    onWave (sCopy fill4 true) (fun _ w => w.e4.length < 8 && !((sCopy fill4 true).copies.any fun x => x.id < 9)) = true ∧
    (let s := { sCopy fill4 true with copies := [{ copy1 fill4 true with wave := 7 }] }
     s.wave? { blk := 1, wave := 7 } = none ∧ (s.block? 1).isSome = true) ∧
    (sPub.pubs.find? fun p => p.id == 9).isSome = true := by
  and_intros <;> decide +kernel

/-- R224: rows of 4 B move down by one row in the stash. The source bytes 4 to 7, which the command writes over, are taken first. -/
theorem test_copy_reads_before_it_writes :
    (let r := 4 * 2 ^ 64 + 4 * 2 ^ 192 + 4 * 2 ^ 224 + 4 * 2 ^ 256 + 2 ^ 288 + 3 * 2 ^ 388 + 2 * 2 ^ 393
     let s : State := { nop1 (fun b => { b with ways := 1, stash := [(0, 7), (4, 9)] }) id with copies := [copy1 r false] }
     (s.block? 1).map fun b => copySaved s b (copy1 r false)) = some [(some 1, 4, 9), (some 1, 5, 0), (some 1, 6, 0), (some 1, 7, 0)] := by
  decide +kernel

/-- FIPS 202: the first bytes of SHAKE256 of the empty message. -/
theorem test_shake256 : shake256 8 [] = [0x46, 0xB9, 0xDD, 0x2B, 0x0B, 0xA8, 0x8D, 0x13] := by decide +kernel

/-- R94: tanh 50 lies just below 1, where the gap is 2^-24: a result 4 gaps off is not kept, one 2 gaps off is. -/
theorem test_tanh_bound :
    (let t := tanhMag 50 0
     near2 (fmtOf .f32) 0x3F7FFFFC t.1 t.2 = 0x3F800000 ∧ near2 (fmtOf .f32) 0x3F7FFFFE t.1 t.2 = 0x3F7FFFFE) := by decide +kernel

/-! The memory system -/

def ent (h : Holder) (st : Moesi) (dirty : BitVec 4) : DirEnt := { line := 0x120, holder := h, st := st, dirty := dirty, valid := 15, tag := (0, 0) }
def sDir : State := { mapped with dir := [ent (.l1 0 0) .modified 1] }
def store1 (key : Nat) : Pending :=
  { die := 0, core := 0, blk := 1, wave := 0, oid := 0, glade := 0, key := key, bytes := [1, 2], va := key, hdr := 0, idx := 0, mask := 1, hint := 0, disp := none }
def sPath (key : Nat) : State := { nop1 id id with path := [store1 key] }
def pf1 : PageFault := { id := 5, oid := 0, glade := 0, va := 0x9000, who := .entry r0, lanes := 1 }
def sFault : State := { nop1 id (onEntry fun e => { e with hold := .page 5 }) with pfs := [pf1] }
def flipping (pend : Bool) (hb : Bool) : Sparse Frame := [(0, { v := true, lin := false, hb := hb, pend := pend, oid := 0 })]
def sFlip : State := { mapped with frames := flipping true false, flips := [(0, true, 3)] }

theorem witness_memoryEvents :
    (holderOk mapped 0x120 (.l1 3 191) && (mapped.flipsOf (128 * 0x120)).isEmpty && (mapped.dirEnt? 0x120 (.l1 3 191)).isNone &&
      !lineOwned mapped 0x120 (.l1 3 191)) = true ∧
    (holderOk mapped 0x120 (.l2 63) && !l1Holder (.l2 63) && !lineOwned mapped 0x120 (.l2 63)) = true ∧
    (sDir.dirEnt? 0x120 (.l1 0 0)).any (fun d => d.st == .modified) = true ∧ lineOwned sDir 0x120 .host = false ∧
    (storeWaits (sPath 0x9000) (store1 0x9000) = false ∧ (sPath 0x9000).flipsOf 0x9000 = []) ∧
    (storeWaits (sPath (2 ^ 40)) (store1 (2 ^ 40)) = false ∧ (sPath (2 ^ 40)).flipsOf (2 ^ 40) = []) ∧ sFault.takingOver = none ∧
    ((sPath 0x9000).path.filter fun p => p.die == 0 && p.core == 0)[0]? = some (store1 0x9000) ∧
    ((sPath (2 ^ 40)).path.filter fun p => p.die == 0 && p.core == 0)[0]? = some (store1 (2 ^ 40)) ∧ ((sPath (2 ^ 40)).block? 1).isSome = true ∧
    ((sFault.pfs.find? fun p => p.id == 5) = some pf1 ∧ slotHeld sFault 0 0x9000 = false) ∧
    (flipWaits sFlip (sFlip.frame 0).lin 0 3 == false && spSorted sFlip.frames) = true := by
  and_intros <;> decide +kernel

/-! The distributor and the trail engine -/

/-- One block of one wave at level 2: 1 bundle, template 8. -/
def plainRecord : Nat := 2 ^ 192 + 2 * 2 ^ 236 + 2 * 2 ^ 256 + 8 * 2 ^ 274 + 2 ^ 517 + 2 ^ 524
/-- The same as a gang of one: level 3 of domain .gng. -/
def gangRecord : Nat := 2 ^ 192 + 3 * 2 ^ 236 + 2 * 2 ^ 256 + 3 * 2 ^ 259 + 8 * 2 ^ 274 + 2 ^ 517 + 2 ^ 524
def launch1 (r : Nat) : Launch := { oneLaunch 1 with record := BitVec.ofNat 2048 r, next := 0, pcls := 7 }
/-- Glade 0 holds every grove of the dies. -/
def groves : Sparse W64 := [(0x20001, 0xFFF0000000000000), (0x20002, 0xFFFFFFFFF)]
def phase1 (st : PState) : Phase := newPhase 5 (launch1 plainRecord) 0 none |> fun p => { p with st := st, wlive := 1 }
def sPool (r : Nat) (ps : List Phase) : State := { State.reset with dcb := groves, launches := [launch1 r], phases := ps, uids := 9 }
def fromLaunch (s : State) (p : Launch → Bool) : Bool := (s.launch? 1).any p

/-- The cells of a value's bytes at an address. -/
def cells (a n x : Nat) : List Host.Cell := ((List.range n).map fun i => (a + i, (BitVec.ofNat 8 (x / 256 ^ i) : Byte))).filter fun c => c.2 != 0
/-- Queue 0 of owner 0: its TAIL, at 0x9000, is 1 and its HEAD 0; its one entry asks for the launch of the record at 0x9200. -/
def sQueue : State := { quick with
  mem := mapped.mem ++ [(0x9000, 1)] ++ cells 0x9200 128 plainRecord ++ [(0x9401, 0x92)]
  dcb := [(0x4000, 0x9400), (0x4001, 0x9000), (0x4002, 0x200)] ++ mapped.dcb }
def wordsB (s : State) (p : Nat × Nat → Bool) : Bool := match queueWords s 0 with
  | .ok x => p x
  | .error _ => false
/-- Owner 0 runs the graph of one node whose table header is at 0x9400. -/
def runReq1 : RunReq := { die := 0, oid := 0, glade := 0, pcls := 0, table := 0x9400, cwAddr := 0, cwVal := 0 }
def sGraph : State := { quick with mem := mapped.mem ++ [(0x9420, 1)], runReqs := [runReq1] }
def sRun : State := { State.reset with runs := [{ newRun 3 runReq1 (2 ^ 256) with launched := [0] }] }
/-- Owner 0 has a budget of 7 clk on die 1 and no overrun, and has used them. -/
def sQuota : State := { State.reset with dcb := [(0x10001, 7)], used := [(4096, 7)] }
/-- A phase that has lacked only a core for 2^16 clk, and a block of a lower class on core 0. -/
def sVictim : State :=
  { sPool plainRecord [{ phase1 .ready with waitedSince := some 0 }] with
    dcb := [(0x8000, 0x1140C00000000000), (0x20001, 0x0010000000000000)], clk := [65536, 0, 0, 0],
    blocks := [{ oneBlock State.reset 7 0 0 with pcls := 0 }] }

/-- The queue's arrival has been noted; its entry is of the kind `k` and, with `bad`, has a reserved bit set. -/
def sArrived (k : Nat) (bad : Bool) : State :=
  { sQueue with arrived := [0], mem := sQueue.mem ++ cells 0x9414 4 (k + if bad then 16 else 0) }

/-- What queue 0's entry reads as, where the queue is open and its words and its entry can be reached. -/
def entryIs (s : State) (p : State → Nat → Bool) : Bool :=
  let t := holdTail s 0
  ((s.arrived.find? fun x => qDie s x == qDie s 0 && queueTurn s x) == some 0) && qOpen t 0 &&
    match queueWords t 0, ownerKeys t (qOid t 0) { rd := false, wr := true } (qCtl t 0 + 128) 4,
        ownerRead t (qOid t 0) (qBase t 0 + 32 * (0 % 2 ^ qNlog t 0)) 32 with
    | .ok (1, 0), .ok _, .ok l => 1 ≤ 2 ^ qNlog t 0 && p t (natLE l)
    | _, _, _ => false

theorem witness_queueEvents :
    (qOpen sQueue 0 && !sQueue.arrived.contains 0 && !sQueue.waitsOnPage (.queue 0)) = true ∧
    (tailKey sQueue 0 = some 0x9000 ∧ holdable 0x9000 = true ∧ sQueue.dirEnt? (0x9000 / 128) (.dist 0) = none) ∧
    entryIs (sArrived 1 true) (fun t x => bitsOf x 164 92 != 0 && bitsOf x 160 4 != 0 && !queueHeld t 0) = true ∧
    ([false, true].all fun odd => entryIs (sArrived 0 odd) fun t x => (bitsOf x 164 92 != 0) == odd && bitsOf x 160 4 == 0 && poolRoom t 0 &&
      !queueHeld t 0 && !recordHeld t (entrySubmission t 0 x) && okB (submit t { entrySubmission t 0 x with odd := odd } none)) = true ∧
    entryIs (sArrived 1 false) (fun t x => bitsOf x 164 92 == 0 && bitsOf x 160 4 == 1 && t.runReqs.isEmpty) = true ∧
    entryIs (sArrived 15 false) (fun _ x => bitsOf x 164 92 == 0 && 2 ≤ bitsOf x 160 4) = true := by
  and_intros <;> decide +kernel

/-- The blocks of a launch's next gang. -/
def nextGang (s : State) (l : Launch) : Nat :=
  let left := lNb l.record.toNat - l.next
  if gangFits s l (min (lGp l.record.toNat) left) then min (lGp l.record.toNat) left else min (lGf l.record.toNat) left
/-- A gang of 16 with the fallback of 1, on the one grove of the glade, whose core 0 has no wave slot left. -/
def sFallback : State :=
  { sPool (gangRecord + 15 * 2 ^ 192 + 15 * 2 ^ 224) [] with
    dcb := [(0x20001, 0x0010000000000000)]
    blocks := [{ oneBlock State.reset 7 0 0 with waves := (List.range 32).map fun w => { oneWave State.reset 0 with wave := w, claim := 1 } }] }

theorem witness_creation :
    fromLaunch (sPool plainRecord []) (fun l => !l.dead && !lGang l.record.toNat && lNb l.record.toNat - l.next == 1) = true ∧
    fromLaunch (sPool gangRecord []) (fun l => !l.dead && lGang l.record.toNat && lNb l.record.toNat - l.next == 1 &&
      nextGang (sPool gangRecord []) l ≤ 256 && gangFits (sPool gangRecord []) l (nextGang (sPool gangRecord []) l)) = true ∧
    fromLaunch sFallback (fun l => lGp l.record.toNat == 16 && nextGang sFallback l == 1 && gangFits sFallback l 1) = true := by
  and_intros <;> decide +kernel

/-- A phase of template 0, which waits for key 0, in a launch of generation 1. -/
def phaseK (st : PState) : Phase := { phase1 st with ntile := 0 }
def launchK (node : Option (Nat × Nat)) : Launch := { launch1 (plainRecord + 2 ^ 895) with gen := 1, node := node, tinit := 1 }
/-- Key 0 holds generation 2. -/
def sStale (st : PState) : State := { State.reset with
  launches := [launchK none], phases := [phaseK st], blazes := [{ oid := 0, key := 0, gen := 2, count := 0, persistent := false }] }
/-- The launch is a node of a run whose counters cannot be read. -/
def sBroken : State := { State.reset with launches := [launchK (some (3, 0))], phases := [phaseK .gated], runs := [newRun 3 runReq1 (2 ^ 256)] }

/-- Core 17 of die 1 stands to take the phases that the distributor chooses. -/
def atDispatch (s : State) (p : State → Cand → List (Nat × Nat) → Bool) : Bool :=
  s.regBits 0x10000 2 1 != 1 && match chosen s 1 with
    | some c => match seating s c.l c.p 1 17 with
      | some seats => !seats.any (returnHeld s c.l) && p s c seats
      | none => false
    | none => false
def sStaleNow : State := { sStale .ready with dcb := groves }
/-- A saved phase whose slot, at 0, holds a window onto an address that has no page; its record is at 0x9000. -/
def sNoWindow : State := { saving quick with
  mem := [(0, 1), (1, 0x80), (0x45, 1), (0x4C, 128), (0x50, 1), (0x8000, 0x3F)]
  dcb := (saving quick).dcb.take 5 ++ groves ++ (saving quick).dcb.drop 5
  launches := [launch1 (plainRecord + 0x9000 * 2 ^ 128)]
  phases := [{ phase1 .ready with fresh := false, reason := 1, kept := { Kept.empty with slot := some 0 } }] }

theorem witness_phaseEvents :
    ((sPool plainRecord [phase1 .created]).phase? 5 = some (phase1 .created) ∧ ((sPool plainRecord [phase1 .created]).launch? 1).isSome = true) ∧
    fromLaunch (sPool plainRecord [phase1 .gated]) (fun l => (sPool plainRecord [phase1 .gated]).phase? 5 == some (phase1 .gated) &&
      gateOf (sPool plainRecord [phase1 .gated]) l (phase1 .gated) == .opened) = true ∧
    (gateOf sBroken (launchK (some (3, 0))) (phaseK .gated) = .broken 0 ∧ gateOf (sStale .ready) (launchK none) (phaseK .ready) = .stale 0 2 ∧
      (sStale .ready).phase? 5 = some (phaseK .ready) ∧ (phaseK .ready).reason = 0) ∧
    (atDispatch sStaleNow fun s c seats => (seats.findSome? (staleNow s c.l)).isSome) = true ∧
    (atDispatch sNoWindow fun s c seats => (seats.findSome? (staleNow s c.l)).isNone && (seats.find? (windowTrouble s c.l 1)).isSome) = true ∧
    (let s := sPool plainRecord [phase1 .ready]
     s.regBits 0x10000 2 1 != 1 && match chosen s 1 with
      | some c => match seating s c.l c.p 1 17 with
        | some seats => !seats.any (returnHeld s c.l) && (seats.findSome? (staleNow s c.l)).isNone && (seats.find? (windowTrouble s c.l 1)).isNone && !seats.isEmpty
        | none => false
      | none => false) = true ∧
    (sVictim.aged[0]?).getD 0 < sVictim.clkOf 0 / 2 ^ 16 ∧
    fromLaunch sVictim (fun l => l.die == 0 && mayDispatch sVictim l { phase1 .ready with waitedSince := some 0 } 0 &&
      (victimFor sVictim l { phase1 .ready with waitedSince := some 0 } 0).isSome) = true := by
  and_intros <;> decide +kernel

theorem witness_quotas :
    (let s := { sQuota with clk := [1200000, 0, 0, 0] }
     (s.reg 0xA8000).toNat ≠ 0 ∧ (s.quotaAt[0]?).getD 0 + (s.reg 0xA8000).toNat ≤ s.clkOf 0 ∧ spSorted s.used = true) ∧
    (budgetOf sQuota 1 0 ≠ 0xFFFFFFFF ∧ budgetOf sQuota 1 0 + 256 * sQuota.regBits (quotaOff 1 0) 32 24 ≤ usedOf sQuota 1 0 ∧
      sQuota.overrun.contains (quotaKey 1 0) = false) := by
  and_intros <;> decide +kernel

/-- Owner 0's request for a graph whose table header is at `a`. -/
def requested (s : State) (a : Nat) : State := { s with runReqs := [{ runReq1 with table := a }] }
def firstRequest (s : State) (a : Nat) : Bool :=
  (s.runReqs.find? fun q => q.die == 0 && canTake s q && firstOfGraph s q) == some { runReq1 with table := a }
/-- `sGraph`'s page may be read alone. -/
def sReadOnly : State := { sGraph with tlb := sGraph.tlb.map fun e => { e with leaf := 0x3B } }

theorem witness_graphRefusals :
    (firstRequest (requested sGraph (2 ^ 40)) (2 ^ 40) = true ∧ (runHeader (requested sGraph (2 ^ 40)) { runReq1 with table := 2 ^ 40 }).isNone = true) ∧
    (firstRequest (requested sGraph 0x9800) 0x9800 = true ∧ (runHeader (requested sGraph 0x9800) { runReq1 with table := 0x9800 }).any tableBad = true) ∧
    (firstRequest sReadOnly 0x9400 = true ∧ (runHeader sReadOnly runReq1).any (fun h => !tableBad h &&
      (pinWrite (withRun sReadOnly runReq1 h) 0 (0x9400 + 24) (bytesLE 3 (nextGen h + 2 ^ 16))).isNone) = true) := by
  and_intros <;> decide +kernel

theorem witness_kills :
    ({ State.reset with blocks := [{ oneBlock State.reset 7 0 0 with oid := 5 }] } : State).blocks.any (fun b => b.oid == 5) = true ∧
    ({ State.reset with launches := [{ launch1 plainRecord with oid := 6 }] } : State).launches.any (fun l => l.oid == 6) = true ∧
    (let s := sPool plainRecord [phase1 .ready]
     s.block? 5 = none ∧ s.phase? 5 = some (phase1 .ready) ∧ (phase1 .ready).st ≠ .done ∧ (s.launch? (phase1 .ready).launch).isSome = true) := by
  and_intros <;> decide +kernel

theorem witness_endings :
    (mapped.ctxValid 0 = true ∧ (sOpen.block? 1).isSome = true) ∧
    (let s := { State.reset with launches := [{ launch1 plainRecord with doneN := 1 }] }
     fromLaunch s (fun l => l.ovr) = true ∧ s.waitsOnPage (.launch 1) = false ∧ storesLeft s 1 = false) ∧
    ((sGraph.runReqs.find? fun q => q.die == 0 && canTake sGraph q && firstOfGraph sGraph q) = some runReq1 ∧
      ((runHeader sGraph runReq1).any fun h => !tableBad h &&
        (pinWrite (withRun sGraph runReq1 h) 0 (0x9400 + 24) (bytesLE 3 (nextGen h + 2 ^ 16))).isSome) = true) ∧
    ((sRun.run? 3).any (fun r => r.launched.contains 0 && !r.complete.contains 0 && r.walk.isNone) = true ∧
      sRun.waitsOnPage (.run 3) = false ∧ (sRun.launches.any fun l => l.node == some (3, 0)) = false) := by
  and_intros <;> decide +kernel

/-! The control block and the displays -/

/-- The reset state with registers of the control block (by offset div 8, rising). -/
def withRegs (l : Sparse W64) : State := { State.reset with dcb := l }
/-- Glade 0 is on. -/
def gladeOn : Nat × W64 := (0x20000, 0x101)
/-- Glade 0 is on and protected, with one frame of stack 0. -/
def sGuarded : State := withRegs [(0x20000, 0x103), (0x20002, 0x0080000000000000)]

theorem witness_tlbiAndL2 :
    ((0x800000 : W32).getLsbD 23 = true ∧ State.reset.regBits tlbicOff 24 1 = 0 ∧ (State.reset.setRegBits tlbicOff 24 1 1).regBits tlbicOff 24 1 = 1) ∧
    ((2 : W32).getLsbD 1 = true ∧ (3 : W32).getLsbD 1 = true) ∧ sOpen.blocks ≠ [] ∧
    (let s := withRegs [gladeOn, (0x20001, 0x0010000000000000)]
     (3 : W32).getLsbD 0 = true ∧ sliceMissing s = true) ∧
    (State.reset.blocks = [] ∧ State.reset.copies = [] ∧ (2 : W32).getLsbD 0 = false ∧ sliceMissing State.reset = false) := by
  and_intros <;> decide +kernel

theorem witness_accessTables :
    (gladesOn sGuarded).all (fun g => !(sGuarded.gladeProtected g && forbiddenFor sGuarded g 9 255 (2 ^ 74))) = true ∧
    (gladesOn sGuarded = [0] ∧ sGuarded.gladeProtected 0 = true ∧ forbiddenFor sGuarded 0 0 0x12 (2 ^ 74) = true) := by
  and_intros <;> decide +kernel

def onOf (s : State) (g : Nat) : State := s.setMasked (gldOff g) 3 (1 + 2 * bitAt (s.reg (gldOff g)).toNat 1)
def twins : State := withRegs [gladeOn, (0x20001, 0x0010000000000000), (0x20009, 0x0010000000000000)]
def mappedOn : State := { mapped with dcb := [(0x8000, 0x0140C00000000000), gladeOn] }

theorem witness_glades :
    (State.reset.gladeState 15 = 0 ∧ gladeClash (onOf State.reset 15) 15 = false ∧ channelsBad (onOf State.reset 15) 15 = false) ∧
    (let s := withRegs [(0x20000, 2)]
     s.gladeState 0 = 0 ∧ bitAt (s.reg (gldOff 0)).toNat 1 = 1 ∧ gladeClash (onOf s 0) 0 = false ∧ channelsBad (onOf s 0) 0 = false ∧
      windowsBad (onOf s 0) 0 = false) ∧
    (twins.gladeState 1 = 0 ∧ gladeClash (onOf twins 1) 1 = true) ∧
    (let s := withRegs [(0x20000, 2), (0x20002, 0x0080000000000000), (0x22091, 0x400)]
     s.gladeState 0 = 0 ∧ bitAt (s.reg (gldOff 0)).toNat 1 = 1 ∧ windowsBad (onOf s 0) 0 = true) ∧
    (twins.gladeState 0 = 1 ∧ ((List.range 4096).any fun o => twins.ctxValid o && twins.ctxGlade o == 0) = false) ∧
    (mappedOn.gladeState 0 = 1 ∧ ((List.range 4096).any fun o => mappedOn.ctxValid o && mappedOn.ctxGlade o == 0) = true) := by
  and_intros <;> decide +kernel

def biased : State := { State.reset with frames := [(0, { v := true, lin := false, hb := true, pend := false, oid := 0 })] }

theorem witness_registerWrites :
    (State.reset.memlayDone = false ∧ (0x100000 : W32).getLsbD 20 = true) ∧
    (State.reset.regBits ftcmdOff 1 1 ≠ 1 ∧ (1 : W64).getLsbD 0 = true ∧ ftOp 1 = 0 ∧ ftOp 0x10001 = 1 ∧ ftOp 0x20001 = 2 ∧ ftOp 0x30001 = 3) ∧
    (let s := mapped.setMasked ftcmdOff (bitsMask 52 16) 0x20001
     (s.frame (ftPage 0x20001)).v = true ∧ (s.frame (ftPage 0x20001)).pend = false ∧ (s.frame (ftPage 0x20001)).hb = false) ∧
    (let s := biased.setMasked ftcmdOff (bitsMask 52 16) 0x30001
     (s.frame (ftPage 0x30001)).v = true ∧ (s.frame (ftPage 0x30001)).pend = false ∧ (s.frame (ftPage 0x30001)).hb = true) ∧
    ((0x10000000000001 : W64).getLsbD 0 = true ∧ bitAt (State.reset.reg precmdOff).toNat 1 = 0 ∧ bitsOf 0x10000000000001 34 2 < 2 ∧
      bitsOf 0x10000000000001 52 4 ≠ 0) ∧
    ({ State.reset with takingOver := some 3 } : State).takingOver ≠ none := by
  and_intros <;> decide +kernel

/-- Functions 0 and 1 reach their registers through table 4; die 0's pair does not. -/
def sPorts : State := withRegs [(0x24080, 0xFFFFFFF000000000), (0x24081, 0x7FF), (0x24088, 0xFFFFFFF000000000), (0x24089, 0x7FF),
  (0x24180, 0), (0x24181, 0)]

theorem witness_registerPorts :
    (functionShut { State.reset with d3hot := [16] } 16 = true ∧ functionShut State.reset 16 = false ∧ barOffset 0 0x10000 = none) ∧
    (functionShut sPorts 0 = false ∧ barOffset 0 0xFFFFF8 = some 0xFFFFF8 ∧ tableAllows sPorts 4 0x10 0xFFFFF8 false true = true) ∧
    (functionShut sPorts 1 = false ∧ barOffset 1 0xFFF8 = some 0x21FFF8 ∧ tableAllows sPorts 4 0x11 0x21FFF8 true false = true) ∧
    (barOffset 2 0 = some 0x220000 ∧ tableAllows sPorts 4 0x12 0x220000 false true = false ∧
      tableAllows sPorts 4 0x12 0x220000 true false = false) ∧
    (pairRuns (State.reset.setRegBits 0 0 4 15) 3 = true ∧ fenced (State.reset.setRegBits 0 0 8 0xFF) 3 = true ∧
      fenced (State.reset.setRegBits 0 0 4 15) 3 = false ∧ tableAllows State.reset 4 0x33 0xFFFFF8 false true = true) ∧
    (tableAllows sPorts 4 0x30 0 false true = false ∧ powerReg < 2 ^ 12 ∧ powerReg % 8 = 0) ∧
    (requestHeld (sPorts.setRegBits (pageOff 1 + 0x100) 0 1 1) (pageOff 1 + 0x1000) = true ∧ requestHeld sPorts (pageOff 1 + 0x1000) = false) ∧
    (hostStuck sPorts 0 = false ∧ hostStuck sPorts 1 = false) ∧
    (tableAllows sPorts 4 0x11 (pageOff 1 + 0x100) false true = true ∧ tableAllows sPorts 4 0x12 (pageOff 2 + 0x100) false true = false) := by
  and_intros <;> decide +kernel

/-- Display 3 has 8 by 8 pixels, and its map rectangle is all of them. -/
def sDisp (on : W64) : State := withRegs [(0x18600, on + 0x0007000700000000), (0x18606, 0x0008000800000000)]

theorem witness_displayEvents :
    (bitsOf (1 + 7679 * 2 ^ 32 + 4319 * 2 ^ 48) 32 16 ≤ 7679 ∧ bitsOf (1 + 7679 * 2 ^ 32 + 4319 * 2 ^ 48) 48 16 ≤ 4319 ∧
      7679 < bitsOf (1 + 7680 * 2 ^ 32) 32 16 ∧ 4319 < bitsOf (1 + 4320 * 2 ^ 48) 48 16) ∧
    ((sDisp 0).regBits (dispOff 3 + 0x38) 21 1 ≠ 1 ∧ (0x106000 : W32).getLsbD 20 = true) ∧
    (mapStatus (sDisp 0) 3 0 0x6000 ((sDisp 0).reg (dispOff 3 + 0x30)).toNat ≠ 0) ∧
    (mapStatus (sDisp 1) 3 3 0x5001 ((sDisp 1).reg (dispOff 3 + 0x30)).toNat = 0 ∧ dispOn (sDisp 1) 3 = true) ∧
    (mapStatus (sDisp 0) 3 3 0x5001 ((sDisp 0).reg (dispOff 3 + 0x30)).toNat = 0 ∧ dispOn (sDisp 0) 3 = false ∧
      pixelsStuck (sDisp 0) 3 = false ∧ mapHeld (sDisp 0) { d := 3, rect := (sDisp 0).reg (dispOff 3 + 0x30), slot := 3, value := 0x5001 } = false) ∧
    canopyWaits (sDisp 1) 3 = false ∧
    ((0x2000 : W64).getLsbD 13 = true ∧ (sDisp 1).regBits (capOff 3) 14 1 ≠ 1) := by
  and_intros <;> decide +kernel

/-! The host, peers, the service pairs and the root of trust -/

/-- The host, and glade 15 of peer 7, may reach device memory of die 0 through the firewall. -/
def sHost : State := withRegs [(0x22080, 0xFFFFFFF000000000), (0x22081, 0x7FF), (0x227F8, 0xFFFFFFF000000000), (0x227F9, 0x7FF)]
def outOk (s : State) (a : Nat) (rd wr : Bool) : Bool := (firewall s 0x10 (targetOf a false 0) rd wr).isNone && !outsideWaits s (targetOf a false 0).key 1 wr

theorem witness_hostEvents :
    (inOneLine (2 ^ 37 - 1) 1 = true ∧ sysBase ≤ 2 ^ 37 - 1 ∧ inOneLine 0 128 = true) ∧
    (outOk sHost 0 true false = true ∧ outOk sHost 0 false true = true) ∧
    ((firewall State.reset 0x10 (targetOf 0 false 0) true false).isSome = true ∧
      (firewall State.reset 0x10 (targetOf 0 false 0) false true).isSome = true) ∧
    (2 ^ 51 ≤ 128 * 2 ^ 44 ∧ 128 * 2 ^ 44 < 2 ^ 52 ∧ outsideWaits State.reset (128 * 2 ^ 44) 128 true = false) ∧
    (let s := { State.reset with msix := [4 * 16 + 3] }
     s.msix.contains (4 * 16 + 3) = true ∧ vectorMasked s 16 3 = false ∧ s.d3hot.contains 16 = false ∧ hostStuck s 16 = false) ∧
    (snooped State.reset (128 * 2 ^ 44) = true ∧ snooped biased 0xFE00 = true ∧ outsideWaits biased 0xFE00 128 true = false ∧
      snooped biased 0xFF80 = false) ∧
    (let s := State.reset.setRegBits (pageOff 16 + 0x100) 0 1 1
     mbdb s 16 = true ∧ (joracAnswer s 16 (jRequest s 16)).1.status = 13 ∧ jHeld s (jRequest s 16) (joracAnswer s 16 (jRequest s 16)).1 = false) ∧
    pinsHeld { quick with svcs := [{ svc1 with landed := false }] } 0 [(0x4000, 1), (0x2100 + 28, 4)] true = false ∧
    (let s := { quick with svcs := [{ svc1 with landed := false }] }
     s.svc? 0 0 = some { svc1 with landed := false } ∧ (pinWrites 0 [(svcArgs s 0 0, [7]), (svcHeader s 0 0 + 28, bytesLE 4 1)] s).isSome = true) ∧
    (let s := { State.reset with svcs := [{ svc1 with landed := false }] }
     s.svc? 0 0 = some { svc1 with landed := false } ∧ (pinWrites 0 [(svcArgs s 0 0, [7]), (svcHeader s 0 0 + 28, bytesLE 4 1)] s).isNone = true) := by
  and_intros <;> decide +kernel

theorem witness_peers :
    (sHost.stopped.contains (peerPort 7) = false ∧ peerAllowed sHost 7 15 0 true false = true ∧ peerAllowed sHost 7 15 0 false true = true ∧
      outsideWaits sHost (targetOf 0 false 0).key 128 false = false ∧ outsideWaits sHost (targetOf 0 false 0).key 1 true = false) ∧
    (peerAllowed State.reset 7 15 0 false true = false ∧ peerAllowed State.reset 7 15 0 true false = false) ∧
    (atomDefined 0 .n32 = true ∧ inOneLine 0 (elemWidth .n32 / 8) = true ∧ peerAllowed sHost 7 15 0 true true = true ∧
      outsideWaits sHost (targetOf 0 false 0).key 4 true = false ∧ peerAllowed State.reset 7 15 0 true true = false) ∧
    (let s := { State.reset with sessions := [16] }
     streamFn .link = 0 ∧ streamFn (.selective 16) < 17 ∧ s.sessions.contains (streamFn (.selective 16)) = true) ∧
    (let s := { State.reset with keys := [(3, 1, 2)] }
     (s.keys.any fun k => k.1 == 3) = true ∧ s.stopped.contains 3 = false) := by
  and_intros <;> decide +kernel

def pairs (n : Nat) : State := State.reset.setRegBits 0 0 4 n
def led : State := { pairs 15 with elected := true }

theorem witness_leaders :
    (State.reset.elected = false ∧ [0, 1, 2, 3].find? (healthy (pairs 8)) = some 3 ∧ [0, 1, 2, 3].find? (healthy (pairs 0)) = none) ∧
    (pairRuns (pairs 9) 3 = true ∧ (pairs 9).elected = false ∧ ((haltPair ((pairs 9).setRegBits 0 3 1 0) 3).pairs.all fun p => p.halted) = false) ∧
    (let s := { pairs 8 with elected := true }
     pairRuns s 3 = true ∧ (haltPair (s.setRegBits 0 3 1 0) 3).regBits 0 0 4 = 0) ∧
    (let s := haltPair (haltPair (haltPair (pairs 0) 0) 1) 2
     pairRuns s 3 = true ∧ ((haltPair s 3).pairs.all fun p => p.halted) = true) ∧
    leads led (leader led) = true ∧ ([State.reset, pairs 8, led].all fun s => !pairHeld s leadwAt true && !pairHeld s hbwAt true) = true ∧
    ({ led with takingOver := some 3 } : State).takingOver = some 3 ∧
    (healthy led 3 = true ∧ fenced led 3 = false ∧ leader led ≠ 3 ∧ led.takingOver ≠ some 3 ∧ (led.takeover.any fun t => t.die == 3) = false ∧ pairHeld led leadwAt false = false ∧ pairHeld led hbwAt false = false) ∧
    (let s := { led with takeover := [{ die := 3, hbw := 0, leadw := 0 }] }
     pairHeld s hbwAt false = false ∧ pairHeld s leadwAt true = false ∧ (s.takeover.find? fun t => t.die == 3) = some { die := 3, hbw := 0, leadw := 0 } ∧ hbw s = 0 ∧ leadw s = 0 ∧
       pairAllowed s 3 leadwAt true true = true ∧ pairAllowed (denyAll s 0x33) 3 leadwAt true true = false) ∧
    hbw { led with takeover := [{ die := 3, hbw := 1, leadw := 0 }] } ≠ 1 := by
  and_intros <;> decide +kernel

theorem witness_deviceEvents :
    (State.reset.pwr[3]? = some 0 ∧ ({ State.reset with pwr := [0, 0, 0, 3] } : State).pwr[3]? = some 3) ∧
    (let s := setRstep sFlip 15 2 1
     s.rstep 15 = 1 ∧ ((gladeFlips s 15).any fun x => flipWaits s (s.frame x.1).lin x.1 x.2.2) = false ∧
       portShut s 0x20 = true ∧ portShut s 0x1F = false) ∧
    (State.reset.rstep 0 < 6 ∧ (setRstep State.reset 15 3 6).rstep 15 = 6 ∧ (setRstep State.reset 15 3 6).Canonical) ∧
    (reports 16 31 = true ∧ reports 0 5 = true) ∧
    (State.reset.updating = none ∧ ({ State.reset with updating := some true } : State).updating = some true) ∧
    (State.reset.fatal = false ∧ (pairs 0).regBits 0 0 4 = 0) :=
  ⟨by decide +kernel, by decide +kernel, ⟨by decide +kernel, by decide +kernel, setRegBits_canonical reset_canonical _ _ _ _⟩,
    by decide +kernel, by decide +kernel, by decide +kernel⟩

/-- A rollback record of the device, with the operator's counter 1 and bank 0. -/
def rollback1 : BitVec 1536 := BitVec.ofNat 1536 (0x4E395242 + 2 ^ 416 * (1 + 2 ^ 32 * Config.serial.toNat))

theorem div_of_small {c p k : Nat} (h : c < p) : (c + p * k) / p = k := by
  rw [Nat.add_mul_div_left _ _ (by omega), Nat.div_eq_of_lt h, Nat.zero_add]

theorem rollback1_toNat : rollback1.toNat = 0x4E395242 + 2 ^ 416 * (1 + 2 ^ 32 * Config.serial.toNat) := by
  have h : Config.serial.toNat < 2 ^ 64 := Config.serial.isLt
  have h1 : 1 + 2 ^ 32 * Config.serial.toNat < 2 ^ 100 := by omega
  have h2 := Nat.mul_le_mul_left (2 ^ 416) (Nat.succ_le_of_lt h1)
  rw [rollback1, BitVec.toNat_ofNat]
  refine Nat.mod_eq_of_lt (Nat.lt_of_lt_of_le ?_ (show 0x4E395242 + 2 ^ 416 * 2 ^ 100 ≤ 2 ^ 1536 by decide +kernel))
  rw [Nat.mul_succ] at h2
  have h3 : 0 < 2 ^ 416 := Nat.pow_pos (by decide)
  generalize 2 ^ 416 = p at *
  omega

theorem witness_rollback : bitsOf rollback1.toNat 0 32 = 0x4E395242 ∧ bitsOf rollback1.toNat 448 64 = Config.serial.toNat ∧
    State.reset.opCtr.toNat < bitsOf rollback1.toNat 416 32 ∧ bitsOf rollback1.toNat 408 8 < 2 ∧ State.reset.updating = none ∧
    ¬ bitsOf (0 : BitVec 1536).toNat 0 32 = 0x4E395242 := by
  have h : Config.serial.toNat < 2 ^ 64 := Config.serial.isLt
  have e1 : rollback1.toNat / 2 ^ 416 = 1 + 2 ^ 32 * Config.serial.toNat := by
    rw [rollback1_toNat]; exact div_of_small (by decide +kernel)
  have e2 : rollback1.toNat / 2 ^ 448 = Config.serial.toNat := by
    rw [show (2 : Nat) ^ 448 = 2 ^ 416 * 2 ^ 32 by decide +kernel, ← Nat.div_div_eq_div_mul, e1]; exact div_of_small (by decide)
  have e3 : rollback1.toNat / 2 ^ 408 % 2 ^ 8 = 0 := by
    rw [rollback1_toNat, show (2 : Nat) ^ 416 = 2 ^ 408 * 2 ^ 8 by decide +kernel, Nat.mul_assoc, div_of_small (by decide +kernel)]
    exact Nat.mul_mod_right _ _
  have e4 : rollback1.toNat % 2 ^ 32 = 0x4E395242 := by
    rw [rollback1_toNat, show (2 : Nat) ^ 416 = 2 ^ 32 * 2 ^ 384 by decide +kernel, Nat.mul_assoc]
    exact (Nat.add_mul_mod_self_left _ _ _).trans (by decide +kernel)
  have h0 : State.reset.opCtr.toNat = 0 := rfl
  refine ⟨?_, ?_, ?_, ?_, rfl, by decide +kernel⟩
  · rw [bitsOf, Nat.pow_zero, Nat.div_one]; exact e4
  · rw [bitsOf, e2]; exact Nat.mod_eq_of_lt h
  · rw [bitsOf, e1, h0, show (1 + 2 ^ 32 * Config.serial.toNat) % 2 ^ 32 = 1 from (Nat.add_mul_mod_self_left _ _ _).trans (by decide +kernel)]
    decide
  · rw [bitsOf, e3]; decide

/-! ## Steps, frames and forms -/

def rejects {α : Type} (x : Except DecodeError α) (e : DecodeError) : Bool :=
  match x with
  | .ok _ => false
  | .error d => d == e

theorem witness_step :
    (let s := placed (.nop f0)
     let s1 : State := { s with agenda := [.issue r0] }
     s1.fatal = false ∧ outOfTurn { s1 with agenda := [] } r0 = false ∧ (ctxOf (toIssue { s1 with agenda := [] } r0)).any (fun c => decide (c.e.notBefore ≤ c.clk) && decodes (.nop f0) c.e.word) = true ∧
      nextB (exec (.nop f0) (toIssue { s1 with agenda := [] } r0)) (fun _ => true) = true) ∧
    (let s := placeWord State.reset 0x3FF
     (ctxOf (toIssue { s with agenda := [] } r0)).any (fun c => c.e.word == some 0x3FF && decide (c.e.notBefore ≤ c.clk)) = true ∧
      rejects (decode 0x3FF) .opcode = true) ∧
    (match fetchClause mapped (oneBlock mapped 1 0 0) 0x9000 with
      | .ok l => decide (0 < l.length)
      | .error _ => false) = true ∧
    (let w := ((encode (.nop f0)).getD 0).toNat
     decodeTableWord 128 w = some (.nop f0) ∧
      nextB (exec (.nop f0) (toIssue { State.reset.withFetchWord 128 w with agenda := [] } r0)) (fun _ => true) = true) := by
  and_intros <;> decide +kernel

theorem witness_encoding : (Instr.nop f0).wf = true ∧ encode (.nop f0) = some 0x00003DE000000001FFFFFFFFFFFFFDC9 ∧
    decodes (.nop f0) (some 0x00003DE000000001FFFFFFFFFFFFFDC9) = true := by decide +kernel

theorem witness_canonicalFormsKept : State.reset.Canonical ∧ nextB (step (placed (.nop f0))) (fun _ => true) = true :=
  ⟨⟨rfl, rfl, rfl⟩, by decide +kernel⟩

theorem witness_frames : Ready integerValue (.iadd (fVV .n32)) ∧ Ready floatValue (.frcp (fV .f16x2)) ∧
    ∃ c : Ctx, (∃ t, goesOn c f0 mapped = .next t) ∧ ∃ t, goesTo c mapped = .next t := by
  refine ⟨witness_integerValues.1, witness_floatValues.2, ?_⟩
  obtain ⟨c, _⟩ := witness_trapReturn.2
  exact ⟨c, ⟨_, rfl⟩, _, rfl⟩

theorem witness_storesChangeTheirBytes : (sPath 0x9000).Canonical ∧
    ((sPath 0x9000).path.filter fun p => p.die == 0 && p.core == 0)[0]? = some (store1 0x9000) ∧
    pixelLost (sPath 0x9000) (store1 0x9000) = false ∧ ((sPath 0x9000).blocks.all fun b => b.die != 0 || b.core != 0 || b.barrier.isNone) = true ∧
    ((sOpen.block? 1).any fun b => b.windows.isEmpty && spSorted b.stash) = true ∧
    ∃ q : Place, q.ca = 0 ∧ ∀ off, q.tgt ≠ .dcb off :=
  ⟨⟨show Memory.wf (sPath 0x9000).mem = true by decide +kernel, by decide +kernel, by decide +kernel⟩, by decide +kernel, by decide +kernel, by decide +kernel,
    by decide +kernel, ⟨.dev 0 0, 0, false, false, 0⟩, rfl, fun off h => by cases h⟩

def entryAt (hdr : BitVec 60) (idx : Nat) (prio : W16) : Entry :=
  { hdr := hdr, idx := idx, prio := prio, mask := 1, park := 0, opn := false, second := false, clause := [], notBefore := 0, hold := .none, done := 0, watch := [] }

theorem witness_entryOrder : (entryAt 7 0 3).before (entryAt 2 5 1) = true ∧ (entryAt 2 5 1).before (entryAt 2 6 1) = true ∧
    (entryAt 2 5 1).before (entryAt 3 0 1) = true := by decide

theorem witness_frameLimits : spSorted State.reset.dcb = true ∧ mqLim State.reset 4095 ≤ mqUsed State.reset 4095 ∧
    (State.reset.frame 0).v = false ∧ viewClash State.reset 0 false = false := by decide +kernel

theorem witness_resetValues : (3 : Nat) < 4 ∧ (4095 : Nat) < 4096 ∧ (9 : Nat) < 10 ∧ (255 : Nat) < 256 ∧ (2 ^ 52 - 1 : Nat) < 2 ^ 52 := by decide

/-! ## Ill-formed instructions (R32, R36, R39, R40), one for each check -/

def fAdd : Fields := plain .n32 (.v 1) (.v 2) (.v 3) .none .none

theorem test_wellFormed : (Instr.iadd fAdd).wf = true := by decide +kernel
theorem test_illFormed_reservedBits : rejects (decode (BitVec.ofNat 128 (wordNat 0x000 fAdd + 2 ^ 121))) .reservedBits = true := by decide +kernel
theorem test_illFormed_opcode : rejects (decode (BitVec.ofNat 128 (wordNat 0x3FF fAdd))) .opcode = true := by decide +kernel
theorem test_illFormed_type : rejects (check 0x000 { fAdd with ty := .f32 }) .typeCode = true ∧ (Instr.iadd { fAdd with ty := .f32 }).wf = false := by
  decide +kernel
theorem test_illFormed_unusedOperand : rejects (check 0x000 { fAdd with op3 := .v 1 }) .unusedOperand = true ∧
    (Instr.iadd { fAdd with op3 := .v 1 }).wf = false := by decide +kernel
theorem test_illFormed_modifier : rejects (check 0x000 { fAdd with sm1 := 0x700 }) .modifier = true ∧
    (Instr.iadd { fAdd with sm1 := 0x700 }).wf = false := by decide +kernel
theorem test_illFormed_guard : rejects (check 0x000 { fSS .n32 with ga := 3 }) .guard = true ∧
    (Instr.iadd { fSS .n32 with ga := 3 }).wf = false := by decide +kernel
theorem test_illFormed_flagSelect : rejects (check 0x000 { fAdd with fsel := true }) .flagSelect = true ∧
    (Instr.iadd { fAdd with fsel := true }).wf = false := by decide +kernel
theorem test_illFormed_hint : rejects (check 0x000 { fAdd with hint := 1 }) .hint = true ∧ (Instr.iadd { fAdd with hint := 1 }).wf = false := by
  decide +kernel
theorem test_illFormed_rounding : rejects (check 0x000 { fAdd with ro := 1 }) .rounding = true ∧ (Instr.iadd { fAdd with ro := 1 }).wf = false := by
  decide +kernel
theorem test_illFormed_ordering : rejects (check 0x241 { fRacq with sm1 := 0x2A }) .ordering = true ∧
    (Instr.atomr { fRacq with sm1 := 0x2A }).wf = false := by decide +kernel
theorem test_illFormed_form : rejects (check 0x100 (plain .f32 (.v 1) (.v 2) (.int 0) .none .none)) .form = true ∧
    (Instr.cvt (plain .f32 (.v 1) (.v 2) (.int 0) .none .none)).wf = false := by decide +kernel

/-! ## Words of the manual's encoding (Table 2.3), read back -/

theorem test_word_ffma : decodeTableWord 128 0x00083DE0004C4001FFF0001002020C83 =
    some (.ffma { plain .f32 (.v 4) (.v 1) (.v 2) (.flt 0) .none with sm2 := 0x262, stall := 1 }) := by decide +kernel
theorem test_word_iaddc : decodeTableWord 128 0x00003DE0000000018D63201804050802 =
    some (.iaddc (plain .n32 (.v 10) (.v 2) (.v 3) (.p 1) (.p 2))) := by decide +kernel
theorem test_word_xor : decodeTableWord 128 0x00003DE000000001FFFFE01804008042 =
    some (.xor (plain .b32 (.v 1) (.v 2) (.v 3) .none .none)) := by decide +kernel
theorem test_word_frcp : decodeTableWord 128 0x00003C6000000001FFFFFFFD00028CC0 =
    some (.frcp { plain .f32 (.v 5) (.q 0) .none .none .none with ga := 3 }) := by decide +kernel
theorem test_word_bra : decodeTableWord 128 0x00003C2000000001FFFFFFFE6FFFFDC0 =
    some (.bra { plain .none .none .litLo .none .none .none with ga := 1 }) := by decide +kernel
theorem test_word_ld : decodeTableWord 128 0x00003DE000000001FFFFFA8528040200 =
    some (.ld (plain .b32 (.v 8) (.s 4) (.int 16) .none .none)) := by decide +kernel
theorem test_word_minit : decodeTableWord 128 0x00003DE000000001FFE97A46F1FF82C4 =
    some (.minit (plain .b32 .none (.int 56) (.int 8) (.int 11) .none)) := by decide +kernel
theorem test_word_svc : decodeTableWord 128 0x00003DE000000001A16880868FFFFF81 =
    some (.svc (plain .none .none (.int 7) (.v 16) (.int 4) (.int 2))) := by decide +kernel

/-! ## Results that the manual prints -/

/-- The value of an instruction whose sources are s2 and s4 and whose destination is s10: in the register, or under way to it. -/
def valueOf (i : Instr) (a b : W32) : Option W32 :=
  match exec i (prep State.reset i id fun w => { w with s := [(2, a), (4, b)] }) with
  | .next t => (t.wave? w0).bind fun x => match x.2.ops with
    | [] => some (spGet 0 x.2.s 10)
    | o :: _ => (o.writes.head?).bind fun w => w.vals.head?
  | _ => none

/-- Table 4.4. -/
theorem test_idiv : valueOf (.idiv (fSS .i32)) 7 0xFFFFFFFE = some 0xFFFFFFFD ∧
    valueOf (.idiv (fSS .i32)) 0x80000000 0xFFFFFFFF = some 0x80000000 ∧ valueOf (.idiv (fSS .n32)) 7 0 = some 0xFFFFFFFF := by decide +kernel
theorem test_irem : valueOf (.irem (fSS .i32)) 0xFFFFFFF9 2 = some 0xFFFFFFFF ∧ valueOf (.irem (fSS .n32)) 7 0 = some 7 := by decide +kernel
theorem test_iadds : valueOf (.iadds (fSS .i32)) 0x7FFFFFF0 0x20 = some 0x7FFFFFFF ∧
    valueOf (.iadds (fSS .n8x4)) 0x80FF0102 0x80010101 = some 0xFFFF0203 := by decide +kernel
theorem test_imulh : valueOf (.imulh (fSS .i32)) 0x80000000 2 = some 0xFFFFFFFF ∧ valueOf (.imulh (fSS .n32)) 0x80000000 2 = some 1 := by
  decide +kernel
theorem test_idp4 : valueOf (.idp4 { fSS .i8x4 with op3 := .int 0 }) 0x80FF0102 0x02020202 = some 0xFFFFFF04 := by decide +kernel
theorem test_iabs : valueOf (.iabs { fSS .i32 with op2 := .none }) 0x80000000 0 = some 0x80000000 := by decide +kernel
/-- R84's example: SHL.b32 by 33 shifts by 1; and FUNNEL with C = 8. -/
theorem test_shifts : valueOf (.shl (fSS .b32)) 3 33 = some 6 ∧
    valueOf (.funnel { fSS .b32 with op3 := .int 8 }) 0x12345678 0x9ABCDEF0 = some 0x789ABCDE := by decide +kernel
/-- R90's example: FFRAC of -2^-30 is 1 - 2^-24. -/
theorem test_ffrac : valueOf (.ffrac { fSS .f32 with op2 := .none }) 0xB0800000 0 = some 0x3F7FFFFF := by decide +kernel
theorem test_iaddWraps : valueOf (.iadd (fSS .n32)) 0xFFFFFFFF 2 = some 1 := by decide +kernel

/-- The container that chapter 21 prints. -/
def twice : List Byte :=
  [0x42, 0x49, 0x4C, 0x4E, 0x01, 0x00, 0x20, 0x00, 0x01, 0x00, 0x00, 0x00, 0x06, 0x00, 0x00, 0x00, 0x33, 0x00, 0x00, 0x00, 0x00, 0x00,
   0x00, 0x00, 0x00, 0x00, 0x00, 0x00, 0x00, 0x00, 0x00, 0x00, 0x06, 0x80, 0xE1, 0x01, 0x00, 0x00, 0x01, 0x01, 0x01, 0xC4, 0x05, 0x00,
   0x00, 0x01, 0x02, 0x00, 0x04, 0x86, 0x05, 0x00, 0x00, 0x01, 0x03, 0x0C, 0x08, 0x09, 0xA0, 0x11, 0x00, 0x00, 0x01, 0x02, 0x08, 0x05,
   0xA0, 0x80, 0x01, 0x00, 0x00, 0x00, 0x03, 0x10, 0xDA, 0x19, 0x14, 0x9F, 0x72, 0x00, 0x00, 0x00, 0x00]

/-- Table 21.6: byte 0 of the body at 7 gives status 2, and a container that uses WAITM (0x1C6 where EXIT stood) status 3. -/
theorem test_biline : (containerStatus State.reset (twice.set 32 7)).1 = 2 ∧
    (containerStatus State.reset ((twice.set 77 0xDF).set 78 0x71)).1 = 3 := by decide +kernel

/-- The kernel that chapter 21 prints for it, with the shift's result in v4 and not in v3, which holds the address's upper half; it shifts
by `k`. -/
def twiceCode (k : Fin 64) : List Byte :=
  let clause := bytesLE 16 (0xA + 16 + 256 * 4)
  clause ++ [wordNat 0x384 { plain .b32 (.v 1) (.int 0) .none .none .none with stall := 3 }, wordNat 0x014 (plain .n64 (.v 2) (.s 0) (.v 1) (.int 2) .none),
    wordNat 0x045 { plain .b32 (.v 4) (.v 1) (.int k) .none .none with stall := 6 }, wordNat 0x201 (plain .b32 .none (.v 2) .zero (.v 4) .none),
    wordNat 0x1C8 (plain .none .none .none .none .none .none)].flatMap (bytesLE 16)

/-- R399. Code with the container's operations keeps it; code that shifts by another count does not. -/
theorem test_bilineKept : keptBy twice (twiceCode 1) 0 1 = true ∧ keptBy twice (twiceCode 2) 0 1 = false := by decide +kernel

/-- The blocks of that container, and the code emitted for it. -/
def twiceEmitted : Option JCode :=
  match jBlocks (natLE (twice.take 32)) (twice.drop 32) with
  | .ok (bs, _) => emitted (fun _ => 0) (natLE (twice.take 32)) [] bs
  | .error _ => none

/-- R396 and R402. The emitted code holds the container's operations, with the parameters moved to vector registers, and keeps it. -/
theorem test_emitted : (twiceEmitted.bind fun m => codeIns m.code m.code.length 0).map (List.map KIns.opc) =
    some [0x384, 0x015, 0x015, 0x016, 0x014, 0x045, 0x201, 0x1C8] := by decide +kernel
theorem test_emittedKept : (twiceEmitted.any fun m => keptBy twice m.code m.cb m.rb) = true := by decide +kernel

theorem test_reset_memory : State.reset.mem = [] := by decide

end Sys2Proof.Tests
end

section
/-!
PROOF. The canonical forms under every step (R4, R162, R322). A state result has a lemma `…_canonical`; a meaning that may stop has `…_ends`:
each state that it ends with, in its stop or its result, is canonical; a row of the table has `…_keeps`.
This part: how meanings end, and the sources and results of instructions.
-/
namespace Sys2Proof.Machine

/-! ## How a meaning ends -/

/-- What goes on has the canonical forms. -/
def Go.Keeps : Go → Prop
  | .seq s | .placed s => s.Canonical

/-- A meaning's end: a stop keeps the canonical forms, a result has `P`. -/
def Ends {α : Type} (P : α → Prop) : Except Stop α → Prop
  | .error e => e.Keeps
  | .ok a => P a

/-- A step's next state has the canonical forms. -/
def Keeps : Host.Outcome State Fault Refusal → Prop
  | .next t => t.Canonical
  | _ => True

/-- A meaning that only reads: where it stops, its stop keeps the canonical forms. -/
abbrev StopKeeps {α : Type} (x : Except Stop α) : Prop := Ends (fun _ => True) x

theorem Ends.error {α : Type} {P : α → Prop} {x : Except Stop α} {e : Stop} (hx : Ends P x) (he : x = .error e) : e.Keeps := by
  subst he; exact hx

theorem Ends.ok {α : Type} {P : α → Prop} {x : Except Stop α} {a : α} (hx : Ends P x) (ha : x = .ok a) : P a := by
  subst ha; exact hx

theorem Ends.map {α β : Type} {P : α → Prop} {Q : β → Prop} {x : Except Stop α} {g : α → β} (hx : Ends P x) (h : ∀ a, P a → Q (g a)) :
    Ends Q (x.map g) := by
  cases x with
  | error e => exact hx
  | ok a => exact h a hx

theorem Keeps.next {o : Host.Outcome State Fault Refusal} {t : State} (ho : Keeps o) (h : o = .next t) : t.Canonical := by
  subst h; exact ho

/-- A choice of outcomes keeps what both branches keep. -/
theorem ite_keeps {p : Prop} [Decidable p] {s t : Host.Outcome State Fault Refusal} (hs : p → Keeps s) (ht : ¬ p → Keeps t) :
    Keeps (if p then s else t) := by
  split
  · exact hs ‹_›
  · exact ht ‹_›

/-- A choice of meanings ends as both branches do. -/
theorem ite_ends {α : Type} {P : α → Prop} {p : Prop} [Decidable p] {x y : Except Stop α} (hx : p → Ends P x) (hy : ¬ p → Ends P y) :
    Ends P (if p then x else y) := by
  split
  · exact hx ‹_›
  · exact hy ‹_›

/-- The issue of an instruction keeps the canonical forms where its meaning does. -/
theorem issue_keeps {opc : Nat} {f : Fields} {s : State} {k : State → Ctx → Except Stop Go} (h : s.Canonical)
    (hk : ∀ s c, s.Canonical → Ends Go.Keeps (k s c)) : Keeps (issue opc f s k) := by
  cases e : issue opc f s k with
  | next t =>
    refine issue_canonical h (fun s c hs => ?_) e
    have h1 := hk s c hs
    split
    · exact h1.error ‹_›
    · exact h1.ok ‹_›
    · exact h1.ok ‹_›
  | fault r => trivial
  | refused r => trivial

/-- The lanes that a stop names change nothing of its state. -/
theorem among_keeps {e : Stop} (h : e.Keeps) (c : Ctx) (f : Fields) : (e.among c f).Keeps := by
  cases e <;> exact h

theorem issueChecked_canonical {s : State} (h : s.Canonical) (c : Ctx) (opc : Nat) (f : Fields) {k : State → Ctx → Except Stop Go}
    (hk : Ends Go.Keeps (k s c)) : (issueChecked s c opc f k).Canonical := by
  unfold issueChecked
  split
  · exact takeFault_canonical h _ _ _ _ _
  · split
    · split
      · exact stopped_canonical h c (among_keeps (hk.error ‹_›) c f)
      · have h1 := hk.ok ‹k s c = .ok (.seq _)›
        exact advance_canonical h1 c f
      · have h1 := hk.ok ‹k s c = .ok (.placed _)›
        exact settleAt_canonical h1 _
    · exact takeFault_canonical h _ _ _ _ _

/-! ## Records and reservations -/

theorem recallShared_canonical {s : State} (h : s.Canonical) (line : Nat) : (recallShared s line).Canonical :=
  (writeBacks_canonical h (s.dir.filter fun d => d.line == line)).of_eq rfl rfl rfl

theorem readOwn_canonical {s : State} (h : s.Canonical) (line : Nat) (x : Holder) : (readOwn s line x).Canonical :=
  h.of_eq (readOwn_keeps (fun s => s.mem) (fun _ _ => rfl) (fun _ _ => rfl) ..) (readOwn_keeps (fun s => s.dcb) (fun _ _ => rfl) (fun _ _ => rfl) ..)
    (readOwn_keeps (fun s => s.frames) (fun _ _ => rfl) (fun _ _ => rfl) ..)

theorem settleRecords_canonical {s : State} (h : s.Canonical) : (settleRecords s).Canonical := by
  refine foldl_keeps (P := State.Canonical) (fun s x h => ite_canonical (fun _ => h) fun _ => ?_) _ h
  dsimp only
  cases e : putRecord { s with records := s.records.erase x } x with
  | none => exact doubleAt_canonical (s := { s with records := s.records.erase x }) h _
  | some t => exact putRecord_canonical (s := { s with records := s.records.erase x }) h e

theorem enterTrap_ends {s : State} (h : s.Canonical) (c : Ctx) (kind k : Nat) (p : W32) (ret : Nat) (rest : List Entry) (a : Nat) :
    Ends State.Canonical (enterTrap s c kind k p ret rest a) := by
  unfold enterTrap
  split
  · exact h
  · refine ite_ends (fun _ => h) fun _ => ?_
    split
    · trivial
    · have h1 := pinWrite_canonical h ‹_›
      exact h1

theorem leaveTrap_ends {s : State} (h : s.Canonical) (r : WRef) (oid : Nat) (m : W32) : Ends State.Canonical (leaveTrap s r oid m) := by
  cases e : leaveTrap s r oid m with
  | ok t => exact leaveTrap_canonical h e
  | error x =>
    unfold leaveTrap at e
    split at e
    · cases e
    · split at e
      · cases e
      · dsimp only at e
        split at e
        · split at e <;> cases e
          trivial
        · cases e

/-! ## Sources -/

theorem readQ_stops {s : State} (h : s.Canonical) (c : Ctx) (k : Nat) (rs : Reads) : StopKeeps (readQ s c k rs) := by
  unfold readQ
  split
  · exact ite_ends (fun _ => trivial) fun _ => trivial
  · split
    · exact ite_ends (fun _ => trivial) fun _ => h
    · trivial

theorem popE_stops {s : State} (h : s.Canonical) (c : Ctx) (w : Wave) (n : Nat) (scalar : Bool) : StopKeeps (popE s c w n scalar) := by
  unfold popE
  split
  · refine ite_ends (fun _ => trivial) fun _ => ?_
    split
    · exact h
    · trivial
  · split
    · exact h
    · trivial
  · refine ite_ends (fun _ => trivial) fun _ => ite_ends (fun _ => ?_) fun _ => ?_
    · dsimp only
      split
      · exact h
      · exact ite_ends (fun _ => trivial) fun _ => h
    · split
      · exact h
      · trivial
  · split
    · exact h
    · trivial
  · trivial

theorem readFrom_stops {s : State} (h : s.Canonical) (c : Ctx) (w : Wave) (o : Operand) (t : Ty) (scalar : Bool) (rs : Reads) :
    StopKeeps (readFrom s c w o t scalar rs) := by
  have const : ∀ x : Option Nat, StopKeeps (match x with
      | some v => .ok (List.replicate 32 v, w)
      | none => c.illegalOp : Except Stop (List Nat × Wave)) := by
    intro x; cases x <;> trivial
  unfold readFrom
  cases o with
  | v n => exact ite_ends (fun _ => trivial) fun _ => trivial
  | q k =>
    refine ite_ends (fun _ => trivial) fun _ => ite_ends (fun _ => ?_) fun _ => ?_
    · split
      · trivial
      · exact (readQ_stops h _ _ _).error ‹_›
      · exact (readQ_stops h _ _ _).error ‹_›
    · split
      · trivial
      · exact (readQ_stops h _ _ _).error ‹_›
  | s n => exact ite_ends (fun _ => trivial) fun _ => trivial
  | e n =>
    refine ite_ends (fun _ => trivial) fun _ => ?_
    split
    · trivial
    · exact (popE_stops h _ _ _ _).error ‹_›
  | lane =>
    refine ite_ends (fun _ => trivial) fun _ => ?_
    split <;> trivial
  | wave => exact const _
  | litHi => exact ite_ends (fun _ => trivial) fun _ => trivial
  | int n => exact const _
  | flt n => exact const _
  | _ => trivial

theorem readLanes_stops {s : State} (h : s.Canonical) (c : Ctx) (w : Wave) (opc : Nat) (f : Fields) (scalar : Bool) (rs : Reads) (k : Nat) :
    StopKeeps (readLanes s c w opc f scalar rs k) := by
  unfold readLanes
  dsimp only
  split
  · exact (readFrom_stops h _ _ _ _ _ _).error ‹_›
  · trivial

theorem readSrc_stops {s : State} (h : s.Canonical) (c : Ctx) (w : Wave) (opc : Nat) (f : Fields) (scalar : Bool) (act : W32) (k : Nat) :
    StopKeeps (readSrc s c w opc f scalar act k) := readLanes_stops h _ _ _ _ _ _ _

theorem readSrcs_stops {s : State} (h : s.Canonical) (c : Ctx) (opc : Nat) (f : Fields) (scalar : Bool) (act : W32) (ks : List Nat) (w : Wave) :
    StopKeeps (readSrcs s c opc f scalar act ks w) := by
  induction ks generalizing w with
  | nil => trivial
  | cons k t ih =>
    unfold readSrcs
    split
    · exact (readSrc_stops h _ _ _ _ _ _ _).error ‹_›
    · split
      · exact (ih _).error ‹_›
      · trivial

theorem addresses_stops {s : State} (h : s.Canonical) (c : Ctx) (w : Wave) (f : Fields) (stash scalar : Bool) (e : Nat) (act : W32) :
    StopKeeps (addresses s c w f stash scalar e act) := by
  have base : StopKeeps (baseVals s c w f.op1 stash scalar act) := ite_ends (fun _ => trivial) fun _ => readFrom_stops h _ _ _ _ _ _
  unfold addresses
  split
  · trivial
  · split
    · exact base.error ‹_›
    · trivial

theorem checkAccesses_stops {s : State} (h : s.Canonical) (c : Ctx) (stash : Bool) (acc : List (Nat × Nat × Need)) (n : Nat) (scalar : Bool) :
    StopKeeps (checkAccesses s c stash acc n scalar) := by
  unfold checkAccesses
  refine ite_ends (fun _ => h) fun _ => ?_
  split
  · trivial
  · trivial
  · exact h
  · exact ite_ends (fun _ => h) fun _ => ite_ends (fun _ => h) fun _ => ite_ends (fun _ => h) fun _ => trivial

theorem spotsOf_stops {s : State} (h : s.Canonical) (c : Ctx) (stash : Bool) (ls : List Nat) (addr : Nat → Nat) (n : Nat) (need : Need)
    (scalar : Bool) : StopKeeps (spotsOf s c stash ls addr n need scalar) := checkAccesses_stops h _ _ _ _ _

theorem needTenant_stops {s : State} (h : s.Canonical) (c : Ctx) : StopKeeps (needTenant s c) := by
  unfold needTenant
  split
  · trivial
  · exact ite_ends (fun _ => trivial) fun _ => ite_ends (fun _ => h) fun _ => trivial

/-! ## Results -/

theorem result_canonical {s : State} (h : s.Canonical) (c : Ctx) (w : Wave) (f : Fields) (o : Operand) (scalar long : Bool) (mask : W32)
    (lat : Nat) (ws : List (List W32)) (fl : Nat) : (result s c w f o scalar long mask lat ws fl).Canonical :=
  ite_canonical (fun _ => h) fun _ => h

theorem counted_canonical {s : State} (h : s.Canonical) (c : Ctx) (f : Fields) : (counted s c f).Canonical := h

theorem countPops_canonical {s : State} (h : s.Canonical) (c : Ctx) (f : Fields) (use : Nat) : (countPops s c f use).Canonical :=
  ite_canonical (fun _ => counted_canonical h c f) fun _ => h

theorem inFlight_canonical {s : State} (h : s.Canonical) (c : Ctx) (al : List Nat) (sp : List (Nat × Spot)) : (inFlight s c al sp).Canonical :=
  ite_canonical (fun _ => h) fun _ => h

/-- The instructions that compute a value from their value sources (R74). -/
theorem computing_keeps {s : State} (h : s.Canonical) (opc : Nat) (ks : List Nat) (pair : Bool) (lat : Nat) (long none : Bool)
    (fn : W32 → List Nat → Res) (f : Fields) : Keeps (computing opc ks pair lat long none fn f s) := by
  refine issue_keeps h fun s c h => ite_ends (fun _ => trivial) fun _ => ite_ends (fun _ => trivial) fun _ => ?_
  split
  · exact (readSrcs_stops h _ _ _ _ _ _ _).error ‹_›
  · exact result_canonical h _ _ _ _ _ _ _ _ _ _

end Sys2Proof.Machine
end

section
/-!
PROOF. The canonical forms: what engines take, loads and stores, windows, atomics and waits.
-/
namespace Sys2Proof.Machine

/-- A fold of steps that keep the canonical forms keeps them. -/
theorem foldl_canonical {β : Type} {g : State → β → State} (hg : ∀ s b, s.Canonical → (g s b).Canonical) (l : List β) {s : State}
    (h : s.Canonical) : (l.foldl g s).Canonical := foldl_keeps (P := State.Canonical) hg l h

/-- A choice over an option keeps what both arms keep. -/
theorem getD_canonical {o : Option State} {s : State} (ho : ∀ t, o = some t → t.Canonical) (h : s.Canonical) : (o.getD s).Canonical := by
  cases o with
  | none => exact h
  | some t => exact ho t rfl

/-! ## Stores and the lines that engines take -/

theorem storeLanes_canonical {s : State} (h : s.Canonical) (c : Ctx) (hint : Nat) (al : List Nat) (bs : List (List Byte))
    (sp : List (Nat × Spot)) : (storeLanes s c hint al bs sp).Canonical :=
  dcbWrite_canonical (foldl_canonical (fun _ _ h => storeAt_canonical h _ _ _ _ _ _) _ h) _

theorem fillSpot_canonical {s : State} (h : s.Canonical) (b : Block) (q : Spot) : (fillSpot s b q).Canonical := by
  unfold fillSpot
  split
  · split
    · exact fillWindow_canonical h _ _ _
    · exact h
  · exact h

/-- A fold that may fail keeps what each step that succeeds keeps. -/
theorem foldl_ok_keeps {ε σ β : Type} {P : σ → Prop} {g : Except ε σ → β → Except ε σ}
    (hg : ∀ x b, (∀ a, x = .ok a → P a) → ∀ a, g x b = .ok a → P a) (l : List β) {x : Except ε σ} (hx : ∀ a, x = .ok a → P a) :
    ∀ a, l.foldl g x = .ok a → P a :=
  foldl_keeps (P := fun x : Except ε σ => ∀ a, x = .ok a → P a) hg l hx

theorem fillRanges_canonical {s t : State} (h : s.Canonical) {b : Block} {wave : Nat} {wr : Bool} {rs : List (Nat × Nat)}
    (e : fillRanges s b wave wr rs = .ok t) : t.Canonical := by
  unfold fillRanges at e
  split at e
  · cases e; exact h
  · refine foldl_ok_keeps (P := State.Canonical) (fun x q hx u hu => ?_) _ ?_ t e
    · split at hu
      · cases hu
      · have h1 := hx _ rfl
        split at hu <;> cases hu
        · exact h1
        · exact fillSpot_canonical h1 _ _
    · intro u hu; cases hu; exact h

theorem takeLine_canonical {s : State} (h : s.Canonical) (b : Block) (id line : Nat) : (takeLine b id s line).Canonical := by
  have own : ∀ (x : Holder) (s : State), s.Canonical → (clearReservations (readOwn s line x) line).Canonical :=
    fun x s h => clearReservations_canonical (readOwn_canonical h line x) line
  unfold takeLine
  split
  · split
    · exact ite_canonical (fun _ => h) fun _ => own _ _ (fillWindow_canonical h _ _ _)
    · exact h
  · exact own _ _ h

theorem takeLines_canonical {s : State} (h : s.Canonical) (b : Block) (id : Nat) : (takeLines s b id).Canonical := by
  unfold takeLines
  dsimp only
  split
  · exact h
  · exact foldl_canonical (fun _ _ h => takeLine_canonical h _ _ _) _ h

theorem grantLines_canonical {s : State} (h : s.Canonical) : (grantLines s).Canonical := by
  refine foldl_canonical (fun s o h => ?_) _ h
  split
  · exact foldl_canonical (fun _ _ h => takeLine_canonical h _ _ _) _ h
  · exact h

theorem enterCopy_canonical {s : State} (h : s.Canonical) (c : Ctx) (data : List Byte) : (enterCopy s c data).Canonical := by
  have h1 := drainCore_canonical h c.b.die c.b.core
  exact takeLines_canonical (s := { (drainCore s c.b.die c.b.core).fresh.2 with copies := _ }) h1 _ _

theorem enqueue_canonical {s : State} (h : s.Canonical) (c : Ctx) (id : Nat) (kind : MKind) (data : List Byte) (start count : Nat)
    (op : Option Nat) : (enqueue c s id kind data start count op).Canonical :=
  takeLines_canonical (mapBlock_canonical (drainCore_canonical h _ _) _ _) _ _

/-! ## Loads and stores (R161 to R164) -/

theorem loading_keeps {s : State} (h : s.Canonical) (opc : Nat) (stash : Bool) (f : Fields) : Keeps (loading opc stash f s) := by
  refine issue_keeps h fun s c h => ite_ends (fun _ => trivial) fun _ => ?_
  split
  · exact (addresses_stops h _ _ _ _ _ _ _).error ‹_›
  · split
    · exact (spotsOf_stops h _ _ _ _ _ _ _).error ‹_›
    · exact inFlight_canonical (result_canonical (foldl_canonical (fun _ _ h => noteRead_canonical h _ _ _ _) _ h) ..) _ _ _

theorem storeBytes_stops {s : State} (h : s.Canonical) (c : Ctx) (opc : Nat) (f : Fields) (scalar : Bool) (act : W32) (k : Nat) :
    StopKeeps (storeBytes s c opc f scalar act k) := by
  refine ite_ends (fun _ => ?_) fun _ => ?_
  · split
    · exact (readSrc_stops h _ _ _ _ _ _ _).error ‹_›
    · trivial
  · split
    · exact ite_ends (fun _ => trivial) fun _ => trivial
    · exact ite_ends (fun _ => trivial) fun _ => trivial
    · trivial

theorem storing_keeps {s : State} (h : s.Canonical) (opc : Nat) (stash : Bool) (f : Fields) : Keeps (storing opc stash f s) := by
  refine issue_keeps h fun s c h => ite_ends (fun _ => trivial) fun _ => ?_
  split
  · exact (addresses_stops h _ _ _ _ _ _ _).error ‹_›
  · split
    · exact (storeBytes_stops h _ _ _ _ _ _).error ‹_›
    · split
      · exact (spotsOf_stops h _ _ _ _ _ _ _).error ‹_›
      · exact countPops_canonical (storeLanes_canonical (withWave_canonical h _ _) _ _ _ _ _) _ _ _

/-! ## Windows (R153 to R157) -/

theorem unmapWindow_canonical {s : State} (h : s.Canonical) (blk win : Nat) : (unmapWindow s blk win).Canonical := by
  unfold unmapWindow
  split
  · exact h
  · split
    · exact h
    · exact mapBlock_canonical (dropWindows_canonical h _ _ _) _ _

theorem execStmap_keeps {s : State} (h : s.Canonical) (f : Fields) : Keeps (execStmap f s) := by
  refine issue_keeps h fun s c h => ?_
  dsimp only
  split
  · refine ite_ends (fun _ => trivial) fun _ => ite_ends (fun _ => trivial) fun _ => ite_ends (fun _ => trivial) fun _ =>
      ite_ends (fun _ => trivial) fun _ => ?_
    split
    · exact h
    · trivial
    · exact ite_ends (fun _ => h) fun _ =>
        counted_canonical (mapBlock_canonical (drainPath_canonical (unmapWindow_canonical h _ _) _) _ _) _ _
  · trivial

theorem execStunmap_keeps {s : State} (h : s.Canonical) (f : Fields) : Keeps (execStunmap f s) := by
  refine issue_keeps h fun s c h => ?_
  split
  · exact ite_ends (fun _ => trivial) fun _ => ite_ends (fun _ => counted_canonical h _ _) fun _ => ite_ends (fun _ => h) fun _ =>
      counted_canonical (unmapWindow_canonical h _ _) _ _
  · trivial

theorem execStflush_keeps {s : State} (h : s.Canonical) (f : Fields) : Keeps (execStflush f s) := by
  refine issue_keeps h fun s c h => ?_
  split
  · exact ite_ends (fun _ => trivial) fun _ => counted_canonical (writeBackWindows_canonical h _ _) _ _
  · trivial

theorem prefetch_canonical {s : State} (h : s.Canonical) (c : Ctx) (hint a : Nat) : (prefetch s c hint a).Canonical := by
  unfold prefetch
  split
  · exact ite_canonical (fun _ => h) fun _ => noteRead_canonical h _ _ _ _
  · exact h

theorem execPref_keeps {s : State} (h : s.Canonical) (f : Fields) : Keeps (execPref f s) := by
  refine issue_keeps h fun s c h => ?_
  dsimp only
  split
  · exact (addresses_stops h _ _ _ _ _ _ _).error ‹_›
  · exact foldl_canonical (fun _ _ h => prefetch_canonical h _ _ _) _ h

/-! ## Atomics (R165 to R168) -/

theorem leaveRecord_canonical {s : State} (h : s.Canonical) (b : Block) (scope : Nat) (q : Spot) : (leaveRecord s b scope q).Canonical := by
  refine ite_canonical (fun _ => h) fun _ => ?_
  split <;> exact h

theorem atomRead_canonical {s : State} (h : s.Canonical) (b : Block) (n : Nat) (q : Spot) : (atomRead s b n q).2.Canonical := by
  unfold atomRead
  dsimp only
  split
  · exact drainLine_canonical h _ _
  · exact h

theorem atomHold_canonical {s : State} (h : s.Canonical) (b : Block) (scope hint : Nat) (q : Spot) : (atomHold s b scope hint q).Canonical := by
  unfold atomHold
  split
  · exact ite_canonical (fun _ => h) fun _ => ite_canonical (fun _ => uncacheLine_canonical h _) fun _ =>
      tagLines_canonical (readOwn_canonical h _ _) _ _
  · exact fillSpot_canonical h _ _

theorem atomWrite_canonical {s : State} (h : s.Canonical) (b : Block) (scope hint : Nat) (l : List Byte) (q : Spot) :
    (atomWrite s b scope hint l q).Canonical := by
  unfold atomWrite
  split
  · exact ite_canonical (fun _ => directWrite_canonical (drainLine_canonical h _ _) _ _) fun _ =>
      ite_canonical (fun _ => writeSpot_canonical h _ _ _ _) fun _ => writeSpot_canonical h _ _ _ _
  · exact writeSpot_canonical h _ _ _ _

theorem atomStep_canonical {s : State} (h : s.Canonical) (b : Block) (scope hint ord n : Nat) (q : Spot) (new : Nat → Option Nat) :
    (atomStep s b scope hint ord n q new).2.Canonical := by
  have h1 := atomHold_canonical (atomRead_canonical h b n q) b scope hint q
  unfold atomStep
  dsimp only
  split
  · exact h1
  · exact ite_canonical (fun _ => leaveRecord_canonical (atomWrite_canonical h1 _ _ _ _ _) _ _ _) fun _ => atomWrite_canonical h1 _ _ _ _ _

theorem atomLanes_canonical (b : Block) (scope hint ord n : Nat) (new : Nat → Nat → Option Nat) (l : List (Nat × Spot)) {s : State}
    (h : s.Canonical) : (atomLanes b scope hint ord n new l s).2.Canonical := by
  induction l generalizing s with
  | nil => exact h
  | cons p t ih => exact ih (atomStep_canonical h _ _ _ _ _ _ _)

theorem releaseFor_canonical {s : State} (h : s.Canonical) (b : Block) (scope ord : Nat) : (releaseFor s b scope ord).Canonical :=
  ite_canonical (fun _ => releaseAt_canonical h _ _) fun _ => h

theorem recallAcquired_canonical {s : State} (h : s.Canonical) (b : Block) (sp : List (Nat × Spot)) : (recallAcquired s b sp).Canonical :=
  foldl_canonical (fun _ _ h => recallShared_canonical h _) _ h

theorem atomic_ends {s : State} (h : s.Canonical) (opc : Nat) (f : Fields) (ret acquired : Bool) (srcs : List Nat)
    (new : List (List Nat) → Nat → Nat → Option Nat) (c : Ctx) : Ends Go.Keeps (atomic opc f ret acquired srcs new s c) := by
  refine ite_ends (fun _ => trivial) fun _ => ite_ends (fun _ => trivial) fun _ => ?_
  split
  · exact (addresses_stops h _ _ _ _ _ _ _).error ‹_›
  · rename_i al _ _
    split
    · exact (readSrcs_stops h _ _ _ _ _ _ _).error ‹_›
    · rename_i vs w1 _
      split
      · exact (spotsOf_stops h _ _ _ _ _ _ _).error ‹_›
      · rename_i sp _
        refine ite_ends (fun _ => recallAcquired_canonical h _ _) fun _ => ite_ends (fun _ => h) fun _ => ?_
        have h1 := atomLanes_canonical c.b f.scope f.hint.toNat f.ord (elemWidth f.ty / 8) (new vs) sp
          (foldl_canonical (fun _ (p : Nat × Spot) h => fillTlb_canonical h c.b.who ((al[p.1]?).getD 0)) sp
            (releaseFor_canonical (withWave_canonical h c w1) c.b f.scope f.ord))
        exact ite_ends (fun _ => inFlight_canonical (result_canonical h1 ..) _ _ _) fun _ => countPops_canonical h1 _ _ _

theorem atomRmw_ends {s : State} (h : s.Canonical) (opc : Nat) (ret acquired : Bool) (f : Fields) (c : Ctx) :
    Ends Go.Keeps (atomRmw opc ret acquired f s c) := by
  unfold atomRmw
  split
  · exact ite_ends (fun _ => trivial) fun _ => atomic_ends h _ _ _ _ _ _ _
  · trivial

theorem execAtom_keeps {s : State} (h : s.Canonical) (f : Fields) : Keeps (execAtom f s) :=
  issue_keeps h fun _ c h => atomRmw_ends h _ _ _ _ c

theorem execAtomr_keeps {s : State} (h : s.Canonical) (f : Fields) : Keeps (execAtomr f s) :=
  issue_keeps h fun _ c h => atomRmw_ends h _ _ _ _ c

theorem execCas_keeps {s : State} (h : s.Canonical) (f : Fields) : Keeps (execCas f s) :=
  issue_keeps h fun _ c h => atomic_ends h _ _ _ _ _ _ c

/-! ## LR and SC (R169) -/

theorem execLr_keeps {s : State} (h : s.Canonical) (f : Fields) : Keeps (execLr f s) := by
  refine issue_keeps h fun s c h => ite_ends (fun _ => trivial) fun _ => ?_
  split
  · exact (addresses_stops h _ _ _ _ _ _ _).error ‹_›
  · split
    · exact (spotsOf_stops h _ _ _ _ _ _ _).error ‹_›
    · dsimp only
      split
      · exact h
      · exact ite_ends (fun _ => trivial) fun _ =>
          result_canonical (noteRead_canonical (atomRead_canonical (fillTlb_canonical h _ _) _ _ _) _ _ _ _) ..

theorem execSc_keeps {s : State} (h : s.Canonical) (f : Fields) : Keeps (execSc f s) := by
  refine issue_keeps h fun s c h => ite_ends (fun _ => trivial) fun _ => ?_
  split
  · exact (addresses_stops h _ _ _ _ _ _ _).error ‹_›
  · split
    · exact (readSrcs_stops h _ _ _ _ _ _ _).error ‹_›
    · rename_i w1 _
      split
      · exact (spotsOf_stops h _ _ _ _ _ _ _).error ‹_›
      · dsimp only
        split
        · exact h
        · rename_i q _ _
          refine ite_ends (fun _ => trivial) fun _ => ite_ends (fun _ => h) fun _ => ?_
          have h1 := atomRead_canonical (releaseFor_canonical (withWave_canonical h c w1) c.b f.scope f.ord) c.b (elemWidth f.ty / 8) q
          exact result_canonical (ite_canonical (fun _ => atomWrite_canonical h1 _ _ _ _ _) fun _ => h1) ..

/-! ## FENCE and remote acquires (R170, R231 to R233) -/

theorem fenceGo_ends {s : State} (h : s.Canonical) (acquired : Bool) (f : Fields) (c : Ctx) : Ends Go.Keeps (fenceGo acquired f s c) := by
  refine ite_ends (fun _ => ?_) fun _ => ite_ends (fun _ => h) fun _ =>
    ite_ends (fun _ => releaseAt_canonical (drainCore_canonical h _ _) _ _) fun _ => h
  dsimp only
  split
  · exact (addresses_stops h _ _ _ _ _ _ _).error ‹_›
  · split
    · exact (spotsOf_stops h _ _ _ _ _ _ _).error ‹_›
    · exact ite_ends (fun _ => withWave_canonical h _ _) fun _ => recallAcquired_canonical h _ _

theorem execFence_keeps {s : State} (h : s.Canonical) (f : Fields) : Keeps (execFence f s) :=
  issue_keeps h fun _ c h => fenceGo_ends h _ _ c

theorem execPromote_keeps {s : State} (h : s.Canonical) (blk : Nat) : Keeps (execPromote blk s) := by
  unfold execPromote
  split
  · exact h
  · rename_i b _
    have h1 := releaseAt_canonical h b 5
    exact ite_keeps (fun _ => h1) fun _ => h

theorem execRacqProceed_keeps {s : State} (h : s.Canonical) (e : ERef) : Keeps (execRacqProceed e s) := by
  unfold execRacqProceed
  split
  · exact h
  · split
    · refine ite_keeps (fun _ => ?_) fun _ => h
      dsimp only
      split
      · exact issue_keeps h fun _ c h => atomRmw_ends h _ _ _ _ c
      · exact issue_keeps h fun _ c h => fenceGo_ends h _ _ c
      · exact h
    · exact h

/-! ## WAITA (R171) -/

theorem execWaita_keeps {s : State} (h : s.Canonical) (f : Fields) : Keeps (execWaita f s) := by
  refine issue_keeps h fun s c h => ite_ends (fun _ => trivial) fun _ => ?_
  split
  · exact (addresses_stops h _ _ _ _ _ _ _).error ‹_›
  · rename_i al _ _
    split
    · exact (readSrcs_stops h _ _ _ _ _ _ _).error ‹_›
    · rename_i w1 _
      dsimp only
      split
      · exact (spotsOf_stops h _ _ _ _ _ _ _).error ‹_›
      · rename_i sp _
        have h1 := countPops_canonical (foldl_canonical (fun _ (p : Nat × Spot) h =>
          noteRead_canonical h c.b f.hint.toNat ((al[p.1]?).getD 0) p.2) sp (withWave_canonical h c w1)) c f 0b11000
        exact ite_ends (fun _ => mapWave_canonical h1 _ _ _) fun _ => mapWave_canonical h1 _ _ _

theorem releaseWaita_canonical {s : State} (h : s.Canonical) (r : ERef) (b : Block) (e : Entry) (t : Watch) (sat : W32) :
    (releaseWaita s r b e t sat).Canonical := settleAt_canonical (mapWave_canonical h _ _ _) _

theorem execWaitaReevaluate_keeps {s : State} (h : s.Canonical) (e : ERef) : Keeps (execWaitaReevaluate e s) := by
  unfold execWaitaReevaluate
  split
  · split
    · exact ite_keeps (fun _ => releaseWaita_canonical h _ _ _ _ _) fun _ => h
    · exact h
  · exact h

theorem execWaitaTimeout_keeps {s : State} (h : s.Canonical) (e : ERef) : Keeps (execWaitaTimeout e s) := by
  unfold execWaitaTimeout
  split
  · split
    · split
      · exact ite_keeps (fun _ => releaseWaita_canonical h _ _ _ _ _) fun _ => h
      · exact h
    · exact h
  · exact h

/-! ## IADDC, ISUBB and MOV (R78, R82) -/

theorem carrying_keeps {s : State} (h : s.Canonical) (opc : Nat) (sub : Bool) (f : Fields) : Keeps (carrying opc sub f s) := by
  refine issue_keeps h fun s c h => ite_ends (fun _ => trivial) fun _ => ?_
  split
  · split
    · exact (readSrcs_stops h _ _ _ _ _ _ _).error ‹_›
    · exact ite_ends (fun _ => h) fun _ => h
  · trivial

/-- The count of what a MOV pops keeps what the MOV keeps. -/
theorem movPops_ends {x : Except Stop Go} (hx : Ends Go.Keeps x) (c : Ctx) (f : Fields) :
    Ends Go.Keeps (x.map fun g => match g with
      | .seq t => .seq (countPops t c f 0b00010)
      | g => g) := by
  refine hx.map fun g hg => ?_
  cases g with
  | seq t => exact countPops_canonical hg _ _ _
  | placed t => exact hg

theorem movToQueue_keeps {s : State} (h : s.Canonical) (n : Nat) (f : Fields) : Keeps (movToQueue n f s) := by
  refine issue_keeps h fun s c h => ?_
  have source := readSrcs_stops h c 0x015 f (isScalar 0x015 f) (c.parts f) [1] c.w
  dsimp only
  split
  · refine ite_ends (fun _ => trivial) fun _ => ?_
    split
    · exact (needTenant_stops h _).error ‹_›
    · split
      · exact source.error ‹_›
      · refine movPops_ends ?_ _ _
        exact enqueue_canonical (withWave_canonical (fresh_canonical h) c _) _ _ _ _ _ _ _
  · refine ite_ends (fun _ => trivial) fun _ => ite_ends (fun _ => h) fun _ => ?_
    split
    · exact source.error ‹_›
    · exact movPops_ends (x := .ok (.seq _)) (withWave_canonical h c _) _ _
  · refine ite_ends (fun _ => trivial) fun _ => ite_ends (fun _ => h) fun _ => ?_
    split
    · exact source.error ‹_›
    · refine movPops_ends ?_ _ _
      exact ite_ends (fun _ => ite_ends (fun _ => h) fun _ => enterCopy_canonical (withWave_canonical h _ _) _ _) fun _ => h
  · refine ite_ends (fun _ => trivial) fun _ => ite_ends (fun _ => h) fun _ => ?_
    split
    · exact source.error ‹_›
    · exact movPops_ends (x := .ok (.seq _)) (withWave_canonical h c _) _ _
  · trivial

theorem execMov_keeps {s : State} (h : s.Canonical) (f : Fields) : Keeps (execMov f s) := by
  unfold execMov
  split
  · exact movToQueue_keeps h _ _
  · exact computing_keeps h _ _ _ _ _ _ _ _

end Sys2Proof.Machine
end

section
/-!
PROOF. The canonical forms: barriers, the ready pool, pixels, textures and the raster engine, and Canopy.
-/
namespace Sys2Proof.Machine

/-! ## Barriers (R142, R143, R216 to R218) -/

theorem releaseHeld_canonical {s : State} (h : s.Canonical) (blk : Nat) : (releaseHeld s blk).Canonical := by
  unfold releaseHeld
  split
  · exact h
  · exact mapBlock_canonical h _ _

theorem showWindows_canonical {s : State} (h : s.Canonical) (blk : Nat) : (showWindows s blk).Canonical := h
theorem fillBarrier_canonical {s : State} (h : s.Canonical) (blk : Nat) : (fillBarrier s blk).Canonical := h

theorem gangArrive_canonical {s : State} (h : s.Canonical) (g : Gang) (blk : Nat) (kind : BarKind) (addr : Nat) :
    (gangArrive s g blk kind addr).1.Canonical := by
  unfold gangArrive
  dsimp only
  split
  · exact h
  · split <;> exact h

theorem barrierFault_canonical {s : State} (h : s.Canonical) (b : Block) : (barrierFault s b).Canonical := by
  unfold barrierFault
  dsimp only
  split
  · exact fatalFault_canonical h _ _ _ _ _ _ _ _
  · exact fatalFault_canonical h _ _ _ _ _ _ _ _

theorem barrierFull_canonical {s : State} (h : s.Canonical) (b : Block) (br : Barrier) : (barrierFull s b br).Canonical := by
  unfold barrierFull
  split
  · exact showWindows_canonical (releaseHeld_canonical h _) _
  · exact fillBarrier_canonical h _
  · split
    · exact showWindows_canonical (releaseHeld_canonical (drainCore_canonical h _ _) _) _
    · exact ite_canonical (fun _ => fillBarrier_canonical (gangArrive_canonical (drainCore_canonical h _ _) _ _ _ _) _)
        fun _ => barrierFault_canonical h _
  · split
    · exact fillBarrier_canonical h _
    · exact ite_canonical (fun _ => fillBarrier_canonical (gangArrive_canonical h _ _ _ _) _) fun _ => barrierFault_canonical h _

theorem checkBarrier_canonical {s : State} (h : s.Canonical) (blk : Nat) : (checkBarrier s blk).Canonical := by
  unfold checkBarrier
  split
  · exact h
  · split
    · exact h
    · exact ite_canonical (fun _ => barrierFull_canonical h _ _) fun _ => h

theorem settleBarriers_canonical {s : State} (h : s.Canonical) : (settleBarriers s).Canonical :=
  foldl_canonical (fun _ _ h => checkBarrier_canonical h _) _ h

theorem checkBarriers_canonical {s : State} (h : s.Canonical) (die core : Nat) : (checkBarriers s die core).Canonical :=
  foldl_canonical (fun _ _ h => checkBarrier_canonical h _) _ h

theorem checkClaims_canonical {s : State} (h : s.Canonical) (blk : Nat) : (checkClaims s blk).Canonical := by
  unfold checkClaims
  split
  · exact h
  · refine ite_canonical (fun _ => ?_) fun _ => h
    split
    · exact h
    · exact fatalFault_canonical h _ _ _ _ _ _ _ _

theorem settleClaims_canonical {s : State} (h : s.Canonical) : (settleClaims s).Canonical :=
  foldl_canonical (fun _ _ h => checkClaims_canonical h _) _ h

theorem arrive_ends {s : State} (h : s.Canonical) (c : Ctx) (f : Fields) (kind : BarKind) (tmpl : Nat) (key : Operand) :
    Ends Go.Keeps (arrive s c f kind tmpl key) :=
  ite_ends (fun _ => trivial) fun _ => checkClaims_canonical (checkBarrier_canonical (mapEntry_canonical (mapBlock_canonical h _ _) _ _) _) _

/-! ## The ready pool (R236 to R248) -/

theorem ownerWrite_canonical {s t : State} (h : s.Canonical) {oid va : Nat} {l : List Byte} (e : ownerWrite s oid va l = .ok t) :
    t.Canonical := by
  unfold ownerWrite at e
  split at e <;> cases e
  exact hwWrite_canonical h _ _ _

theorem postPage_canonical {s : State} (h : s.Canonical) (oid va : Nat) (who : PfWho) : (postPage s oid va who).Canonical := h

theorem refuseLaunch_canonical {s : State} (h : s.Canonical) (q : Submission) (cls detail entry vaddr : Nat) :
    (refuseLaunch s q cls detail entry vaddr).Canonical := by
  have h1 := raiseRecord_canonical h (Record.plain cls q.oid q.glade q.die entry vaddr 0 detail)
  exact ite_canonical (fun _ => h1) fun _ => h1

theorem submit_canonical {s : State} (h : s.Canonical) {q : Submission} {denied : Option Nat} {r : State × Bool}
    (e : submit s q denied = .ok r) : r.1.Canonical := by
  have bad : ∀ (x : AccFault) (va entry : Nat), (if x = .page ∧ denied ≠ some va then .error va
      else .ok (refuseLaunch s q x.cls x.detail entry va, false) : Except Nat (State × Bool)) = .ok r → r.1.Canonical := by
    intro x va entry e
    split at e <;> cases e
    exact refuseLaunch_canonical h _ _ _ _ _
  unfold submit at e
  dsimp only at e
  split at e
  · exact bad _ _ _ e
  · split at e
    · cases e; exact refuseLaunch_canonical h _ _ _ _ _
    · split at e
      · exact bad _ _ _ e
      · cases e; exact h

theorem phaseFault_canonical {s : State} (h : s.Canonical) (l : Launch) (p : Phase) (cls detail vaddr : Nat) :
    (phaseFault s l p cls detail vaddr).Canonical := by
  have h1 := removePhase_canonical (raiseRecord_canonical h (phaseRecord l p l.die cls detail vaddr)) p
  exact ite_canonical (fun _ => h1) fun _ => phaseDouble_canonical h1 _ _ _ _

theorem stalePhase_canonical {s : State} (h : s.Canonical) (l : Launch) (p : Phase) (key : Nat) (gen : W16) :
    (stalePhase s l p key gen).Canonical := phaseFault_canonical h _ _ _ _ _

theorem readyPhase_canonical {s : State} (h : s.Canonical) (uid : Nat) : (readyPhase s uid).Canonical :=
  mapPhase_canonical (setPhase_canonical (fresh_canonical h) _ _) _ _

theorem gatePhase_canonical {s : State} (h : s.Canonical) (l : Launch) (p : Phase) : (gatePhase s l p).Canonical := by
  unfold gatePhase
  split
  · exact readyPhase_canonical h _
  · exact phaseDouble_canonical h _ _ _ _
  · exact setPhase_canonical h _ _

theorem chargePass_canonical {s : State} (h : s.Canonical) (die oid : Nat) : (chargePass s die oid).Canonical := h
theorem noteEligible_canonical {s : State} (h : s.Canonical) (die : Nat) : (noteEligible s die).Canonical := h

/-! ## Pixels (R337 to R341) -/

theorem layerRecord_stops {s : State} (h : s.Canonical) (c : Ctx) (d : Nat) : StopKeeps (c.layerRecord s d) := by
  refine ite_ends (fun _ => trivial) fun _ => ite_ends (fun _ => h) fun _ => ?_
  split <;> trivial

theorem coordOperand_stops {s : State} (h : s.Canonical) (c : Ctx) (o : Operand) (act : W32) : StopKeeps (coordOperand s c o act) := by
  unfold coordOperand
  split
  · exact readFrom_stops h _ _ _ _ _ _
  · exact readFrom_stops h _ _ _ _ _ _
  · exact readFrom_stops h _ _ _ _ _ _
  · trivial

theorem storePixel_canonical {s : State} (h : s.Canonical) (c : Ctx) (at0 : Nat × Nat × Nat) (hint va : Nat) (l : List Byte) (q : Spot) :
    (storePixel s c at0 hint va l q).Canonical := by
  have h1 := storeAt_canonical h c (some at0) hint va l q
  unfold storePixel
  dsimp only
  split
  · split
    · exact dcbWrite_canonical h1 _
    · exact h1
  · exact h1

theorem pixelsStored_canonical {s : State} (h : s.Canonical) (c : Ctx) (f : Fields) (d fmt n : Nat) (xy : List Nat) (tgt : Nat → Option Nat)
    (sp : List (Nat × Spot)) : (pixelsStored s c f d fmt n xy tgt sp).Canonical :=
  foldl_canonical (fun _ _ h => storePixel_canonical h _ _ _ _ _ _) _ h

theorem execPxst_keeps {s : State} (h : s.Canonical) (f : Fields) : Keeps (execPxst f s) := by
  refine issue_keeps h fun s c h => ?_
  dsimp only
  split
  · exact (coordOperand_stops h _ _ _).error ‹_›
  · split
    · exact (layerRecord_stops h _ _).error ‹_›
    · refine ite_ends (fun _ => trivial) fun _ => ?_
      split
      · exact (checkAccesses_stops h _ _ _ _ _).error ‹_›
      · have h1 := fun d fmt n xy tgt sp w => pixelsStored_canonical (withWave_canonical h c w) c f d fmt n xy tgt sp
        split
        · exact h1 _ _ _ _ _ _ _
        · exact noteFault_canonical (h1 _ _ _ _ _ _ _) _ _ _ _ _
  · trivial

theorem execPxld_keeps {s : State} (h : s.Canonical) (f : Fields) : Keeps (execPxld f s) := by
  refine issue_keeps h fun s c h => ?_
  dsimp only
  split
  · exact (coordOperand_stops h _ _ _).error ‹_›
  · split
    · exact (layerRecord_stops h _ _).error ‹_›
    · refine ite_ends (fun _ => trivial) fun _ => ?_
      split
      · exact (checkAccesses_stops h _ _ _ _ _).error ‹_›
      · exact inFlight_canonical
          (result_canonical (foldl_canonical (fun _ _ h => noteRead_canonical h _ _ _ _) _ (withWave_canonical h _ _)) ..) _ _ _
  · trivial

/-! ## Textures and the raster engine (R350 to R355) -/

theorem sampling_ends {s : State} (h : s.Canonical) (c : Ctx) (w : Wave) (f : Fields) (act : W32) (t cv : Nat) (lam : Nat → Nat) :
    Ends Go.Keeps (sampling s c w f act t cv lam) := by
  unfold sampling
  dsimp only
  split
  · exact (checkAccesses_stops h _ _ _ _ _).error ‹_›
  · rename_i sp _
    have h1 := fun acc v ws al => inFlight_canonical (result_canonical (foldl_canonical
      (fun _ (p : (Nat × Spot) × Nat × Nat × Need) h => noteRead_canonical h c.b f.hint.toNat p.2.2.1 p.1.2) (sp.zip acc) (withWave_canonical h c w))
      c v f f.op0 false true act 0 ws 0) c al sp
    split
    · exact h1 _ _ _ _
    · exact noteFault_canonical (h1 _ _ _ _) _ _ _ _ _

theorem execTex_keeps {s : State} (h : s.Canonical) (f : Fields) : Keeps (execTex f s) := by
  refine issue_keeps h fun s c h => ?_
  dsimp only
  split
  · refine ite_ends (fun _ => trivial) fun _ => ?_
    split
    · exact (readFrom_stops h _ _ _ _ _ _).error ‹_›
    · exact sampling_ends h _ _ _ _ _ _ _
  · trivial

theorem execTexf_keeps {s : State} (h : s.Canonical) (f : Fields) : Keeps (execTexf f s) := by
  refine issue_keeps h fun s c h => ?_
  dsimp only
  split
  · exact ite_ends (fun _ => trivial) fun _ => sampling_ends h _ _ _ _ _ _ _
  · trivial

theorem execRast_keeps {s : State} (h : s.Canonical) (f : Fields) : Keeps (execRast f s) := by
  refine issue_keeps h fun s c h => ?_
  dsimp only
  split
  · refine ite_ends (fun _ => trivial) fun _ => ?_
    split
    · exact (readFrom_stops h _ _ _ _ _ _).error ‹_›
    · refine ite_ends (fun _ => withWave_canonical h _ _) fun _ => ite_ends (fun _ => trivial) fun _ => ite_ends (fun _ => trivial) fun _ => ?_
      split
      · trivial
      · have h1 := fillRanges_canonical h ‹_›
        exact ite_ends (fun _ => h) fun _ =>
          takeLines_canonical (withWave_canonical (fresh_canonical (drainCore_canonical h1 _ _)) _ _) _ _
  · trivial

/-! ## Canopy (R330 to R349) -/

theorem setMapCmds_canonical {s : State} (h : s.Canonical) (l : List MapCmd) : ({ s with mapCmds := l } : State).Canonical := h
theorem setCaptures_canonical {s : State} (h : s.Canonical) (l : List Nat) : ({ s with captures := l } : State).Canonical := h
theorem setScans_canonical {s : State} (h : s.Canonical) (l : List Scan) : ({ s with scans := l } : State).Canonical := h

theorem summarise_canonical {s : State} (h : s.Canonical) (d r : Nat) : (summarise s d r).Canonical :=
  foldl_canonical (fun _ _ h => writePhys_canonical h _ _) _ h

theorem applyMap_canonical {s : State} (h : s.Canonical) (m : MapCmd) : (applyMap s m).Canonical :=
  setRegBits_canonical (summarise_canonical (foldl_canonical (fun _ _ h => writePhys_canonical h _ _) _ h) _ _) _ _ _ _

theorem applyMaps_canonical {s : State} (h : s.Canonical) (d : Nat) : (applyMaps s d).Canonical := by
  have h1 := foldl_canonical (fun _ m h => applyMap_canonical h m)
    ((drainPath s (pixelLine s d)).mapCmds.filter fun m => m.d == d) (drainPath_canonical h (pixelLine s d))
  exact h1.of_eq rfl rfl rfl

theorem writeMapop_canonical {s : State} (h : s.Canonical) (d v : Nat) : (writeMapop s d v).Canonical := by
  have h1 := fun o => setRegBits_canonical (setRegBits_canonical h o 16 2 (bitsOf v 16 2)) o 0 16 (bitsOf v 0 16)
  have h2 := fun o st => setRegBits_canonical (h1 o) o 24 4 st
  refine ite_canonical (fun _ => h) fun _ => ite_canonical (fun _ => h1 _) fun _ => ite_canonical (fun _ => h2 _ _) fun _ =>
    ite_canonical (fun _ => setMapCmds_canonical (setRegBits_canonical (h2 _ _) _ _ _ _) _) fun _ =>
      applyMap_canonical (drainPath_canonical (h2 _ _) _) _

theorem execMapCommand_keeps {s : State} (h : s.Canonical) (d : Nat) (v : W32) : Keeps (execMapCommand d v s) :=
  ite_keeps (fun _ => h) fun _ => writeMapop_canonical h _ _

theorem endCapture_canonical {s : State} (h : s.Canonical) (d err : Nat) : (endCapture s d err).Canonical :=
  (setRegBits_canonical (setRegBits_canonical h (capOff d) 15 1 err) (capOff d) 14 1 0).of_eq rfl rfl rfl

theorem writeCapctl_canonical {s : State} (h : s.Canonical) (d v : Nat) : (writeCapctl s d v).Canonical := by
  have h1 := setRegBits_canonical (setRegBits_canonical h (capOff d) 16 32 (bitsOf v 16 32)) (capOff d) 0 12 (bitsOf v 0 12)
  exact ite_canonical (fun _ => h) fun _ => ite_canonical (fun _ => h1) fun _ => ite_canonical (fun _ => endCapture_canonical h1 _ _) fun _ =>
    setCaptures_canonical (setRegBits_canonical (setRegBits_canonical h1 _ _ _ _) _ _ _ _) _

theorem execCaptureStart_keeps {s : State} (h : s.Canonical) (d : Nat) (v : W64) : Keeps (execCaptureStart d v s) :=
  ite_keeps (fun _ => h) fun _ => writeCapctl_canonical h _ _

theorem writeDctl_canonical {s : State} (h : s.Canonical) (d v : Nat) : (writeDctl s d v).Canonical := by
  have h1 : (if mapsWait s d then s else applyMaps s d).Canonical := ite_canonical (fun _ => h) fun _ => applyMaps_canonical h d
  refine ite_canonical (fun _ => ite_canonical (fun _ => setRegBits_canonical h _ _ _ _) fun _ => setReg_canonical h _ _) fun _ => ?_
  exact (setReg_canonical (ite_canonical (fun _ => endCapture_canonical h1 d 1) fun _ => h1) (dispOff d) _).of_eq rfl rfl rfl

theorem execDisplayEnable_keeps {s : State} (h : s.Canonical) (d : Nat) (v : W64) : Keeps (execDisplayEnable d v s) :=
  ite_keeps (fun _ => h) fun _ => writeDctl_canonical h _ _

theorem execDisplayDisable_keeps {s : State} (h : s.Canonical) (d : Nat) (v : W64) : Keeps (execDisplayDisable d v s) :=
  ite_keeps (fun _ => h) fun _ => writeDctl_canonical h _ _

theorem settleMaps_canonical {s : State} (h : s.Canonical) : (settleMaps s).Canonical :=
  ite_canonical (fun _ => h) fun _ => foldl_canonical (fun _ _ h => ite_canonical (fun _ => h) fun _ => applyMaps_canonical h _) _ h

theorem latchTable_canonical {s : State} (h : s.Canonical) (d : Nat) : (latchTable s d).Canonical := h
theorem dropLatch_canonical {s : State} (h : s.Canonical) (d oid : Nat) : (dropLatch s d oid).Canonical := h

theorem pinAll_canonical {s t : State} (h : s.Canonical) {oid : Nat} {l : List (Nat × List Byte)} (e : pinAll s oid l = some t) :
    t.Canonical := by
  refine foldl_keeps (P := fun x : Option State => ∀ t, x = some t → t.Canonical) (fun x p hx t e => ?_) l ?_ t e
  · split at e
    · cases e
    · exact pinWrite_canonical (hx _ rfl) e
  · intro t e; cases e; exact h

theorem latchLayer_canonical {a : State × List Used} (h : a.1.Canonical) (d f oid : Nat) : (latchLayer d f a oid).1.Canonical := by
  obtain ⟨s, us⟩ := a
  replace h : s.Canonical := h
  unfold latchLayer
  dsimp only
  split
  · exact h
  · split
    · exact doubleFault_canonical (dropLatch_canonical h d oid) _ _ _
    · exact h
    · split
      · exact h
      · split
        · refine doubleFault_canonical ?_ _ _ _
          split <;> exact h
        · refine pinAll_canonical ?_ ‹_›
          split <;> exact h

theorem captureAll_canonical (coid base pitch x0 y0 : Nat) (l : List (Nat × Nat × Nat)) {s : State} (h : s.Canonical) :
    (captureAll coid base pitch x0 y0 l s).1.Canonical := by
  induction l generalizing s with
  | nil => exact h
  | cons p t ih =>
    unfold captureAll
    split
    · exact ih (ownerWrite_canonical h ‹_›)
    · exact h

theorem performCapture_canonical {s : State} (h : s.Canonical) (d f : Nat) (us : List Used) : (performCapture s d f us).Canonical := by
  have h1 := fun coid base pitch x0 y0 l => captureAll_canonical coid base pitch x0 y0 l h
  refine ite_canonical (fun _ => h) fun _ => ite_canonical (fun _ => endCapture_canonical (h1 _ _ _ _ _ _) _ _) fun _ => ?_
  split
  · exact endCapture_canonical (ownerWrite_canonical (h1 _ _ _ _ _ _) ‹_›) _ _
  · exact endCapture_canonical (h1 _ _ _ _ _ _) _ _

theorem frameBegun_canonical {s : State} (h : s.Canonical) (d : Nat) : (frameBegun s d).Canonical :=
  latchTable_canonical (applyMaps_canonical (setReg_canonical h _ _) d) d

theorem latchAll_canonical {s : State} (h : s.Canonical) {d : Nat} {a : State × List Used} (e : latchAll s d = a) : a.1.Canonical := by
  subst e
  exact foldl_keeps (P := fun a : State × List Used => a.1.Canonical) (fun _ _ h => latchLayer_canonical h _ _ _) _ h

theorem execFrameStart_keeps {s : State} (h : s.Canonical) (d : Nat) : Keeps (execFrameStart d s) := by
  unfold execFrameStart
  split
  · exact h
  · extract_lets s1 f
    split
    have h1 := latchAll_canonical (frameBegun_canonical h d) ‹latchAll s1 d = _›
    exact performCapture_canonical (setScans_canonical h1 _) d f _

end Sys2Proof.Machine
end

section
/-!
PROOF. The canonical forms: bit planes, tests, predicates, lanes, branches, masks and special registers.
-/
namespace Sys2Proof.Machine

/-! ## Bit planes, tests and predicates (R69, R70, R99 to R102) -/

theorem execBpack_keeps {s : State} (h : s.Canonical) (f : Fields) : Keeps (execBpack f s) := by
  refine issue_keeps h fun s c h => ite_ends (fun _ => trivial) fun _ => ?_
  split
  · exact (readSrcs_stops h _ _ _ _ _ _ _).error ‹_›
  · exact result_canonical h ..

theorem execBunpk_keeps {s : State} (h : s.Canonical) (f : Fields) : Keeps (execBunpk f s) := by
  refine issue_keeps h fun s c h => ite_ends (fun _ => trivial) fun _ => ?_
  split
  · refine ite_ends (fun _ => trivial) fun _ => ?_
    split
    · exact (readSrcs_stops h _ _ _ _ _ _ _).error ‹_›
    · exact result_canonical h ..
  · trivial

theorem testing_keeps {s : State} (h : s.Canonical) (opc lat : Nat) (code : Fields → Bool) (fn : W32 → List Nat → Bool × Nat) (f : Fields) :
    Keeps (testing opc lat code fn f s) := by
  refine issue_keeps h fun s c h => ite_ends (fun _ => trivial) fun _ => ?_
  split
  · exact (readSrcs_stops h _ _ _ _ _ _ _).error ‹_›
  · exact result_canonical h ..

theorem execSel_keeps {s : State} (h : s.Canonical) (f : Fields) : Keeps (execSel f s) := by
  refine issue_keeps h fun s c h => ite_ends (fun _ => trivial) fun _ => ?_
  split
  · trivial
  · split
    · exact (readSrcs_stops h _ _ _ _ _ _ _).error ‹_›
    · exact result_canonical h ..

theorem execPlop_keeps {s : State} (h : s.Canonical) (f : Fields) : Keeps (execPlop f s) := by
  refine issue_keeps h fun s c h => ?_
  dsimp only
  split
  · split
    · trivial
    · exact ite_ends (fun _ => trivial) fun _ => withWave_canonical h _ _
  · trivial

theorem execPtov_keeps {s : State} (h : s.Canonical) (f : Fields) : Keeps (execPtov f s) := by
  refine issue_keeps h fun s c h => ite_ends (fun _ => trivial) fun _ => ?_
  split
  · trivial
  · exact result_canonical h ..

theorem execVtop_keeps {s : State} (h : s.Canonical) (f : Fields) : Keeps (execVtop f s) := by
  refine issue_keeps h fun s c h => ?_
  dsimp only
  split
  · trivial
  · split
    · exact (readSrcs_stops h _ _ _ _ _ _ _).error ‹_›
    · exact result_canonical h ..

/-! ## Lanes (R104 to R107) -/

theorem execShfl_keeps {s : State} (h : s.Canonical) (f : Fields) : Keeps (execShfl f s) := by
  refine issue_keeps h fun s c h => ite_ends (fun _ => trivial) fun _ => ?_
  split
  · exact (readSrc_stops h _ _ _ _ _ _ _).error ‹_›
  · dsimp only
    split
    · exact (readLanes_stops h _ _ _ _ _ _ _).error ‹_›
    · exact result_canonical h ..

theorem execTlu_keeps {s : State} (h : s.Canonical) (f : Fields) : Keeps (execTlu f s) := by
  refine issue_keeps h fun s c h => ?_
  dsimp only
  split
  · refine ite_ends (fun _ => trivial) fun _ => ite_ends (fun _ => trivial) fun _ => ?_
    split
    · exact (readSrcs_stops h _ _ _ _ _ _ _).error ‹_›
    · exact result_canonical h ..
  · trivial

theorem zipping_keeps {s : State} (h : s.Canonical) (opc : Nat) (unz : Bool) (k : Nat) (f : Fields) : Keeps (zipping opc unz k f s) := by
  refine issue_keeps h fun s c h => ite_ends (fun _ => trivial) fun _ => ?_
  dsimp only
  split
  · obtain ⟨i, _, hi⟩ := List.mem_map.mp (List.mem_of_find?_eq_some ‹_›)
    exact (readLanes_stops h _ _ _ _ _ _ _).error hi
  · exact result_canonical h ..

theorem execVote_keeps {s : State} (h : s.Canonical) (f : Fields) : Keeps (execVote f s) := by
  refine issue_keeps h fun s c h => ?_
  dsimp only
  split
  · exact ite_ends (fun _ => trivial) fun _ => ite_ends (fun _ => trivial) fun _ => result_canonical h ..
  · trivial

/-! ## Collectives (R108 to R112) -/

theorem treeSource_stops {s : State} (h : s.Canonical) (c : Ctx) (opc : Nat) (f : Fields) (need : W32) :
    StopKeeps (treeSource s c opc f need) := by
  unfold treeSource
  split
  · split
    · exact h
    · trivial
  · split
    · exact (readSrc_stops h _ _ _ _ _ _ _).error ‹_›
    · trivial

theorem towardE6_canonical {s : State} (h : s.Canonical) (c : Ctx) (w : Wave) (f : Fields) (act : W32) (x fl : Nat) :
    (towardE6 s c w f act x fl).Canonical := h

theorem execReduce_keeps {s : State} (h : s.Canonical) (f : Fields) : Keeps (execReduce f s) := by
  refine issue_keeps h fun s c h => ?_
  dsimp only
  split
  · trivial
  · refine ite_ends (fun _ => h) fun _ => ?_
    split
    · exact (treeSource_stops h _ _ _ _).error ‹_›
    · exact towardE6_canonical h _ _ _ _ _ _

theorem execWscan_keeps {s : State} (h : s.Canonical) (f : Fields) : Keeps (execWscan f s) := by
  refine issue_keeps h fun s c h => ?_
  dsimp only
  split
  · trivial
  · refine ite_ends (fun _ => trivial) fun _ => ?_
    split
    · exact (readSrcs_stops h _ _ _ _ _ _ _).error ‹_›
    · exact result_canonical h ..

theorem execRdlane_keeps {s : State} (h : s.Canonical) (f : Fields) : Keeps (execRdlane f s) := by
  refine issue_keeps h fun s c h => ?_
  dsimp only
  split
  · trivial
  · refine ite_ends (fun _ => trivial) fun _ => ite_ends (fun _ => h) fun _ => ?_
    split
    · exact (treeSource_stops h _ _ _ _).error ‹_›
    · exact towardE6_canonical h _ _ _ _ _ _

/-! ## Branches (R113 to R115) -/

theorem branch_canonical {s : State} (h : s.Canonical) (c : Ctx) (f : Fields) (act : W32) (tgt : Nat → BitVec 60) :
    (branch s c f act tgt).Canonical := h
theorem calling_canonical {s : State} (h : s.Canonical) (c : Ctx) (f : Fields) (tgt : Nat → BitVec 60) : (calling s c f tgt).Canonical := h

theorem absTargets_stops {s : State} (h : s.Canonical) (c : Ctx) (opc : Nat) (f : Fields) (act : W32) :
    StopKeeps (absTargets s c opc f act) := by
  refine ite_ends (fun _ => trivial) fun _ => ?_
  split
  · exact (readSrcs_stops h _ _ _ _ _ _ _).error ‹_›
  · dsimp only
    split <;> trivial

theorem execBra_keeps {s : State} (h : s.Canonical) (f : Fields) : Keeps (execBra f s) := by
  refine issue_keeps h fun s c h => ?_
  split
  · trivial
  · exact ite_ends (fun _ => trivial) fun _ => branch_canonical h _ _ _ _

theorem execBrx_keeps {s : State} (h : s.Canonical) (f : Fields) : Keeps (execBrx f s) := by
  refine issue_keeps h fun s c h => ?_
  split
  · exact (absTargets_stops h _ _ _ _).error ‹_›
  · exact branch_canonical h _ _ _ _

theorem execRet_keeps {s : State} (h : s.Canonical) (f : Fields) : Keeps (execRet f s) := by
  refine issue_keeps h fun s c h => ?_
  split
  · exact (absTargets_stops h _ _ _ _).error ‹_›
  · exact branch_canonical h _ _ _ _

theorem execCall_keeps {s : State} (h : s.Canonical) (f : Fields) : Keeps (execCall f s) := by
  refine issue_keeps h fun s c h => ?_
  split
  · exact ite_ends (fun _ => trivial) fun _ => calling_canonical h _ _ _
  · trivial

theorem execCallB64_keeps {s : State} (h : s.Canonical) (f : Fields) : Keeps (execCallB64 f s) := by
  refine issue_keeps h fun s c h => ite_ends (fun _ => ?_) fun _ => trivial
  split
  · exact (absTargets_stops h _ _ _ _).error ‹_›
  · exact calling_canonical h _ _ _

theorem execExit_keeps {s : State} (h : s.Canonical) (f : Fields) : Keeps (execExit f s) := by
  refine issue_keeps h fun s c h => ite_ends (fun _ => h) fun _ => ?_
  split
  · exact (leaveTrap_ends (mapWave_canonical h _ _ _) _ _ _).error ‹_›
  · have h1 := (leaveTrap_ends (mapWave_canonical h _ _ _) _ _ _).ok ‹_›
    exact checkClaims_canonical (checkBarrier_canonical (checkDeadlock_canonical (settleAt_canonical h1 _) _) _) _

/-! ## Masks, NOP, YIELD and the special registers (R116 to R122) -/

theorem execJoinm_keeps {s : State} (h : s.Canonical) (f : Fields) : Keeps (execJoinm f s) := by
  refine issue_keeps h fun s c h => ?_
  split
  · trivial
  · exact withWave_canonical h _ _

theorem execLeavem_keeps {s : State} (h : s.Canonical) (f : Fields) : Keeps (execLeavem f s) := by
  refine issue_keeps h fun s c h => ?_
  split
  · trivial
  · exact withWave_canonical h _ _

theorem execWaitm_keeps {s : State} (h : s.Canonical) (f : Fields) : Keeps (execWaitm f s) := by
  refine issue_keeps h fun s c h => ?_
  split
  · trivial
  · exact ite_ends (fun _ => h) fun _ => ite_ends (fun _ => withWave_canonical h _ _) fun _ =>
      checkDeadlock_canonical (settleAt_canonical (withWave_canonical h _ _) _) _

theorem execMskmov_keeps {s : State} (h : s.Canonical) (f : Fields) : Keeps (execMskmov f s) := by
  refine issue_keeps h fun s c h => ?_
  dsimp only
  split
  · split
    · trivial
    · exact ite_ends (fun _ => h) fun _ => withWave_canonical h _ _
  · exact ite_canonical (fun _ => h) fun _ => withWave_canonical h _ _
  · exact withWave_canonical h _ _
  · exact ite_ends (fun _ => trivial) fun _ => result_canonical h ..
  · trivial

theorem execNop_keeps {s : State} (h : s.Canonical) (f : Fields) : Keeps (execNop f s) := issue_keeps h fun _ _ h => h

theorem yieldFor_canonical {s : State} (h : s.Canonical) (c : Ctx) (k : Nat) : (yieldFor s c k).Canonical := h

theorem execYield_keeps {s : State} (h : s.Canonical) (f : Fields) : Keeps (execYield f s) := by
  refine issue_keeps h fun s c h => ?_
  split
  · exact ite_ends (fun _ => trivial) fun _ => yieldFor_canonical h _ _
  · trivial

theorem execMfsr_keeps {s : State} (h : s.Canonical) (f : Fields) : Keeps (execMfsr f s) := by
  refine issue_keeps h fun s c h => ?_
  dsimp only
  split
  · exact ite_ends (fun _ => trivial) fun _ => ite_ends (fun _ => h) fun _ => result_canonical h ..
  · trivial

theorem execMtsr_keeps {s : State} (h : s.Canonical) (f : Fields) : Keeps (execMtsr f s) := by
  refine issue_keeps h fun s c h => ?_
  dsimp only
  split
  · trivial
  · exact ite_ends (fun _ => trivial) fun _ => withWave_canonical h _ _

end Sys2Proof.Machine
end

section
/-!
PROOF. The canonical forms: requests and grants, the matrix engine, the copy engine and gang barriers.
-/
namespace Sys2Proof.Machine

/-! ## Requests, releases and grants (R131 to R140) -/

theorem completeEntry_canonical {s : State} (h : s.Canonical) (r : ERef) : (completeEntry s r).Canonical := by
  unfold completeEntry
  split
  · exact h
  · exact advance_canonical h _ _

theorem readCount_stops (c : Ctx) (o : Operand) : StopKeeps (readCount c o) := by
  unfold readCount
  split
  · exact ite_ends (fun _ => trivial) fun _ => trivial
  · trivial
  · trivial

theorem pend_canonical {s : State} (h : s.Canonical) (c : Ctx) (kind k : Nat) : (pend s c kind k).Canonical := h

theorem giveUnits_canonical {s : State} (h : s.Canonical) (blk wave kind k : Nat) : (giveUnits s blk wave kind k).Canonical := by
  unfold giveUnits
  split
  · exact mapWave_canonical h _ _ _
  · exact mapBlock_canonical h _ _
  · exact mapBlock_canonical h _ _

theorem request_keeps {s : State} (h : s.Canonical) (opc kind : Nat) (cnt : Operand) (f : Fields) : Keeps (request opc kind cnt f s) := by
  refine issue_keeps h fun s c h => ?_
  split
  · exact (readCount_stops _ _).error ‹_›
  · refine ite_ends (fun _ => h) fun _ => ?_
    split
    · trivial
    · exact ite_ends (fun _ => giveUnits_canonical h _ _ _ _) fun _ => giveUnits_canonical h _ _ _ _
    · exact pend_canonical h _ _ _

theorem acquire_keeps {s : State} (h : s.Canonical) (f : Fields) : Keeps (acquire f s) := by
  unfold acquire
  split
  · exact issue_keeps h fun _ _ _ => trivial
  · exact request_keeps h _ _ _ _

theorem execCarveGet_keeps {s : State} (h : s.Canonical) (f : Fields) : Keeps (execCarveGet f s) :=
  ite_keeps (fun _ => request_keeps h _ _ _ _) fun _ => issue_keeps h fun _ _ _ => trivial

theorem reportStatus_canonical {s : State} (h : s.Canonical) (c : Ctx) (f : Fields) (status : Nat) : (reportStatus s c f status).Canonical := h

theorem tryRequest_ends {s : State} (h : s.Canonical) (kind : Nat) (f : Fields) (c : Ctx) : Ends Go.Keeps (tryRequest kind f s c) := by
  refine ite_ends (fun _ => trivial) fun _ => ?_
  split
  · exact (readCount_stops _ _).error ‹_›
  · refine ite_ends (fun _ => reportStatus_canonical h _ _ _) fun _ => ?_
    split
    · trivial
    · exact reportStatus_canonical h _ _ _
    · exact reportStatus_canonical h _ _ _
    · have h1 := fun k => reportStatus_canonical (giveUnits_canonical h c.ref.blk c.ref.wave kind k) c f 0
      exact ite_ends (fun _ => h1 _) fun _ => h1 _

theorem execAcqt_keeps {s : State} (h : s.Canonical) (f : Fields) : Keeps (execAcqt f s) := by
  refine issue_keeps h fun s c h => ?_
  split
  · trivial
  · exact tryRequest_ends h _ _ _

theorem execCarveTry_keeps {s : State} (h : s.Canonical) (f : Fields) : Keeps (execCarveTry f s) :=
  issue_keeps h fun _ c h => tryRequest_ends h _ _ c

theorem retest_canonical {s : State} (h : s.Canonical) (die core : Nat) : (retest s die core).Canonical := h

theorem execRel_keeps {s : State} (h : s.Canonical) (f : Fields) : Keeps (execRel f s) := by
  refine issue_keeps h fun s c h => ?_
  split
  · trivial
  · split
    · exact (readCount_stops _ _).error ‹_›
    · exact ite_ends (fun _ => h) fun _ => ite_ends
        (fun _ => ite_ends (fun _ => trivial) fun _ => ite_ends (fun _ => h) fun _ => retest_canonical (withWave_canonical h _ _) _ _)
        fun _ => ite_ends (fun _ => trivial) fun _ => ite_ends (fun _ => h) fun _ => retest_canonical (mapBlock_canonical h _ _) _ _

theorem execGive_keeps {s : State} (h : s.Canonical) (f : Fields) : Keeps (execGive f s) := by
  refine issue_keeps h fun s c h => ?_
  split
  · exact (readCount_stops _ _).error ‹_›
  · exact ite_ends (fun _ => h) fun _ => ite_ends (fun _ => trivial) fun _ => ite_ends (fun _ => h) fun _ =>
      mapBlock_canonical (withWave_canonical h _ _) _ _

theorem takeSpare_canonical {s : State} (h : s.Canonical) (blk wave half k : Nat) : (takeSpare s blk wave half k).Canonical := by
  unfold takeSpare
  split
  · exact h
  · exact mapWave_canonical (mapBlock_canonical h _ _) _ _ _

theorem execClaim_keeps {s : State} (h : s.Canonical) (f : Fields) : Keeps (execClaim f s) := by
  refine issue_keeps h fun s c h => ?_
  split
  · exact (readCount_stops _ _).error ‹_›
  · exact ite_ends (fun _ => h) fun _ => ite_ends (fun _ => trivial) fun _ => ite_ends (fun _ => takeSpare_canonical h _ _ _ _) fun _ =>
      checkClaims_canonical (mapEntry_canonical (pend_canonical h _ _ _) _ _) _

theorem execCarvePut_keeps {s : State} (h : s.Canonical) (f : Fields) : Keeps (execCarvePut f s) := by
  refine issue_keeps h fun s c h => ?_
  split
  · exact (readCount_stops _ _).error ‹_›
  · exact ite_ends (fun _ => h) fun _ => ite_ends (fun _ => trivial) fun _ => ite_ends (fun _ => h) fun _ =>
      retest_canonical (mapBlock_canonical (foldl_canonical (fun _ _ h => unmapWindow_canonical h _ _) _ h) _ _) _ _

theorem execPendingGrant_keeps {s : State} (h : s.Canonical) (die core : Nat) : Keeps (execPendingGrant die core s) := by
  unfold execPendingGrant
  split
  · exact h
  · rename_i r _
    have h1 : ({ s with requests := s.requests.erase r } : State).Canonical := h
    dsimp only
    split
    · exact h
    · exact h
    · exact ite_keeps (fun _ => completeEntry_canonical (takeSpare_canonical h1 _ _ _ _) _) fun _ =>
        ite_keeps (fun _ => mapEntry_canonical (giveUnits_canonical h1 _ _ _ _) _ _) fun _ =>
          completeEntry_canonical (giveUnits_canonical h1 _ _ _ _) _
    · exact takeFault_canonical h1 _ _ _ _ _
    · exact h

theorem execSlotChangeEffect_keeps {s : State} (h : s.Canonical) (blk : Nat) : Keeps (execSlotChangeEffect blk s) := by
  unfold execSlotChangeEffect
  split
  · exact h
  · exact ite_keeps (fun _ => foldl_canonical (fun _ _ h => completeEntry_canonical h _) _
      (ite_canonical (fun _ => h) fun _ => mapBlock_canonical h _ _)) fun _ => h

/-! ## Arrivals -/

theorem execPhase_keeps {s : State} (h : s.Canonical) (f : Fields) : Keeps (execPhase f s) := by
  refine issue_keeps h fun s c h => ?_
  split
  · exact ite_ends (fun _ => trivial) fun _ => ite_ends (fun _ => trivial) fun _ => ite_ends (fun _ => trivial) fun _ =>
      ite_ends (fun _ => trivial) fun _ => arrive_ends h _ _ _ _ _
  · trivial

theorem execBar_keeps {s : State} (h : s.Canonical) (f : Fields) : Keeps (execBar f s) := issue_keeps h fun _ c h => arrive_ends h c _ _ _ _
theorem execGbar_keeps {s : State} (h : s.Canonical) (f : Fields) : Keeps (execGbar f s) := issue_keeps h fun _ c h => arrive_ends h c _ _ _ _

theorem execRegroup_keeps {s : State} (h : s.Canonical) (f : Fields) : Keeps (execRegroup f s) := by
  refine issue_keeps h fun s c h => ?_
  split
  · exact ite_ends (fun _ => arrive_ends h _ _ _ _ _) fun _ => trivial
  · split
    · trivial
    · exact ite_ends (fun _ => arrive_ends h _ _ _ _ _) fun _ => trivial
  · trivial

/-! ## Matrix commands (R187 to R205) -/

theorem capture_ends {s : State} (h : s.Canonical) (c : Ctx) (off unit n : Nat) :
    Ends (fun r : List Byte × State => r.2.Canonical) (capture s c off unit n) := by
  refine ite_ends (fun _ => trivial) fun _ => ite_ends (fun _ => trivial) fun _ => ?_
  split
  · trivial
  · trivial
  · exact ite_ends (fun _ => h) fun _ => ite_ends (fun _ => h) fun _ => fillSpot_canonical h _ _

theorem hasTenant_stops (c : Ctx) : StopKeeps (hasTenant c) := by
  unfold hasTenant
  split <;> trivial

theorem enqueueCounted_canonical {s : State} (h : s.Canonical) (c : Ctx) (f : Fields) (kind : MKind) (data : List Byte) :
    (enqueueCounted s c f kind data).Canonical := mapWave_canonical (enqueue_canonical (fresh_canonical h) c _ _ _ _ _ _) _ _ _

theorem execMwld_keeps {s : State} (h : s.Canonical) (f : Fields) : Keeps (execMwld f s) := by
  refine issue_keeps h fun s c h => ?_
  split
  · trivial
  · exact (needTenant_stops h _).error ‹_›
  · split
    · exact (capture_ends h _ _ _ _).error ‹_›
    · have h1 := (capture_ends h _ _ _ _).ok ‹_›
      exact enqueueCounted_canonical h1 _ _ _ _

theorem execMrun_keeps {s : State} (h : s.Canonical) (f : Fields) : Keeps (execMrun f s) := by
  refine issue_keeps h fun s c h => ?_
  split
  · trivial
  · exact (needTenant_stops h _).error ‹_›
  · split
    · exact (capture_ends h _ _ _ _).error ‹_›
    · have h1 := (capture_ends h _ _ _ _).ok ‹_›
      exact enqueueCounted_canonical h1 _ _ _ _

theorem execMswap_keeps {s : State} (h : s.Canonical) (f : Fields) : Keeps (execMswap f s) := by
  refine issue_keeps h fun s c h => ?_
  split
  · exact (needTenant_stops h _).error ‹_›
  · exact enqueue_canonical (fresh_canonical h) _ _ _ _ _ _ _

theorem execMinit_keeps {s : State} (h : s.Canonical) (f : Fields) : Keeps (execMinit f s) := by
  refine issue_keeps h fun s c h => ?_
  have source : Ends (fun r : List Byte × State => r.2.Canonical) (if f.op3 = .zero then .ok ([], s)
      else match offsetOperand c f.op3 128 false with
        | none => c.illegalOp
        | some off => capture s c off 128 128) := by
    refine ite_ends (fun _ => h) fun _ => ?_
    split
    · trivial
    · exact capture_ends h _ _ _ _
  dsimp only
  split
  · refine ite_ends (fun _ => trivial) fun _ => ?_
    split
    · exact source.error ‹_›
    · exact (needTenant_stops h _).error ‹_›
    · have h1 := source.ok ‹_›
      exact enqueue_canonical (fresh_canonical h1) _ _ _ _ _ _ _
  · trivial

theorem execMrda_keeps {s : State} (h : s.Canonical) (f : Fields) : Keeps (execMrda f s) := by
  refine issue_keeps h fun s c h => ?_
  split
  · refine ite_ends (fun _ => trivial) fun _ => ?_
    split
    · exact (needTenant_stops h _).error ‹_›
    · exact mapWave_canonical (enqueue_canonical (fresh_canonical h) _ _ _ _ _ _ _) _ _ _
  · trivial

theorem execMrdaOvf_keeps {s : State} (h : s.Canonical) (f : Fields) : Keeps (execMrdaOvf f s) := by
  refine issue_keeps h fun s c h => ite_ends (fun _ => trivial) fun _ => ?_
  split
  · exact (needTenant_stops h _).error ‹_›
  · exact mapWave_canonical (enqueue_canonical (fresh_canonical h) _ _ _ _ _ _ _) _ _ _

theorem execMsync_keeps {s : State} (h : s.Canonical) (f : Fields) : Keeps (execMsync f s) := by
  refine issue_keeps h fun s c h => ?_
  split
  · exact (hasTenant_stops _).error ‹_›
  · exact ite_ends (fun _ => h) fun _ => h

theorem execEnqE0_keeps {s : State} (h : s.Canonical) (f : Fields) : Keeps (execEnqE0 f s) := by
  refine issue_keeps h fun s c h => ?_
  split
  · refine ite_ends (fun _ => trivial) fun _ => ?_
    split
    · exact (needTenant_stops h _).error ‹_›
    · exact enqueue_canonical (fresh_canonical h) _ _ _ _ _ _ _
  · trivial

theorem enqElements_stops {s : State} (h : s.Canonical) (c : Ctx) (o : Operand) (n : Nat) (act : W32) :
    StopKeeps (enqElements s c o n act) := by
  unfold enqElements
  split
  · exact ite_ends (fun _ => trivial) fun _ => trivial
  · refine ite_ends (fun _ => trivial) fun _ => ?_
    refine foldl_keeps (P := fun x : Except Stop (List (List W32)) => StopKeeps x) (fun x i hx => ?_) _ trivial
    split
    · exact hx
    · split
      · exact (readQ_stops h _ _ _).error ‹_›
      · trivial
  · trivial

theorem movedSome_ends {α : Type} {P : α → Prop} {s : State} (h : s.Canonical) (c : Ctx) (k : Nat) : Ends P (movedSome s c k) := h

theorem execEnqE1_keeps {s : State} (h : s.Canonical) (f : Fields) : Keeps (execEnqE1 f s) := by
  refine issue_keeps h fun s c h => ?_
  split
  · refine ite_ends (fun _ => trivial) fun _ => ?_
    dsimp only
    split
    · exact (enqElements_stops h _ _ _ _).error ‹_›
    · exact (hasTenant_stops _).error ‹_›
    · exact ite_ends (fun _ => h) fun _ => ite_ends (fun _ => withWave_canonical h _ _) fun _ => movedSome_ends (withWave_canonical h _ _) _ _
  · trivial

theorem execDeq_keeps {s : State} (h : s.Canonical) (f : Fields) : Keeps (execDeq f s) := by
  refine issue_keeps h fun s c h => ?_
  split
  · refine ite_ends (fun _ => trivial) fun _ => ?_
    split
    · exact (hasTenant_stops _).error ‹_›
    · exact ite_ends (fun _ => h) fun _ => ite_ends (fun _ => result_canonical h ..) fun _ => movedSome_ends (result_canonical h ..) _ _
  · trivial

theorem mten_keeps {s : State} (h : s.Canonical) (f : Fields) {k : State → Ctx → W32 → Except Stop Go}
    (hk : ∀ s c a, s.Canonical → Ends Go.Keeps (k s c a)) : Keeps (mten f k s) := by
  refine issue_keeps h fun s c h => ite_ends (fun _ => trivial) fun _ => ?_
  split
  · exact ite_ends (fun _ => trivial) fun _ => hk _ _ _ h
  · trivial

theorem onTenant_canonical {s : State} (h : s.Canonical) (c : Ctx) (a : W32) (g : Tenant → Tenant) : (onTenant s c a g).Canonical := by
  unfold onTenant
  split
  · exact h
  · exact mapBlock_canonical h _ _

theorem execMtenQuiesce_keeps {s : State} (h : s.Canonical) (f : Fields) : Keeps (execMtenQuiesce f s) :=
  mten_keeps h f fun _ c a h => onTenant_canonical h c a _

theorem execMtenResume_keeps {s : State} (h : s.Canonical) (f : Fields) : Keeps (execMtenResume f s) :=
  mten_keeps h f fun _ c a h => onTenant_canonical h c a _

theorem execMtenReset_keeps {s : State} (h : s.Canonical) (f : Fields) : Keeps (execMtenReset f s) := by
  refine mten_keeps h f fun s c a h => ?_
  split
  · exact h
  · exact foldl_canonical (fun _ _ h => settleAt_canonical h _) _ (mapBlock_canonical h _ _)

theorem execMtenCtr_keeps {s : State} (h : s.Canonical) (f : Fields) : Keeps (execMtenCtr f s) :=
  mten_keeps h f fun _ _ _ h => ite_ends (fun _ => trivial) fun _ => result_canonical h ..

/-! ## The matrix engine (R187 to R208) -/

theorem setTenant_canonical {s : State} (h : s.Canonical) (blk : Nat) (t : Tenant) : (s.setTenant blk t).Canonical := h

theorem finishOp_canonical {s : State} (h : s.Canonical) (b : Block) (q : MCmd) (vals : List (List W32)) : (finishOp s b q vals).Canonical := by
  unfold finishOp
  split
  · exact h
  · exact mapWave_canonical h _ _ _

theorem engineFault_canonical {s : State} (h : s.Canonical) (b : Block) (q : MCmd) (detail : Nat) : (engineFault s b q detail).Canonical :=
  fatalFault_canonical (mapBlock_canonical h _ _) _ _ _ _ _ _ _ _

theorem commandRefused_canonical {s : State} (h : s.Canonical) (b : Block) (q : MCmd) (off detail : Nat) :
    (commandRefused s b q off detail).Canonical := fatalFault_canonical h _ _ _ _ _ _ _ _

theorem execMwldExecute_keeps {s : State} (h : s.Canonical) (blk : Nat) : Keeps (execMwldExecute blk s) := by
  unfold execMwldExecute
  split
  · exact h
  · split
    · exact engineFault_canonical h _ _ _
    · split
      · exact commandRefused_canonical h _ _ _ _
      · exact finishOp_canonical (setTenant_canonical (fillRanges_canonical h ‹_›) _ _) _ _ _

theorem execMswapExecute_keeps {s : State} (h : s.Canonical) (blk : Nat) : Keeps (execMswapExecute blk s) := by
  unfold execMswapExecute
  split
  · exact h
  · exact setTenant_canonical h _ _

theorem execMinitExecute_keeps {s : State} (h : s.Canonical) (blk : Nat) : Keeps (execMinitExecute blk s) := by
  unfold execMinitExecute
  split
  · exact h
  · exact ite_keeps (fun _ => engineFault_canonical h _ _ _) fun _ => finishOp_canonical (setTenant_canonical h _ _) _ _ _

theorem execMrdaExecute_keeps {s : State} (h : s.Canonical) (blk : Nat) : Keeps (execMrdaExecute blk s) := by
  unfold execMrdaExecute
  split
  · exact finishOp_canonical (setTenant_canonical h _ _) _ _ _
  · split
    · exact h
    · exact ite_keeps (fun _ => engineFault_canonical h _ _ _) fun _ => finishOp_canonical (setTenant_canonical h _ _) _ _ _

theorem mrunRows_canonical (blk : Nat) (q : MCmd) (p n row : Nat) {s : State} (h : s.Canonical) : (mrunRows blk q p n row s).2.Canonical := by
  induction n generalizing row s with
  | zero => exact h
  | succ n ih =>
    unfold mrunRows
    split
    · exact h
    · split
      · dsimp only
        split
        · exact h
        · split
          · exact h
          · refine ih _ (ite_canonical (fun _ => writeStashFor_canonical ?_ _ _ _ _) fun _ => ?_) <;> exact h
      · exact h

theorem mrunFills_canonical {s t : State} (h : s.Canonical) {b : Block} {u : Tenant} {q : MCmd} (e : mrunFills s b u q = .ok t) :
    t.Canonical := by
  unfold mrunFills at e
  dsimp only at e
  split at e
  · cases e
  · exact fillRanges_canonical (fillRanges_canonical h ‹_›) e

theorem execMrunExecute_keeps {s : State} (h : s.Canonical) (blk : Nat) : Keeps (execMrunExecute blk s) := by
  unfold execMrunExecute
  split
  · exact h
  · rename_i b t q _
    dsimp only
    split
    · exact engineFault_canonical h _ _ _
    · split
      · exact commandRefused_canonical h _ _ _ _
      · rename_i s0 e
        have h1 := fun q p n row => mrunRows_canonical blk q p n row (mrunFills_canonical h e)
        split
        · exact h1 _ _ _ _
        · split
          · exact h1 _ _ _ _
          · exact ite_keeps (fun _ => h) fun _ => ite_keeps (fun _ => setTenant_canonical (h1 _ _ _ _) _ _) fun _ =>
              finishOp_canonical (ite_canonical (fun _ => writeStashFor_canonical (setTenant_canonical (h1 _ _ _ _) _ _) _ _ _ _)
                fun _ => setTenant_canonical (h1 _ _ _ _) _ _) _ _ _

theorem clkTenants_canonical {s : State} (h : s.Canonical) : (clkTenants s).Canonical := ite_canonical (fun _ => h) fun _ => h

/-! ## The copy engine (R220 to R224) -/

theorem execCpy_keeps {s : State} (h : s.Canonical) (f : Fields) : Keeps (execCpy f s) := by
  refine issue_keeps h fun s c h => ite_ends (fun _ => trivial) fun _ => ite_ends (fun _ => h) fun _ => ?_
  split
  · trivial
  · split
    · exact (capture_ends h _ _ _ _).error ‹_›
    · have h1 := (capture_ends h _ _ _ _).ok ‹_›
      exact enterCopy_canonical h1 _ _

theorem execCpyS_keeps {s : State} (h : s.Canonical) (f : Fields) : Keeps (execCpyS f s) := by
  refine issue_keeps h fun s c h => ?_
  split
  · exact ite_ends (fun _ => trivial) fun _ => ite_ends (fun _ => h) fun _ => enterCopy_canonical h _ _
  · trivial

/-- However a copy's movement ends, its state has the canonical forms. -/
def Moved.Keeps : Moved → Prop
  | .done s | .page _ _ _ s | .prot _ _ s => s.Canonical

theorem moveRow_keeps (blk wave cid r row : Nat) (saved : List (Option Nat × Nat × Byte)) (free : Nat → Nat → Bool) (n i : Nat) {s : State}
    (h : s.Canonical) : (moveRow blk wave cid r row saved free n i s).Keeps := by
  induction n generalizing i s with
  | zero => exact h
  | succ n ih =>
    unfold moveRow
    split
    · exact h
    · split
      · exact h
      · dsimp only
        split
        · exact h
        · exact h
        · exact h
        · rename_i l s1 e
          have h1 : s1.Canonical := by
            split at e
            · split at e <;> cases e
              exact fillSpot_canonical h _ _
            · cases e; exact h
          split
          · exact h1
          · exact h1
          · exact h1
          · exact ih _ (writeSpot_canonical (s := { s1 with free := s1.free + _ }) h1 _ _ _ _)

theorem moveRows_keeps (blk wave cid r : Nat) (saved : List (Option Nat × Nat × Byte)) (free : Nat → Nat → Bool) (n row byte : Nat) {s : State}
    (h : s.Canonical) : (moveRows blk wave cid r saved free n row byte s).Keeps := by
  induction n generalizing row byte s with
  | zero => exact h
  | succ n ih =>
    have h1 := moveRow_keeps blk wave cid r row saved free (cWidth r + 1) byte h
    unfold moveRows
    split
    · exact h
    · split
      · rename_i e
        rw [e] at h1
        exact ih _ _ h1
      · exact h1

theorem mapCopy_canonical {s : State} (h : s.Canonical) (cid : Nat) (g : Copy → Copy) : (s.mapCopy cid g).Canonical := h

theorem copyFault_canonical {s : State} (h : s.Canonical) (b : Block) (c : Copy) (cls detail vaddr : Nat) :
    (copyFault s b c cls detail vaddr).Canonical := fatalFault_canonical h _ _ _ _ _ _ _ _

theorem copyPage_canonical {s : State} (h : s.Canonical) (b : Block) (c : Copy) (va row byte : Nat) : (copyPage s b c va row byte).Canonical := h

theorem copyWord_canonical {s t : State} (h : s.Canonical) {b : Block} {c : Copy} (e : copyWord s b c = .ok t) : t.Canonical := by
  unfold copyWord at e
  dsimp only at e
  split at e
  · cases e; exact h
  · split at e <;> cases e
    exact writeSpot_canonical (releaseAt_canonical h _ _) _ _ _ _

theorem copyTaken_canonical {s : State} (h : s.Canonical) (b : Block) (c : Copy) : (copyTaken s b c).Canonical := by
  have h1 : (if c.begun then s else { s with robin := spSet 0 (b.grovePlace c.wave).1 (b.grovePlace c.wave).2 s.robin }).Canonical :=
    ite_canonical (fun _ => h) fun _ => h
  exact mapCopy_canonical (drainCore_canonical h1 _ _) _ _

theorem execCopyExecute_keeps {s : State} (h : s.Canonical) (cid : Nat) : Keeps (execCopyExecute cid s) := by
  unfold execCopyExecute
  split
  · exact h
  · rename_i c _
    split
    · exact h
    · rename_i b _
      refine ite_keeps (fun _ => h) fun _ => ?_
      dsimp only
      split
      · exact copyFault_canonical h _ _ _ _ _
      · have h1 := moveRows_keeps c.blk c.wave cid c.record.toNat (copySaved (copyTaken s b c) b c)
          (copyOverlap (copyTaken s b c) (b.seenBy c.wave) c.record.toNat) (cRows c.record.toNat) c.row c.byte (copyTaken_canonical h b c)
        split
        · rename_i e; rw [e] at h1; exact copyPage_canonical h1 _ _ _ _ _
        · rename_i e; rw [e] at h1; exact copyFault_canonical h1 _ _ _ _ _
        · rename_i e
          rw [e] at h1
          split
          · exact copyPage_canonical h1 _ _ _ _ _
          · exact copyFault_canonical h1 _ _ _ _ _
          · exact copyFault_canonical h1 _ _ _ _ _
          · have h2 := copyWord_canonical h1 ‹_›
            exact ite_keeps (fun _ => mapCopy_canonical h2 _ _) fun _ => h2

theorem execCopyStatusPush_keeps {s : State} (h : s.Canonical) (cid : Nat) : Keeps (execCopyStatusPush cid s) := by
  unfold execCopyStatusPush
  split
  · exact h
  · split
    · exact ite_keeps (fun _ => h) fun _ => h
    · exact ite_keeps (fun _ => h) fun _ => h

theorem execGbarComplete_keeps {s : State} (h : s.Canonical) (gang : Nat) : Keeps (execGbarComplete gang s) := by
  unfold execGbarComplete
  split
  · exact h
  · rename_i g _
    have h1 := foldl_canonical (fun _ m h => releaseHeld_canonical h m) g.arrived h
    exact ite_keeps (fun _ => h1) fun _ => h

end Sys2Proof.Machine
end

section
/-!
PROOF. The canonical forms: queues, launches and pre-emption requests, traps and service calls.
-/
namespace Sys2Proof.Machine

/-- Where there is a state, it has the canonical forms. -/
def SomeKeeps : Option State → Prop
  | some t => t.Canonical
  | none => True

theorem SomeKeeps.some {o : Option State} {t : State} (ho : SomeKeeps o) (e : o = some t) : t.Canonical := by
  subst e; exact ho

theorem ite_someKeeps {p : Prop} [Decidable p] {a b : Option State} (ha : p → SomeKeeps a) (hb : ¬ p → SomeKeeps b) :
    SomeKeeps (if p then a else b) := by
  split
  · exact ha ‹_›
  · exact hb ‹_›

/-! ## Queues (R243, R244) -/

theorem dropArrived_canonical {s : State} (h : s.Canonical) (q : Nat) : (dropArrived s q).Canonical := h

theorem stopQueue_canonical {s : State} (h : s.Canonical) (q cls detail vaddr : Nat) : (stopQueue s q cls detail vaddr).Canonical :=
  dropArrived_canonical (raiseRecord_canonical (setRegBits_canonical h _ _ _ _) _) _

theorem queueFault_canonical {s : State} (h : s.Canonical) (q : Nat) (denied : Option Nat) (x : AccFault) (va : Nat) :
    (queueFault s q denied x va).Canonical :=
  ite_canonical (fun _ => postPage_canonical h _ _ _) fun _ => stopQueue_canonical h _ _ _ _

theorem holdTail_canonical {s : State} (h : s.Canonical) (q : Nat) : (holdTail s q).Canonical := by
  unfold holdTail
  split
  · exact h
  · exact ite_canonical (fun _ => setDir_canonical (readShared_canonical h _ _) _) fun _ => h

theorem execQueueArrival_keeps {s : State} (h : s.Canonical) (qid : Nat) : Keeps (execQueueArrival qid s) :=
  ite_keeps (fun _ => h) fun _ => h

theorem bumpHead_canonical {s : State} (h : s.Canonical) (q head : Nat) : (bumpHead s q head).Canonical := by
  unfold bumpHead
  split
  · have h1 := dropArrived_canonical (ownerWrite_canonical h ‹_›) q
    exact h1
  · exact stopQueue_canonical h _ _ _ _

/-- An entry of KIND 1 is taken as the request for a run (R244). -/
theorem takeRun_canonical {s : State} (h : s.Canonical) (q head : Nat) (r : RunReq) :
    (bumpHead { s with runReqs := s.runReqs ++ [r] } q head).Canonical := by
  have h1 : ({ s with runReqs := s.runReqs ++ [r] } : State).Canonical := h
  exact bumpHead_canonical h1 q head

theorem acceptEntry_keeps {s : State} (h : s.Canonical) (q : Nat) (denied : Option Nat) : SomeKeeps (acceptEntry s q denied) := by
  unfold acceptEntry
  extract_lets s1
  have h1 : s1.Canonical := holdTail_canonical h q
  clear_value s1
  refine ite_someKeeps (fun _ => dropArrived_canonical h1 _) fun _ => ite_someKeeps (fun _ => trivial) fun _ => ?_
  split
  · exact queueFault_canonical h1 _ _ _ _
  · extract_lets n
    clear_value n
    refine ite_someKeeps (fun _ => dropArrived_canonical h1 _) fun _ => ite_someKeeps (fun _ => stopQueue_canonical h1 _ _ _ _) fun _ => ?_
    split
    · exact queueFault_canonical h1 _ _ _ _
    · split
      · exact queueFault_canonical h1 _ _ _ _
      · extract_lets x sub odd
        clear_value x sub odd
        refine ite_someKeeps (fun _ => bumpHead_canonical (refuseLaunch_canonical h1 _ _ _ _ _) _ _) fun _ => ?_
        split
        · refine ite_someKeeps (fun _ => trivial) fun _ => ?_
          split
          · exact postPage_canonical h1 _ _ _
          · rename_i e
            exact bumpHead_canonical (submit_canonical h1 e) _ _
        · have h2 := takeRun_canonical h1
          exact ite_someKeeps (fun _ => trivial) fun _ => h2 _ _ _
        · exact bumpHead_canonical (refuseLaunch_canonical h1 _ _ _ _ _) _ _

theorem execQueueEntryAccept_keeps {s : State} (h : s.Canonical) (qid : Nat) : Keeps (execQueueEntryAccept qid s) := by
  refine ite_keeps (fun _ => ?_) fun _ => h
  split
  · exact (acceptEntry_keeps h _ _).some ‹_›
  · exact h

/-! ## Blocks and launches (R214, R245 to R248) -/

theorem writeNewHeader_canonical {s : State} (h : s.Canonical) (l : Launch) (p : Phase) : (writeNewHeader s l p).Canonical := by
  unfold writeNewHeader
  split
  · exact pinWrite_canonical h ‹_›
  · exact phaseDouble_canonical h _ _ _ _

theorem createBlocks_canonical {s : State} (h : s.Canonical) (l : Launch) (k : Nat) (gang : Bool) : (createBlocks s l k gang).Canonical := by
  refine foldl_canonical (fun _ _ h => writeNewHeader_canonical h _ _) _ (ite_canonical (fun _ => ?_) fun _ => ?_) <;> exact h

theorem execBlockCreate_keeps {s : State} (h : s.Canonical) (launch : Nat) : Keeps (execBlockCreate launch s) := by
  unfold execBlockCreate
  split
  · exact h
  · exact ite_keeps (fun _ => h) fun _ => ite_keeps (fun _ => createBlocks_canonical h _ _ _) fun _ =>
      ite_keeps (fun _ => createBlocks_canonical h _ _ _) fun _ => h

theorem execPhaseReady_keeps {s : State} (h : s.Canonical) (phase : Nat) : Keeps (execPhaseReady phase s) := by
  unfold execPhaseReady
  split
  · exact h
  · split
    · exact h
    · split
      · exact gatePhase_canonical h _ _
      · exact readyPhase_canonical h _
      · exact phaseDouble_canonical h _ _ _ _
      · exact stalePhase_canonical h _ _ _ _
      · exact ite_keeps (fun _ => stalePhase_canonical h _ _ _ _) fun _ => h
      · exact h

theorem execAgeingPeriod_keeps {s : State} (h : s.Canonical) (die : Nat) : Keeps (execAgeingPeriod die s) :=
  ite_keeps (fun _ => h) fun _ => h

theorem unlist_canonical {s : State} (h : s.Canonical) (x : Listed) : (unlist s x).Canonical := by
  have h1 : ({ s with listed := s.listed.erase x } : State).Canonical := h
  unfold unlist
  dsimp only
  split
  · exact pinWrite_canonical h1 ‹_›
  · exact doubleFault_canonical h1 _ _ _

theorem setOverflowed_canonical {s : State} (h : s.Canonical) (l : List Nat) : ({ s with overflowed := l } : State).Canonical := h

theorem unlistLaunch_canonical {s : State} (h : s.Canonical) (launch : Nat) : (unlistLaunch s launch).Canonical :=
  setOverflowed_canonical (foldl_canonical (fun _ _ h => unlist_canonical h _) _ h) _

theorem dropLaunch_canonical {s : State} (h : s.Canonical) (uid : Nat) : (dropLaunch s uid).Canonical := h

theorem writeWord_canonical {s : State} (h : s.Canonical) (oid glade die addr : Nat) (v : W32) (who : PfWho) (denied : Option Nat) :
    (writeWord s oid glade die addr v who denied).1.Canonical := by
  unfold writeWord
  split
  · exact h
  · split
    · exact ownerWrite_canonical h ‹_›
    · split
      · exact raiseRecord_canonical h _
      · exact postPage_canonical h _ _ _
    · exact raiseRecord_canonical h _

theorem completeLaunch_canonical {s : State} (h : s.Canonical) (l : Launch) (denied : Option Nat) : (completeLaunch s l denied).Canonical := by
  have h1 := writeWord_canonical (unlistLaunch_canonical h l.uid) l.oid l.glade l.die l.cwAddr l.cwVal (.launch l.uid) denied
  exact ite_canonical (fun _ => dropLaunch_canonical h1 _) fun _ => h1

/-! ## Pre-emption requests and kills (R251, R252, R267, R295, R303) -/

theorem askPreempt_canonical {s : State} (h : s.Canonical) (uid : Nat) : (askPreempt s uid).Canonical := h

theorem execQuotaPeriodStart_keeps {s : State} (h : s.Canonical) (die : Nat) : Keeps (execQuotaPeriodStart die s) :=
  ite_keeps (fun _ => h) fun _ => h

theorem settleOverrun_canonical {s : State} (h : s.Canonical) : (settleOverrun s).Canonical := ite_canonical (fun _ => h) fun _ => h

theorem execQuotaOverrun_keeps {s : State} (h : s.Canonical) (die oid : Nat) : Keeps (execQuotaOverrun die oid s) := by
  have h1 : ({ s with overrun := quotaKey die oid :: s.overrun } : State).Canonical := h
  exact ite_keeps (fun _ => h) fun _ => raiseRecord_canonical (foldl_canonical (fun _ _ h => askPreempt_canonical h _) _ h1) _

theorem execPriorityPreempt_keeps {s : State} (h : s.Canonical) (die : Nat) : Keeps (execPriorityPreempt die s) := by
  unfold execPriorityPreempt
  dsimp only
  split
  · exact h
  · exact askPreempt_canonical h _

theorem execKill_keeps {s : State} (h : s.Canonical) (t : KillTarget) : Keeps (execKill t s) := by
  cases t with
  | owner oid => exact ite_keeps (fun _ => endContext_canonical h _) fun _ => h
  | block uid =>
    unfold execKill
    dsimp only
    split
    · exact endBlock_canonical h _ _
    · rename_i p _ _
      have h1 := removePhase_canonical h p
      refine ite_keeps (fun _ => h) fun _ => ?_
      split
      · exact ite_canonical (fun _ => h1) fun _ => phaseDouble_canonical h1 _ _ _ _
      · exact h1
    · exact h

/-! ## Traps (R277 to R280) -/

theorem execTrap_keeps {s : State} (h : s.Canonical) (f : Fields) : Keeps (execTrap f s) := by
  refine issue_keeps h fun s c h => ite_ends (fun _ => trivial) fun _ => ite_ends (fun _ => trivial) fun _ => ?_
  split
  · trivial
  · refine ite_ends (fun _ => mapWave_canonical h _ _ _) fun _ => ?_
    split
    · exact (enterTrap_ends h _ _ _ _ _ _ _).error ‹_›
    · have h1 := (enterTrap_ends h _ _ _ _ _ _ _).ok ‹_›
      exact h1

theorem execBrkp_keeps {s : State} (h : s.Canonical) (f : Fields) : Keeps (execBrkp f s) := by
  refine issue_keeps h fun s c h => ite_ends (fun _ => trivial) fun _ => ite_ends (fun _ => trivial) fun _ => ?_
  split
  · trivial
  · refine ite_ends (fun _ => h) fun _ => ?_
    dsimp only
    split
    · exact (enterTrap_ends h _ _ _ _ _ _ _).error ‹_›
    · have h1 := (enterTrap_ends h _ _ _ _ _ _ _).ok ‹_›
      exact h1

theorem execRtt_keeps {s : State} (h : s.Canonical) (f : Fields) : Keeps (execRtt f s) := by
  refine issue_keeps h fun s c h => ?_
  dsimp only
  split
  · trivial
  · rename_i t _
    have h1 : (if s.path.isEmpty then s else drainPath s (frameStore s c.b t.frame)).Canonical :=
      ite_canonical (fun _ => h) fun _ => drainPath_canonical h _
    refine ite_ends (fun _ => trivial) fun _ => ite_ends (fun _ => mapWave_canonical h _ _ _) fun _ => ite_ends (fun _ => h) fun _ => ?_
    split
    · trivial
    · refine ite_ends (fun _ => trivial) fun _ => ?_
      split
      · trivial
      · have h2 := mapWave_canonical (pinWrite_canonical h1 ‹_›)
        split
        · exact (leaveTrap_ends (h2 _ _ _) _ _ _).error ‹_›
        · have h3 := (leaveTrap_ends (h2 _ _ _) _ _ _).ok ‹_›
          exact h3

/-! ## Service calls (R281 to R284) -/

theorem holdHeader_canonical {s : State} (h : s.Canonical) (q : SvcReq) : (holdHeader s q).Canonical := by
  refine ite_canonical (fun _ => h) fun _ => ?_
  split
  · exact ite_canonical (fun _ => setDir_canonical (readShared_canonical h _ _) _) fun _ => h
  · exact h

theorem setSvcs_canonical {s : State} (h : s.Canonical) (l : List SvcReq) : ({ s with svcs := l } : State).Canonical := h

theorem execSvc_keeps {s : State} (h : s.Canonical) (f : Fields) : Keeps (execSvc f s) := by
  refine issue_keeps h fun s c h => ?_
  dsimp only
  split
  · refine ite_ends (fun _ => trivial) fun _ => ite_ends (fun _ => h) fun _ => ite_ends (fun _ => trivial) fun _ => ite_ends (fun _ => h) fun _ => ?_
    split
    · refine ite_ends (fun _ => h) fun _ => ?_
      split
      · trivial
      · have h1 := pinWrites_canonical h ‹_›
        split
        · trivial
        · have h2 := pinWrite_canonical (releaseAt_canonical h1 _ _) ‹_›
          exact mapWave_canonical (setSvcs_canonical (holdHeader_canonical (notify_canonical h2 _ _) _) _) _ _ _
    · trivial
  · trivial

theorem landReply_canonical {s : State} (h : s.Canonical) (q : SvcReq) : (landReply s q).Canonical := by
  have h1 : ({ s with svcs := updWhere (isSvc q) (fun x => { x with landed := true }) s.svcs } : State).Canonical := h
  refine ite_canonical (fun _ => h) fun _ => ?_
  dsimp only
  split
  · exact ite_canonical (fun _ => readyPhase_canonical h1 _) fun _ => h1
  · exact h1

theorem requestDouble_canonical {s : State} (h : s.Canonical) (q : SvcReq) (va : Nat) : (requestDouble s q va).Canonical := by
  unfold requestDouble
  split
  · exact blockDouble_canonical h _ _
  · exact phaseDouble_canonical h _ _ _ _
  · exact doubleFault_canonical h _ _ _

theorem lookReply_canonical {s : State} (h : s.Canonical) (q : SvcReq) : (lookReply s q).Canonical := by
  refine ite_canonical (fun _ => h) fun _ => ?_
  split
  · exact landReply_canonical h _
  · exact holdHeader_canonical h _
  · exact ite_canonical (fun _ => h) fun _ => requestDouble_canonical h _ _

theorem landReplies_canonical {s : State} (h : s.Canonical) : (landReplies s).Canonical :=
  foldl_canonical (fun _ _ h => lookReply_canonical h _) _ h

theorem settleReplies_canonical {s : State} (h : s.Canonical) : (settleReplies s).Canonical :=
  foldl_canonical (fun _ _ h => lookReply_canonical h _) _ h

theorem execSvcReplyLand_keeps {s : State} (h : s.Canonical) (oid slot : Nat) (bytes : List Byte) : Keeps (execSvcReplyLand oid slot bytes s) := by
  unfold execSvcReplyLand
  split
  · exact h
  · refine ite_keeps (fun _ => h) fun _ => ?_
    split
    · exact requestDouble_canonical h _ _
    · exact landReply_canonical (pinWrites_canonical h ‹_›) _

theorem execSvcReplyDeliver_keeps {s : State} (h : s.Canonical) (w : WRef) : Keeps (execSvcReplyDeliver w s) := by
  unfold execSvcReplyDeliver
  split
  · exact h
  · split
    · exact h
    · refine ite_keeps (fun _ => h) fun _ => ?_
      split
      · exact doubleAt_canonical h _
      · exact ite_keeps (fun _ => h) fun _ => settleAt_canonical (setSvcs_canonical (mapWave_canonical (mapWave_canonical h _ _ _) _ _ _) _) _

end Sys2Proof.Machine
end

section
/-!
PROOF. The canonical forms: blocks leaving a core and coming to one (R144, R147, R283, R296 to R302).
-/
namespace Sys2Proof.Machine

/-! ## Leaving a core (R144, R217, R283) -/

theorem partsDouble_canonical {s : State} (h : s.Canonical) (b : Block) (l : List (Nat × List Byte)) : (partsDouble s b l).Canonical :=
  blockDouble_canonical h _ _

theorem gangOpen_canonical {s : State} (h : s.Canonical) (blk : Nat) : (gangOpen s blk).Canonical := by
  unfold gangOpen
  split <;> exact h

theorem leavePhase_canonical {s : State} (h : s.Canonical) (blk : Nat) : (leavePhase s blk).Canonical := by
  unfold leavePhase
  split
  · split
    · dsimp only
      split
      · exact partsDouble_canonical h _ _
      · exact mapPhase_canonical (leaveCore_canonical (pinWrites_canonical (releaseAt_canonical h _ _) ‹_›) _ _) _ _
    · exact h
  · exact h

theorem enterPool_canonical {s : State} (h : s.Canonical) (blk : Nat) : (enterPool s blk).Canonical := by
  unfold enterPool
  split
  · exact h
  · split
    · exact h
    · exact gatePhase_canonical h _ _

theorem execPhaseEnd_keeps {s : State} (h : s.Canonical) (blk : Nat) : Keeps (execPhaseEnd blk s) := by
  have h1 := foldl_canonical (g := leavePhase) (fun _ _ h => leavePhase_canonical h _) (phaseMates s blk) h
  exact ite_keeps (fun _ => foldl_canonical (fun _ _ h => enterPool_canonical h _) _ (gangOpen_canonical h1 _)) fun _ => h

theorem execBlockPark_keeps {s : State} (h : s.Canonical) (blk : Nat) : Keeps (execBlockPark blk s) := by
  unfold execBlockPark
  split
  · split
    · exact h
    · dsimp only
      refine ite_keeps (fun _ => ?_) fun _ => h
      split
      · exact partsDouble_canonical h _ _
      · have h1 := leaveCore_canonical (pinWrites_canonical (releaseAt_canonical h _ _) ‹_›) blk false
        have h2 := fun g st => setPhase_canonical (mapPhase_canonical h1 blk g) blk st
        exact ite_canonical (fun _ => readyPhase_canonical (h2 _ _) _) fun _ => h2 _ _
  · exact h

/-! ## Pre-emption (R296 to R301) -/

theorem setPreempting_canonical {s : State} (h : s.Canonical) (l : List Nat) : ({ s with preempting := l } : State).Canonical := h

theorem writePrecmd_canonical {s : State} (h : s.Canonical) (v : W64) : (writePrecmd s v).Canonical :=
  ite_canonical (fun _ => setReg_canonical h _ _) fun _ => ite_canonical (fun _ => setReg_canonical h _ _) fun _ =>
    setPreempting_canonical (setReg_canonical (foldl_canonical (fun _ _ h => askPreempt_canonical h _) _ h) _ _) _

theorem execPrecmd_keeps {s : State} (h : s.Canonical) (v : W64) : Keeps (execPrecmd v s) := writePrecmd_canonical h v

theorem settlePrecmd_canonical {s : State} (h : s.Canonical) : (settlePrecmd s).Canonical :=
  ite_canonical (fun _ => h) fun _ => ite_canonical (fun _ => setPreempting_canonical (setRegBits_canonical h _ _ _ _) _) fun _ => h

theorem abandonRequests_canonical {s : State} (h : s.Canonical) (blk : Nat) : (abandonRequests s blk).Canonical := h

theorem execPreemptHalt_keeps {s : State} (h : s.Canonical) (blk : Nat) : Keeps (execPreemptHalt blk s) := by
  unfold execPreemptHalt
  split
  · exact h
  · exact ite_keeps (fun _ => mapBlock_canonical (abandonRequests_canonical h _) _ _) fun _ => h

theorem setSaved_canonical {s : State} (h : s.Canonical) (cs : List Copy) (xs : List (Nat × Nat)) (fs : List PageFault) :
    ({ s with copies := cs, saveSlots := xs, pfs := fs } : State).Canonical := h

theorem execPreemptSave_keeps {s : State} (h : s.Canonical) (blk : Nat) : Keeps (execPreemptSave blk s) := by
  unfold execPreemptSave
  split
  · split
    · dsimp only
      refine ite_keeps (fun _ => ?_) fun _ => h
      split
      · exact partsDouble_canonical h _ _
      · have h1 := leaveCore_canonical (pinWrites_canonical (releaseAt_canonical h _ _) ‹_›) blk false
        exact readyPhase_canonical (mapPhase_canonical (setSaved_canonical h1 _ _ _) _ _) _
    · exact h
  · exact h

/-! ## Coming to a core (R215, R240, R247, R256, R302) -/

theorem consume_canonical {s : State} (h : s.Canonical) (l : Launch) (p : Phase) : (consume s l p).Canonical := by
  refine foldl_canonical (fun s k h => ?_) _ h
  split
  · exact h
  · exact ite_canonical (fun _ => h) fun _ => ite_canonical (fun _ => h) fun _ => h

theorem noteUnits_canonical {s : State} (h : s.Canonical) (l : Launch) (p : Phase) (die : Nat) : (noteUnits s l p die).Canonical := h

theorem resumed_keeps {s : State} (h : s.Canonical) (l : Launch) (p : Phase) (b : Block) : SomeKeeps (resumed s l p b) := by
  unfold resumed
  extract_lets r
  split
  · trivial
  · rename_i rec _
    extract_lets x
    cases savedWaves s l p b rec x with
    | none => trivial
    | some ws => exact h

theorem retakeLines_canonical {s t : State} (h : s.Canonical) {b : Block} {ids : List Nat} (e : retakeLines s b ids = .ok t) :
    t.Canonical := by
  unfold retakeLines at e
  dsimp only at e
  split at e
  · cases e
  · cases e
    exact foldl_canonical (fun _ _ h => takeLines_canonical h _ _) _ (fillRanges_canonical h ‹_›)

/-- A block that is back on its core keeps the canonical forms. -/
def Return.Keeps : Return → Prop
  | .ok s => s.Canonical
  | _ => True

theorem Return.Keeps.ok {r : Return} {t : State} (hr : r.Keeps) (e : r = .ok t) : t.Canonical := by
  subst e; exact hr

theorem setReturned_canonical {s : State} (h : s.Canonical) (bs : List Block) (n : Nat) (cs : List Copy) (xs : List (Nat × Nat)) :
    ({ s with blocks := bs, uids := n, copies := cs, saveSlots := xs } : State).Canonical := h

/-- Each `have` of the definition is taken out as it stands and each match is split as it stands: with a `have` replaced by its value elsewhere,
the kernel would compare two matches by evaluating what they match on. -/
theorem unsaved_keeps {s : State} (h : s.Canonical) (l : Launch) (p : Phase) (b : Block) (slot : Nat) : (unsaved s l p b slot).Keeps := by
  rw [unsaved]
  split
  extract_lets -lift +onlyGivenNames parts
  split
  · extract_lets -lift +onlyGivenNames x
    split
    · trivial
    · split
      · trivial
      · extract_lets -lift +onlyGivenNames ext bundle even odd b1 inWin b2 old id anew b3 s1
        have h1 : s1.Canonical := setReturned_canonical h _ _ _ _
        split
        · trivial
        · rename_i e
          exact retakeLines_canonical h1 e
  · trivial

theorem seatPhase_canonical {s : State} (h : s.Canonical) (l : Launch) (die : Nat) (x : Nat × Nat) : (seatPhase l die s x).Canonical := by
  unfold seatPhase
  split
  · exact h
  · rename_i p _
    extract_lets s1
    split
    rename_i s2 e2
    have h2 : s2.Canonical := by
      have h1 : s1.Canonical := noteUnits_canonical (ite_canonical (fun _ => consume_canonical h l p) fun _ => h) l p die
      have h3 := fresh_canonical h1
      rw [e2] at h3
      exact h3
    extract_lets b back
    have hb : back.Keeps := by
      show Return.Keeps (ite _ _ _)
      split
      · exact h2
      · split
        · exact unsaved_keeps h2 _ _ _ _
        · split
          · exact (resumed_keeps h2 _ _ _).some ‹_›
          · trivial
    clear_value back
    split
    · have h3 := hb.ok rfl
      exact setPhase_canonical (chargePass_canonical (mapPhase_canonical h3 _ _) _ _) _ _
    · exact postPage_canonical h _ _ _
    · exact phaseFault_canonical h _ _ _ _ _
    · exact phaseDouble_canonical h _ _ _ _

theorem staleNow_keeps {s : State} (h : s.Canonical) (l : Launch) (x : Nat × Nat) : SomeKeeps (staleNow s l x) := by
  unfold staleNow
  split
  · trivial
  · refine ite_someKeeps (fun _ => trivial) fun _ => ?_
    split
    · exact stalePhase_canonical h _ _ _ _
    · trivial

theorem execPhaseDispatch_keeps {s : State} (h : s.Canonical) (die core : Nat) : Keeps (execPhaseDispatch die core s) := by
  refine ite_keeps (fun _ => h) fun _ => ?_
  split
  · exact h
  · split
    · exact h
    · refine ite_keeps (fun _ => h) fun _ => ?_
      split
      · rename_i e
        obtain ⟨x, _, e1⟩ := List.exists_of_findSome?_eq_some e
        exact (staleNow_keeps h _ x).some e1
      · exact seatPhase_canonical h _ _ _
      · exact foldl_canonical (fun _ _ h => seatPhase_canonical h _ _ _) _ h

/-! ## REGROUP (R147) -/

theorem trimTrap_canonical {s : State} (h : s.Canonical) (blk : Nat) (old : Wave) : (trimTrap blk s old).Canonical := by
  unfold trimTrap
  split
  · exact h
  · split
    · exact (leaveTrap_ends h _ _ _).ok ‹_›
    · exact doubleAt_canonical h _
    · exact h

theorem execRegroupPermute_keeps {s : State} (h : s.Canonical) (blk : Nat) : Keeps (execRegroupPermute blk s) := by
  unfold execRegroupPermute
  split
  · exact h
  · split
    · exact h
    · dsimp only
      refine ite_keeps (fun _ => ?_) fun _ => h
      split
      · exact h
      · exact ite_keeps (fun _ => barrierFault_canonical h _) fun _ =>
          releaseHeld_canonical (foldl_canonical (fun _ _ h => trimTrap_canonical h _ _) _ (mapBlock_canonical h _ _)) _

end Sys2Proof.Machine
end

section
/-!
PROOF. The canonical forms: register writes and the frame table (R292, R313, R320 to R325, R371 to R377, R387), the host links and the
peers (R310, R316, R369, R379, R382).
-/
namespace Sys2Proof.Machine

theorem setMasked_canonical {s : State} (h : s.Canonical) (off mask v : Nat) : (s.setMasked off mask v).Canonical := setReg_canonical h _ _

/-! ## The frame table (R322 to R325) -/

theorem setMqUsed_canonical {s : State} (h : s.Canonical) (oid n : Nat) : (setMqUsed s oid n).Canonical := setRegBits_canonical h _ _ _ _

theorem tearFrame_canonical {s : State} (h : s.Canonical) (lin : Bool) (p : Nat) : (tearFrame s lin p).Canonical := h

theorem setDirs_canonical {s : State} (h : s.Canonical) (l : List DirEnt) : ({ s with dir := l } : State).Canonical := h

theorem recallFrame_canonical {s : State} (h : s.Canonical) (lin : Bool) (p : Nat) (which : Holder → Bool) :
    (recallFrame s lin p which).Canonical := setDirs_canonical (writeBacks_canonical h _) _

theorem clearFrame_canonical {s : State} (h : s.Canonical) (lin : Bool) (p : Nat) : (clearFrame s lin p).Canonical := h

theorem zeroFill_canonical {s : State} (h : s.Canonical) (lin : Bool) (p : Nat) : (zeroFill s lin p).Canonical :=
  filterMem_canonical (tearFrame_canonical (clearFrame_canonical (recallFrame_canonical h lin p fun _ => true) lin p) lin p) _

theorem ftAssign_canonical {s : State} (h : s.Canonical) (p oid : Nat) (lin : Bool) : (ftAssign s p oid lin).2.Canonical := by
  unfold ftAssign
  split
  · exact h
  · split
    · exact h
    · split
      · exact h
      · have h1 := fun f => setFrame_canonical (zeroFill_canonical h lin p) p f
        exact ite_canonical (fun _ => h1 _) fun _ => setMqUsed_canonical (h1 _) _ _

theorem ftRelease_canonical {s : State} (h : s.Canonical) (p : Nat) : (ftRelease s p).2.Canonical := by
  unfold ftRelease
  dsimp only
  split
  · exact h
  · have h1 := fun f => setFrame_canonical h p f
    exact ite_canonical (fun _ => h1 _) fun _ => setMqUsed_canonical (h1 _) _ _

theorem setFlips_canonical {s : State} (h : s.Canonical) (l : List (Nat × Bool × Nat)) : ({ s with flips := l } : State).Canonical := h

theorem ftFlip_canonical {s : State} (h : s.Canonical) (p : Nat) (toHost : Bool) : (ftFlip s p toHost).Canonical := by
  refine ite_canonical (fun _ => ?_) fun _ => setRegBits_canonical h _ _ _ _
  exact setFlips_canonical (setRegBits_canonical (setFrame_canonical (fresh_canonical h) _ _) _ _ _ _) _

theorem runFtcmd_canonical {s : State} (h : s.Canonical) (v : Nat) : (runFtcmd s v).Canonical := by
  unfold runFtcmd
  dsimp only
  split
  · exact setRegBits_canonical (ftAssign_canonical h _ _ _) _ _ _ _
  · exact setRegBits_canonical (ftRelease_canonical h _) _ _ _ _
  · exact ftFlip_canonical h _ _
  · exact ftFlip_canonical h _ _
  · exact setRegBits_canonical h _ _ _ _

theorem writeFtcmd_canonical {s : State} (h : s.Canonical) (v : Nat) : (writeFtcmd s v).Canonical := by
  have h1 := setMasked_canonical h ftcmdOff (bitsMask 52 16) v
  exact ite_canonical (fun _ => h) fun _ => ite_canonical (fun _ => h1) fun _ =>
    ite_canonical (fun _ => setRegBits_canonical h1 _ _ _ _) fun _ => runFtcmd_canonical h1 _

theorem settleFtcmd_canonical {s : State} (h : s.Canonical) : (settleFtcmd s).Canonical :=
  ite_canonical (fun _ => runFtcmd_canonical (setRegBits_canonical h _ _ _ _) _) fun _ => h

theorem ftEvent_keeps {s : State} (h : s.Canonical) (v : W64) (op : Nat) : Keeps (ftEvent v op s) :=
  ite_keeps (fun _ => h) fun _ => writeFtcmd_canonical h _

theorem finishFlip_canonical {s : State} (h : s.Canonical) (p : Nat) (toHost : Bool) : (finishFlip s p toHost).Canonical := by
  have h1 := drainPath_canonical h fun q => inFrame (s.frame p).lin p q.key
  have h2 : (if toHost then clearFrame (recallFrame (drainPath s fun q => inFrame (s.frame p).lin p q.key) (s.frame p).lin p fun h => h != .host)
      (s.frame p).lin p
    else recallFrame (drainPath s fun q => inFrame (s.frame p).lin p q.key) (s.frame p).lin p fun h => h == .host).Canonical :=
    ite_canonical (fun _ => clearFrame_canonical (recallFrame_canonical h1 _ _ _) _ _) fun _ => recallFrame_canonical h1 _ _ _
  exact setFlips_canonical (setRegBits_canonical (setRegBits_canonical (setFrame_canonical h2 _ _) _ _ _ _) _ _ _ _) _

theorem execBiasFlipComplete_keeps {s : State} (h : s.Canonical) : Keeps (execBiasFlipComplete s) := by
  unfold execBiasFlipComplete
  split
  · exact h
  · exact ite_keeps (fun _ => h) fun _ => finishFlip_canonical h _ _

/-! ## TLBI and the L2 mode (R228, R292) -/

theorem setTlbs_canonical {s : State} (h : s.Canonical) (l : List TlbEnt) (ps : List Pending) :
    ({ s with tlb := l, tlbiWait := ps } : State).Canonical := h

theorem writeTlbic_canonical {s : State} (h : s.Canonical) (v : Nat) : (writeTlbic s v).Canonical := by
  have h1 := setMasked_canonical h tlbicOff (bitsMask 31 25 + bitsMask 15 0) v
  refine ite_canonical (fun _ => h) fun _ => ite_canonical (fun _ => h1) fun _ => ?_
  have h2 := fun l ps => setTlbs_canonical (drainPath_canonical h1 fun p => p.oid == bitsOf v 0 12 && p.glade == bitsOf v 12 4) l ps
  exact ite_canonical (fun _ => h2 _ _) fun _ => setRegBits_canonical (h2 _ _) _ _ _ _

theorem setTlbiWait_canonical {s : State} (h : s.Canonical) (ps : List Pending) : ({ s with tlbiWait := ps } : State).Canonical := h

theorem settleTlbi_canonical {s : State} (h : s.Canonical) : (settleTlbi s).Canonical :=
  ite_canonical (fun _ => h) fun _ => ite_canonical (fun _ => setTlbiWait_canonical (setRegBits_canonical h _ _ _ _) _) fun _ => h

theorem execTlbi_keeps {s : State} (h : s.Canonical) (v : W32) : Keeps (execTlbi v s) :=
  ite_keeps (fun _ => h) fun _ => writeTlbic_canonical h _

theorem setSlices_canonical {s : State} (h : s.Canonical) (l : List DirEnt) (m : List Nat) :
    ({ s with dir := l, slices := m } : State).Canonical := h

theorem switchL2_canonical {s : State} (h : s.Canonical) (mode : Nat) : (switchL2 s mode).Canonical :=
  ite_canonical (fun _ => setRegBits_canonical h _ _ _ _) fun _ =>
    setReg_canonical (setSlices_canonical (writeBacks_canonical h _) _ _) _ _

theorem writeL2ctl_canonical {s : State} (h : s.Canonical) (v : Nat) : (writeL2ctl s v).Canonical :=
  ite_canonical (fun _ => h) fun _ => switchL2_canonical h _

theorem execL2ModeSwitch_keeps {s : State} (h : s.Canonical) (v : W32) : Keeps (execL2ModeSwitch v s) :=
  ite_keeps (fun _ => h) fun _ => writeL2ctl_canonical h _

/-! ## Access tables, glade descriptors, MEMLAY and the tag walker (R371 to R377, R387) -/

theorem writeWindow_canonical {s : State} (h : s.Canonical) (t iid w x : Nat) : (writeWindow s t iid w x).Canonical :=
  ite_canonical (fun _ => setRegBits_canonical h _ _ _ _) fun _ => setReg_canonical (setReg_canonical h _ _) _ _

theorem execAccessTableWrite_keeps {s : State} (h : s.Canonical) (t iid win : Nat) (v : W128) : Keeps (execAccessTableWrite t iid win v s) :=
  ite_keeps (fun _ => h) fun _ => writeWindow_canonical h _ _ _ _

theorem writeWindowHalf_canonical {s : State} (h : s.Canonical) (off v : Nat) : (writeWindowHalf s off v).Canonical :=
  writeWindow_canonical h _ _ _ _

theorem writeGlade0_canonical {s : State} (h : s.Canonical) (g v : Nat) : (writeGlade0 s g v).Canonical := by
  have h1 := setMasked_canonical h (gldOff g) 3 v
  refine ite_canonical (fun _ => ?_) fun _ => ite_canonical (fun _ => setRegBits_canonical h _ _ _ _) fun _ =>
    ite_canonical (fun _ => ?_) fun _ => setRegBits_canonical h _ _ _ _
  · exact ite_canonical (fun _ => h1) fun _ => ite_canonical (fun _ => setRegBits_canonical h _ _ _ _) fun _ =>
      setRegBits_canonical (setRegBits_canonical h1 _ _ _ _) _ _ _ _
  · exact ite_canonical (fun _ => setRegBits_canonical h _ _ _ _) fun _ =>
      setRegBits_canonical (setRegBits_canonical h _ _ _ _) _ _ _ _

theorem writeGlade_canonical {s : State} (h : s.Canonical) (g i v : Nat) : (writeGlade s g i v).Canonical :=
  ite_canonical (fun _ => writeGlade0_canonical h _ _) fun _ => ite_canonical (fun _ => h) fun _ => setMasked_canonical h _ _ _

theorem execGladeEnable_keeps {s : State} (h : s.Canonical) (g : Nat) : Keeps (execGladeEnable g s) :=
  ite_keeps (fun _ => h) fun _ => writeGlade0_canonical h _ _

theorem execGladeDisable_keeps {s : State} (h : s.Canonical) (g : Nat) : Keeps (execGladeDisable g s) :=
  ite_keeps (fun _ => h) fun _ => writeGlade0_canonical h _ _

theorem writeMemlay_canonical {s : State} (h : s.Canonical) (v : Nat) : (writeMemlay s v).Canonical := by
  refine ite_canonical (fun _ => h) fun _ => ?_
  have h1 := setReg_canonical h 0x100400 (BitVec.ofNat 64 (v % 16))
  exact h1

theorem writeTwcmd_canonical {s : State} (h : s.Canonical) (d v : Nat) : (writeTwcmd s d v).Canonical := by
  have h1 := setMasked_canonical h (twcmdOff d) (bitsMask 19 18 + bitsMask 15 0) v
  exact ite_canonical (fun _ => h1) fun _ => sweepDie_canonical h1 _ _ _

theorem execTagWalkSweep_keeps {s : State} (h : s.Canonical) (die : Nat) (v : W32) : Keeps (execTagWalkSweep die v s) :=
  ite_keeps (fun _ => h) fun _ => writeTwcmd_canonical h _ _

/-! ## Register writes (R313) -/

theorem writeContext_canonical {s : State} (h : s.Canonical) (oid i v : Nat) : (writeContext s oid i v).Canonical := by
  have h1 := fun m => setMasked_canonical h (0x40000 + 64 * oid + 8 * i) m v
  exact ite_canonical (fun _ => ite_canonical (fun _ => sweepAll_canonical (h1 _) _ _) fun _ => h1 _) fun _ => h1 _

theorem writeDisplay_canonical {s : State} (h : s.Canonical) (d x v : Nat) : (writeDisplay s d x v).Canonical := by
  have h1 := fun m => setMasked_canonical h (dispOff d + x) m v
  exact ite_canonical (fun _ => writeDctl_canonical h _ _) fun _ => ite_canonical (fun _ => h1 _) fun _ => ite_canonical (fun _ => h1 _) fun _ =>
    ite_canonical (fun _ => h1 _) fun _ => ite_canonical (fun _ => writeMapop_canonical h _ _) fun _ =>
    ite_canonical (fun _ => writeCapctl_canonical h _ _) fun _ => ite_canonical (fun _ => h1 _) fun _ => h

theorem writePage_canonical {s : State} (h : s.Canonical) (fn x v : Nat) : (writePage s fn x v).Canonical := by
  have h1 := fun m => setMasked_canonical h (0x200000 + 0x10000 * fn + x) m v
  exact ite_canonical (fun _ => h) fun _ => ite_canonical (fun _ => ite_canonical (fun _ => h1 _) fun _ => h1 _) fun _ =>
    ite_canonical (fun _ => h1 _) fun _ => ite_canonical (fun _ => h1 _) fun _ => h

theorem setQuotaAt_canonical {s : State} (h : s.Canonical) (l : List Nat) : ({ s with quotaAt := l } : State).Canonical := h

theorem writeQper_canonical {s : State} (h : s.Canonical) (die v : Nat) : (writeQper s die v).Canonical :=
  setQuotaAt_canonical (setMasked_canonical h _ _ _) _

theorem writeRegister_canonical {s : State} (h : s.Canonical) (off v : Nat) : (writeRegister s off v).Canonical := by
  have h1 := fun m v => setMasked_canonical h off m v
  have h2 := setMasked_canonical h 0 (bitsMask 11 0) (v ||| 16 * s.regBits 0 4 4)
  refine ite_canonical (fun _ => h2) fun _ => ?_
  refine ite_canonical (fun _ => h1 _ _) fun _ => ?_
  refine ite_canonical (fun _ => writeL2ctl_canonical h _) fun _ => ?_
  refine ite_canonical (fun _ => h1 _ _) fun _ => ?_
  refine ite_canonical (fun _ => h1 _ _) fun _ => ?_
  refine ite_canonical (fun _ => writeContext_canonical h _ _ _) fun _ => ?_
  refine ite_canonical (fun _ => h1 _ _) fun _ => ?_
  refine ite_canonical (fun _ => h1 _ _) fun _ => ?_
  refine ite_canonical (fun _ => writeQper_canonical h _ _) fun _ => ?_
  refine ite_canonical (fun _ => h1 _ _) fun _ => ?_
  refine ite_canonical (fun _ => writeTlbic_canonical h _) fun _ => ?_
  refine ite_canonical (fun _ => writeFtcmd_canonical h _) fun _ => ?_
  refine ite_canonical (fun _ => writePrecmd_canonical h _) fun _ => ?_
  refine ite_canonical (fun _ => writeDisplay_canonical h _ _ _) fun _ => ?_
  refine ite_canonical (fun _ => h1 _ _) fun _ => ?_
  refine ite_canonical (fun _ => h1 _ _) fun _ => ?_
  refine ite_canonical (fun _ => writeGlade_canonical h _ _ _) fun _ => ?_
  refine ite_canonical (fun _ => writeMemlay_canonical h _) fun _ => ?_
  refine ite_canonical (fun _ => h1 _ _) fun _ => ?_
  refine ite_canonical (fun _ => writeTwcmd_canonical h _ _) fun _ => ?_
  refine ite_canonical (fun _ => writeWindowHalf_canonical h _ _) fun _ => ?_
  refine ite_canonical (fun _ => writePage_canonical h _ _ _) fun _ => ?_
  exact h

/-! ## Host links (R310, R316, R318, R319, R369) -/

theorem tell_canonical {s : State} (h : s.Canonical) (m : HostMsg) : (tell s m).Canonical := h

theorem hostRecord_canonical {s : State} (h : s.Canonical) (addr detail : Nat) : (hostRecord s addr detail).Canonical :=
  raiseRecord_canonical h _

theorem execHostCxlMemRead_keeps {s : State} (h : s.Canonical) (addr n : Nat) : Keeps (execHostCxlMemRead addr n s) := by
  refine ite_keeps (fun _ => h) fun _ => ?_
  split
  · exact tell_canonical (hostRecord_canonical h _ _) _
  · exact tell_canonical (hostRecord_canonical h _ _) _
  · exact ite_keeps (fun _ => h) fun _ => tell_canonical (readShared_canonical h _ _) _

theorem execHostCxlMemWrite_keeps {s : State} (h : s.Canonical) (addr : Nat) (bytes : List Byte) : Keeps (execHostCxlMemWrite addr bytes s) := by
  refine ite_keeps (fun _ => h) fun _ => ?_
  split
  · exact hostRecord_canonical h _ _
  · exact hostRecord_canonical h _ _
  · exact ite_keeps (fun _ => h) fun _ => landReplies_canonical (directWrite_canonical h _ _)

theorem execHostSnoop_keeps {s : State} (h : s.Canonical) (line : Nat) (write : HostWrite) : Keeps (execHostSnoop line write s) := by
  refine ite_keeps (fun _ => h) fun _ => ?_
  split
  · exact ite_keeps (fun _ => h) fun _ => recallShared_canonical h _
  · exact ite_keeps (fun _ => h) fun _ => landReplies_canonical (directWrite_canonical h _ _)

theorem drainFor_canonical {s : State} (h : s.Canonical) (fn : Nat) : (drainFor s fn).Canonical := drainPath_canonical h _

theorem hostDenied_canonical {s : State} (h : s.Canonical) : (hostDenied s).Canonical :=
  ite_canonical (fun _ => h) fun _ => raiseRecord_canonical h _

theorem freeRead_canonical {s : State} (h : s.Canonical) : (freeRead s).Canonical := h

theorem execHostRegisterRead_keeps {s : State} (h : s.Canonical) (fn off : Nat) : Keeps (execHostRegisterRead fn off s) := by
  have h1 := drainFor_canonical h fn
  refine ite_keeps (fun _ => h) fun _ => ite_keeps (fun _ => freeRead_canonical h1) fun _ => ?_
  split
  · exact tell_canonical h1 _
  · exact ite_keeps (fun _ => tell_canonical h1 _) fun _ => freeRead_canonical (hostDenied_canonical h1)

theorem setMsix_canonical {s : State} (h : s.Canonical) (l : List Nat) : ({ s with msix := l } : State).Canonical := h

theorem execMsixSend_keeps {s : State} (h : s.Canonical) (fn vec : Nat) : Keeps (execMsixSend fn vec s) :=
  ite_keeps (fun _ => h) fun _ => tell_canonical (setMsix_canonical (drainFor_canonical h fn) _) _

/-! ## The mailbox (R316) -/

theorem writeArea_canonical {s : State} (h : s.Canonical) (off : Nat) (l : List Byte) : (writeArea s off l).Canonical :=
  foldl_canonical (fun _ _ h => setReg_canonical h _ _) _ h

theorem hostWrite_canonical {s : State} (h : s.Canonical) (fn off : Nat) {put : State → Nat → State} (hp : ∀ o, (put s o).Canonical) :
    (hostWrite s fn off put).Canonical := by
  refine ite_canonical (fun _ => h) fun _ => ?_
  split
  · exact h
  · exact ite_canonical (fun _ => hp _) fun _ => hostDenied_canonical h

theorem execMailboxDoorbell_keeps {s : State} (h : s.Canonical) (fn : Nat) : Keeps (execMailboxDoorbell fn s) :=
  ite_keeps (fun _ => h) fun _ => hostWrite_canonical h _ _ fun _ => setRegBits_canonical h _ _ _ _

theorem reply_canonical {s : State} (h : s.Canonical) (fn : Nat) (bytes : List Byte) : (reply s fn bytes).Canonical :=
  notify_canonical (setRegBits_canonical (writeArea_canonical h _ _) _ _ _ _) _ _

theorem execMailboxReply_keeps {s : State} (h : s.Canonical) (fn : Nat) (bytes : List Byte) : Keeps (execMailboxReply fn bytes s) :=
  ite_keeps (fun _ => h) fun _ => reply_canonical h _ _

/-! ## Peers (R379, R381, R382) -/

theorem recallForRead_canonical {s : State} (h : s.Canonical) (line : Nat) : (recallForRead s line).Canonical := h

theorem peerAtomic_keeps {s : State} (h : s.Canonical) (p k addr : Nat) (t : Ty) (new : Nat → Option Nat) :
    Keeps (peerAtomic s p k addr t new) := by
  unfold peerAtomic
  dsimp only
  split
  · exact h
  · exact ite_keeps (fun _ => h) fun _ => ite_keeps (fun _ => tell_canonical h _) fun _ => ite_keeps (fun _ => h) fun _ =>
      tell_canonical (directWrite_canonical h _ _) _

theorem execPeerRequest_keeps {s : State} (h : s.Canonical) (p k addr : Nat) (r : PeerOp) : Keeps (execPeerRequest p k addr r s) := by
  refine ite_keeps (fun _ => h) fun _ => ?_
  split
  · exact ite_keeps (fun _ => tell_canonical h _) fun _ => ite_keeps (fun _ => h) fun _ => tell_canonical (recallForRead_canonical h _) _
  · exact ite_keeps (fun _ => tell_canonical h _) fun _ => ite_keeps (fun _ => h) fun _ => tell_canonical (directWrite_canonical h _ _) _
  · exact peerAtomic_keeps h _ _ _ _ _
  · exact peerAtomic_keeps h _ _ _ _ _

theorem dropRequest_canonical {s : State} (h : s.Canonical) (p : Pending) : (dropRequest s p).Canonical := by
  unfold dropRequest
  split
  · exact h
  · exact fatalFault_canonical h _ _ _ _ _ _ _ _

theorem dropLoad_canonical {s : State} (h : s.Canonical) (x : Nat × Nat × Remote) : (dropLoad s x).Canonical := by
  unfold dropLoad
  split
  · exact h
  · exact fatalFault_canonical h _ _ _ _ _ _ _ _

theorem dropCopy_canonical {s : State} (h : s.Canonical) (c : Copy) : (dropCopy s c).Canonical := by
  unfold dropCopy
  split
  · exact h
  · exact copyFault_canonical h _ _ _ _ _

theorem dropFlight_canonical {s : State} (h : s.Canonical) (port : Nat) : (dropFlight s port).Canonical := by
  have h1 : ({ s with stopped := s.stopped ++ [port], path := s.path.filter fun p => !onPort port p } : State).Canonical := h
  have h2 := foldl_canonical (fun _ p h => dropRequest_canonical h p) (s.path.filter (onPort port)) h1
  exact foldl_canonical (fun _ _ h => dropCopy_canonical h _) _ (foldl_canonical (fun _ _ h => dropLoad_canonical h _) _ h2)

theorem execShenerMacFailure_keeps {s : State} (h : s.Canonical) (port : Nat) : Keeps (execShenerMacFailure port s) :=
  ite_keeps (fun _ => h) fun _ => raiseRecord_canonical (dropFlight_canonical h _) _

theorem execShenerKeyExchange_keeps {s : State} (h : s.Canonical) (k : ShenerKeys) : Keeps (execShenerKeyExchange k s) :=
  ite_keeps (fun _ => h) fun _ => h

theorem execIdeKmKeyProg_keeps {s : State} (h : s.Canonical) (slot : IdeSlot) (key : BitVec 256) : Keeps (execIdeKmKeyProg slot key s) :=
  ite_keeps (fun _ => h) fun _ => h

end Sys2Proof.Machine
end

section
/-!
PROOF. The canonical forms: service pairs, boot and resets, measurements and updates (R311 to R314, R384 to R394), and Jorac (R401 to R403).
-/
namespace Sys2Proof.Machine

/-! ## The leader (R312, R314) -/

theorem setElected_canonical {s : State} (h : s.Canonical) (b : Bool) : ({ s with elected := b } : State).Canonical := h

theorem setBankCount_canonical {s : State} (h : s.Canonical) (b : Bool) (n : Nat) : (setBankCount s b n).Canonical := h

theorem execLeaderElection_keeps {s : State} (h : s.Canonical) : Keeps (execLeaderElection s) := by
  refine ite_keeps (fun _ => h) fun _ => ?_
  split
  · exact setElected_canonical (fatalError_canonical h _) _
  · exact ite_keeps (fun _ => h) fun _ =>
      setElected_canonical (setBankCount_canonical (setRegBits_canonical (pairWrite_canonical h _ _ _) _ _ _ _) _ _) _

theorem haltPair_canonical {s : State} (h : s.Canonical) (d : Nat) : (haltPair s d).Canonical := h

theorem execLockstepMismatch_keeps {s : State} (h : s.Canonical) (die : Nat) : Keeps (execLockstepMismatch die s) := by
  have h1 := haltPair_canonical (setRegBits_canonical h 0 die 1 0) die
  exact ite_keeps (fun _ => h) fun _ => ite_canonical (fun _ => fatalError_canonical h1 _) fun _ => h1

theorem execHeartbeat_keeps {s : State} (h : s.Canonical) : Keeps (execHeartbeat s) :=
  ite_keeps (fun _ => pairWrite_canonical h _ _ _) fun _ => h

theorem execHeartbeatTimeout_keeps {s : State} (h : s.Canonical) (die : Nat) : Keeps (execHeartbeatTimeout die s) :=
  ite_keeps (fun _ => h) fun _ => h

theorem denyAll_canonical {s : State} (h : s.Canonical) (iid : Nat) : (denyAll s iid).Canonical :=
  foldl_canonical (fun _ _ h => foldl_canonical (fun _ _ h => setReg_canonical h _ _) _ h) _ h

theorem setTakingOver_canonical {s : State} (h : s.Canonical) (o : Option Nat) : ({ s with takingOver := o } : State).Canonical := h

theorem beginTakeover_canonical {s : State} (h : s.Canonical) (die : Nat) (t : Waiting) : (beginTakeover s die t).Canonical :=
  setTakingOver_canonical (setRegBits_canonical (denyAll_canonical (writePhys_canonical (setRegBits_canonical h _ _ _ _) _ _) _) _ _ _ _) _

theorem endTakeover_canonical {s : State} (h : s.Canonical) (die : Nat) : (endTakeover s die).Canonical :=
  settleFtcmd_canonical (notify_canonical
    (setTakingOver_canonical (setRegBits_canonical (setRegBits_canonical h _ _ _ _) _ _ _ _) _) _ _)

theorem setTakeover_canonical {s : State} (h : s.Canonical) (l : List Waiting) : ({ s with takeover := l } : State).Canonical := h

theorem execTakeoverAttempt_keeps {s : State} (h : s.Canonical) (die : Nat) : Keeps (execTakeoverAttempt die s) := by
  refine ite_keeps (fun _ => ite_keeps (fun _ => endTakeover_canonical h _) fun _ => h) fun _ => ?_
  split
  · exact h
  · have h1 := setTakeover_canonical h (s.takeover.filter fun t => t.die != die)
    exact ite_keeps (fun _ => h) fun _ => ite_keeps (fun _ => h1) fun _ => beginTakeover_canonical h1 _ _

/-! ## Register writes and throttling (R311, R313, R315) -/

theorem setPower_canonical {s : State} (h : s.Canonical) (fn v : Nat) : (setPower s fn v).Canonical := by
  unfold setPower
  split <;> exact h

theorem portWrite_canonical {s : State} (h : s.Canonical) (v : Nat) (port : RegPort) : (portWrite s v port).Canonical := by
  cases port with
  | core off => exact writeRegister_canonical h _ _
  | host fn off => exact hostWrite_canonical h _ _ fun _ => ite_canonical (fun _ => h) fun _ => writeRegister_canonical h _ _
  | config fn off => exact ite_canonical (fun _ => setPower_canonical h _ _) fun _ => h
  | pair d off => exact ite_canonical (fun _ => h) fun _ => writeRegister_canonical h _ _

theorem execRegisterWrite_keeps {s : State} (h : s.Canonical) (port : RegPort) (v : W64) : Keeps (execRegisterWrite port v s) :=
  ite_keeps (fun _ => portWrite_canonical h _ _) fun _ => h

theorem setStep_canonical {s : State} (h : s.Canonical) (die n : Nat) : (setStep s die n).Canonical := h

theorem execThrottleDown_keeps {s : State} (h : s.Canonical) (die : Nat) : Keeps (execThrottleDown die s) := by
  unfold execThrottleDown
  split
  · exact h
  · exact ite_keeps (fun _ => setStep_canonical h _ _) fun _ => h

theorem execThrottleUp_keeps {s : State} (h : s.Canonical) (die : Nat) : Keeps (execThrottleUp die s) := by
  unfold execThrottleUp
  split
  · exact h
  · exact ite_keeps (fun _ => setStep_canonical h _ _) fun _ => h

/-! ## Boot and device reset (R390, R391) -/

theorem setLost_canonical {s : State} (h : s.Canonical) (n : Nat) : ({ s with dir := [], free := n } : State).Canonical := h

theorem loseCaches_canonical {s : State} (h : s.Canonical) : (loseCaches s).Canonical := by
  refine setLost_canonical (foldl_keeps (P := fun a : State × Nat => a.1.Canonical) (fun a d h => ?_) s.dir (a := (s, s.free)) h) _
  exact ite_canonical (fun _ => writeBackEnt_canonical h d) fun _ => discardEnt_canonical h d

/-- Memory is kept, and the control block and the frame table are as after a reset, with no entry (R390). -/
theorem afterReset_canonical {s : State} (h : s.Canonical) : (afterReset s).Canonical := by
  obtain ⟨hmem, _, _⟩ := h
  exact ⟨hmem, rfl, rfl⟩

theorem setBoot_canonical {s : State} (h : s.Canonical) (b : Bool) (n : Nat) (l : List Cached) :
    ({ s with bank := b, booted := n, jorac := l } : State).Canonical := h

theorem resetDevice_canonical {s : State} (h : s.Canonical) : (resetDevice s).Canonical := by
  have h1 := afterReset_canonical (loseCaches_canonical h)
  unfold resetDevice
  dsimp only
  split
  · exact setRegBits_canonical h1 _ _ _ _
  · exact setBoot_canonical (setBankCount_canonical h1 _ _) _ _ _

theorem execDeviceReset_keeps {s : State} (h : s.Canonical) : Keeps (execDeviceReset s) := resetDevice_canonical h

/-! ## Function-level reset (R386) -/

theorem disableGladeQueues_canonical {s : State} (h : s.Canonical) (g : Nat) : (disableGladeQueues s g).Canonical :=
  foldl_canonical (fun _ _ h => ite_canonical (fun _ => setRegBits_canonical h _ _ _ _) fun _ => h) _ h

theorem setCopies_canonical {s : State} (h : s.Canonical) (l : List Copy) : ({ s with copies := l } : State).Canonical := h

theorem stopBlock_canonical {s : State} (h : s.Canonical) (b : Block) : (stopBlock s b).Canonical :=
  leaveCore_canonical (setCopies_canonical (freeFrames_canonical h b) _) _ _

theorem stopGlade_canonical {s : State} (h : s.Canonical) (g : Nat) : (stopGlade s g).Canonical := by
  have h1 : ({ s with path := s.path.filter fun p => p.glade != g } : State).Canonical := h
  refine foldl_canonical (fun s o h => ite_canonical (fun _ => h) fun _ => ?_) _ (foldl_canonical (fun _ _ h => stopBlock_canonical h _) _ h1)
  have h2 : (if owns s o then removeOwner s o else s).Canonical := ite_canonical (fun _ => removeOwner_canonical h _) fun _ => h
  exact ite_canonical (fun _ => setRegBits_canonical h2 _ _ _ _) fun _ => h2

theorem setDirBlocks_canonical {s : State} (h : s.Canonical) (l : List DirEnt) (bs : List Block) :
    ({ s with dir := l, blocks := bs } : State).Canonical := h

theorem scrubGlade_canonical {s : State} (h : s.Canonical) (g : Nat) : (scrubGlade s g).Canonical := by
  have h1 := foldl_canonical (g := fun s (x : Nat × Frame) =>
      if x.2.hb && frameInGlade s g x.1 x.2 then s.setFrame x.1 { x.2 with hb := false } else s)
    (fun _ _ h => ite_canonical (fun _ => setFrame_canonical h _ _) fun _ => h) s.frames h
  have h2 := writeBacks_canonical h1
  have h3 := fun l m => foldl_canonical (g := fun a (c : Nat × Byte) => tearKey a c.1 0) (fun _ _ h => tearKey_canonical h _ _) m (h2 l)
  exact setDirBlocks_canonical (filterMem_canonical (h3 _ _) _) _ _

theorem setRstep_canonical {s : State} (h : s.Canonical) (g st k : Nat) : (setRstep s g st k).Canonical := setRegBits_canonical h _ _ _ _

theorem setIde_canonical {s : State} (h : s.Canonical) (l : List (IdeSlot × BitVec 256)) : ({ s with ide := l } : State).Canonical := h

theorem resetStep_canonical {s : State} (h : s.Canonical) (g n : Nat) : (resetStep s g n).Canonical := by
  unfold resetStep
  split
  · exact setRstep_canonical (disableGladeQueues_canonical h _) _ _ _
  · exact setRstep_canonical (foldl_canonical (fun _ _ h => finishFlip_canonical h _ _) _ h) _ _ _
  · exact setRstep_canonical (stopGlade_canonical h _) _ _ _
  · exact setRstep_canonical (sweepAll_canonical h _ _) _ _ _
  · exact setRstep_canonical (setIde_canonical h _) _ _ _
  · exact setRstep_canonical (scrubGlade_canonical h _) _ _ _
  · exact tell_canonical (setRstep_canonical (setPower_canonical h _ _) _ _ _) _

theorem execFunctionLevelReset_keeps {s : State} (h : s.Canonical) (n : Nat) : Keeps (execFunctionLevelReset n s) :=
  ite_keeps (fun _ => resetDevice_canonical h) fun _ => ite_keeps (fun _ => h) fun _ => ite_keeps (fun _ => h) fun _ => resetStep_canonical h _ _

/-! ## Measurements, rollback and updates (R384, R385, R392 to R394) -/

theorem setSessions_canonical {s : State} (h : s.Canonical) (l : List Nat) : ({ s with sessions := l } : State).Canonical := h

theorem spdmAnswer_canonical {s : State} (h : s.Canonical) (fn : Nat) (r : SpdmRequest) : (spdmAnswer s fn r).Canonical := by
  cases r with
  | algorithms => exact tell_canonical h _
  | certificate slot => exact tell_canonical h _
  | openSession => exact tell_canonical (setSessions_canonical h _) _
  | closeSession => exact tell_canonical (setSessions_canonical h _) _
  | measurement idx => exact tell_canonical h _

theorem execSpdmGetMeasurements_keeps {s : State} (h : s.Canonical) (fn : Nat) (r : SpdmRequest) : Keeps (execSpdmGetMeasurements fn r s) :=
  ite_keeps (fun _ => h) fun _ => spdmAnswer_canonical h _ _

theorem setOperator_canonical {s : State} (h : s.Canonical) (n : W32) (k : Nat) (b : Bool) :
    ({ s with opCtr := n, opKey := k, nextBank := b } : State).Canonical := h

theorem execRollbackRecord_keeps {s : State} (h : s.Canonical) (r : BitVec 1536) : Keeps (execRollbackRecord r s) := by
  refine ite_keeps (fun _ => tell_canonical h _) fun _ => ?_
  split
  · exact tell_canonical (setOperator_canonical h _ _ s.nextBank) _
  · exact ite_keeps (fun _ => tell_canonical h _) fun _ => tell_canonical (setBankCount_canonical (setOperator_canonical h _ s.opKey _) _ _) _

theorem setImages_canonical {s : State} (h : s.Canonical) (u : Option Bool) (i : Nat × Nat) :
    ({ s with updating := u, images := i } : State).Canonical := h

theorem execFirmwareImageUpdate_keeps {s : State} (h : s.Canonical) (u : ImageUpdate) : Keeps (execFirmwareImageUpdate u s) := by
  unfold execFirmwareImageUpdate
  split
  · exact tell_canonical (setImages_canonical h _ s.images) _
  · exact tell_canonical (setImages_canonical (fresh_canonical h) _ _) _
  · exact h

theorem execFatalError_keeps {s : State} (h : s.Canonical) (cause : FatalCause) : Keeps (execFatalError cause s) :=
  ite_keeps (fun _ => h) fun _ => fatalError_canonical h _

/-! ## Jorac (R401 to R403) -/

theorem cacheCode_canonical {s : State} (h : s.Canonical) (c : List Byte) (step : W16) (code : List Byte) : (cacheCode s c step code).Canonical :=
  ite_canonical (fun _ => h) fun _ => h

theorem finalise_canonical {s : State} (h : s.Canonical) (q : JReq) (step : Nat) (c : List Byte) : (finalise s q step c).2.Canonical := by
  unfold finalise
  dsimp only
  split
  · exact h
  · split
    · exact h
    · split
      · exact h
      · exact cacheCode_canonical (tagLines_canonical (writeKeys_canonical _ h _) _ _) _ _ _
  · exact h

theorem joracAnswer_canonical {s : State} (h : s.Canonical) (fn : Nat) (q : JReq) : (joracAnswer s fn q).2.Canonical := by
  unfold joracAnswer
  dsimp only
  split
  · exact h
  · split
    · exact h
    · split
      · exact h
      · exact finalise_canonical h _ _ _

theorem execJoracFinalise_keeps {s : State} (h : s.Canonical) (fn : Nat) : Keeps (execJoracFinalise fn s) :=
  ite_keeps (fun _ => h) fun _ => reply_canonical (joracAnswer_canonical h _ _) _ _

end Sys2Proof.Machine
end

section
/-!
PROOF. The canonical forms: the trail engine (R245, R263 to R266), and the launch and tile instructions (R256 to R261).
-/
namespace Sys2Proof.Machine

/-! ## The trail engine (R263 to R266) -/

theorem mapRun_canonical {s : State} (h : s.Canonical) (uid : Nat) (g : Run → Run) : (s.mapRun uid g).Canonical := h

theorem runRecord_canonical {s : State} (h : s.Canonical) (q : RunReq) (cls detail vaddr : Nat) : (runRecord s q cls detail vaddr).Canonical :=
  raiseRecord_canonical h _

theorem stopRun_canonical {s : State} (h : s.Canonical) (uid : Nat) : (stopRun s uid).Canonical := h

theorem queueNode_canonical {s : State} (h : s.Canonical) (uid j : Nat) : (queueNode s uid j).Canonical := h

/-- A read of the trail engine that stops leaves a state in the canonical forms. -/
def RunRead.Keeps : RunRead → Prop
  | .ok _ => True
  | .page s | .bad s => s.Canonical

theorem RunRead.Keeps.page {x : RunRead} {t : State} (hx : x.Keeps) (e : x = .page t) : t.Canonical := by
  subst e; exact hx

theorem RunRead.Keeps.bad {x : RunRead} {t : State} (hx : x.Keeps) (e : x = .bad t) : t.Canonical := by
  subst e; exact hx

theorem runRead_keeps {s : State} (h : s.Canonical) (r : Run) (denied : Option Nat) (va n : Nat) : (runRead s r denied va n).Keeps := by
  unfold runRead
  split
  · exact h
  · split
    · trivial
    · split
      · exact postPage_canonical h _ _ _
      · exact stopRun_canonical (runRecord_canonical h _ _ _ _) _

theorem readEdge_keeps {s : State} (h : s.Canonical) (r : Run) (denied : Option Nat) (i : Nat) : (readEdge s r denied i).Keeps := by
  have h1 := runRead_keeps h r denied (edgeAddr r i) 16
  unfold readEdge
  split
  · split
    · exact stopRun_canonical (runRecord_canonical h _ _ _ _) _
    · trivial
  · exact h1

theorem launchWaiting_canonical (denied : Option Nat) (uid fuel : Nat) {s : State} (h : s.Canonical) :
    (launchWaiting denied uid fuel s).Canonical := by
  induction fuel generalizing s with
  | zero => exact h
  | succ fuel ih =>
    unfold launchWaiting
    split
    · exact h
    · split
      · exact h
      · refine ite_canonical (fun _ => h) fun _ => ?_
        split
        · exact (readEdge_keeps h _ _ _).page ‹_›
        · exact (readEdge_keeps h _ _ _).bad ‹_›
        · refine ite_canonical (fun _ => h) fun _ => ?_
          split
          · exact postPage_canonical h _ _ _
          · rename_i e
            have h1 := mapRun_canonical (submit_canonical h e)
            exact ite_canonical (fun _ => ih (h1 _ _)) fun _ => stopRun_canonical (h1 _ _) _

theorem scanRoots_canonical (denied : Option Nat) (uid fuel : Nat) {s : State} (h : s.Canonical) : (scanRoots denied uid fuel s).Canonical := by
  induction fuel generalizing s with
  | zero => exact h
  | succ fuel ih =>
    unfold scanRoots
    split
    · exact h
    · refine ite_canonical (fun _ => h) fun _ => ?_
      split
      · exact (readEdge_keeps h _ _ _).page ‹_›
      · exact (readEdge_keeps h _ _ _).bad ‹_›
      · have h1 := fun g => mapRun_canonical h uid g
        have h2 : ∀ {p : Prop} [Decidable p] (n j : Nat) g, (if p then launchWaiting denied uid n (queueNode (s.mapRun uid g) uid j)
            else s.mapRun uid g).Canonical :=
          fun n j g => ite_canonical (fun _ => launchWaiting_canonical denied uid n (queueNode_canonical (h1 g) uid j)) fun _ => h1 g
        exact ite_canonical (fun _ => h2 _ _ _) fun _ => ih (h2 _ _ _)

theorem countDown_canonical {s : State} (h : s.Canonical) (r : Run) (whole : Bool) (j edge : Nat) : (countDown s r whole j edge).Canonical := by
  unfold countDown
  dsimp only
  split
  · exact doubleFault_canonical h _ _ _
  · split
    · exact doubleFault_canonical h _ _ _
    · have h1 := pinWrite_canonical h ‹_›
      exact ite_canonical (fun _ => queueNode_canonical h1 _ _) fun _ => h1

theorem walkSuccs_canonical (denied : Option Nat) (uid edge fuel : Nat) {s : State} (h : s.Canonical) :
    (walkSuccs denied uid edge fuel s).Canonical := by
  induction fuel generalizing s with
  | zero => exact mapRun_canonical h _ _
  | succ fuel ih =>
    unfold walkSuccs
    split
    · exact h
    · split
      · exact h
      · refine ite_canonical (fun _ => mapRun_canonical h _ _) fun _ => ?_
        dsimp only
        split
        · exact (runRead_keeps h _ _ _ _).page ‹_›
        · exact mapRun_canonical ((runRead_keeps h _ _ _ _).bad ‹_›) _ _
        · refine ite_canonical (fun _ => ih (mapRun_canonical (stopRun_canonical (runRecord_canonical h _ _ _ _) _) _ _)) fun _ => ?_
          split
          · exact (readEdge_keeps h _ _ _).page ‹_›
          · exact ih (mapRun_canonical ((readEdge_keeps h _ _ _).bad ‹_›) _ _)
          · refine ite_canonical (fun _ => h) fun _ => ?_
            have h1 := fun n r w j e g => launchWaiting_canonical denied uid n (mapRun_canonical (countDown_canonical h r w j e) uid g)
            exact ite_canonical (fun _ => h1 _ _ _ _ _ _) fun _ => ih (h1 _ _ _ _ _ _)

theorem walkNode_canonical {s : State} (h : s.Canonical) (denied : Option Nat) (uid : Nat) : (walkNode denied uid s).Canonical := by
  unfold walkNode
  split
  · exact h
  · split
    · exact h
    · split
      · exact (readEdge_keeps h _ _ _).page ‹_›
      · exact mapRun_canonical ((readEdge_keeps h _ _ _).bad ‹_›) _ _
      · exact walkSuccs_canonical _ _ _ _ h

theorem setRuns_canonical {s : State} (h : s.Canonical) (l : List Run) : ({ s with runs := l } : State).Canonical := h

theorem finishRun_canonical {s : State} (h : s.Canonical) (denied : Option Nat) (uid : Nat) : (finishRun denied uid s).Canonical := by
  unfold finishRun
  split
  · exact h
  · rename_i r _
    extract_lets all ovr s1
    have h1 : SomeKeeps s1 := by
      show SomeKeeps (ite _ _ _)
      split
      · exact h
      · split
        · trivial
        · cases e : pinWrite s r.req.oid (r.req.table + 26) _ with
          | none => trivial
          | some t => exact pinWrite_canonical h e
    clear_value s1
    refine ite_canonical (fun _ => h) fun _ => ?_
    split
    · exact doubleFault_canonical h _ _ _
    · have h2 := h1.some rfl
      exact ite_canonical (fun _ => setRuns_canonical (writeWord_canonical h2 _ _ _ _ _ _ _) _) fun _ =>
        mapRun_canonical (writeWord_canonical h2 _ _ _ _ _ _ _) _ _

theorem runGo_canonical {s : State} (h : s.Canonical) (denied : Option Nat) (uid : Nat) : (runGo denied s uid).Canonical := by
  unfold runGo
  split
  · exact h
  · refine ite_canonical (fun _ => h) fun _ => ?_
    extract_lets s1 s2 s3
    have h1 : s1.Canonical := ite_canonical (fun _ => h) fun _ => launchWaiting_canonical _ _ _ h
    have h2 : s2.Canonical := ite_canonical (fun _ => h1) fun _ => walkNode_canonical h1 _ _
    have h3 : s3.Canonical := ite_canonical (fun _ => h2) fun _ => scanRoots_canonical _ _ _ h2
    exact ite_canonical (fun _ => h3) fun _ => finishRun_canonical h3 _ _

theorem settleRuns_canonical {s : State} (h : s.Canonical) : (settleRuns s).Canonical :=
  foldl_canonical (fun _ _ h => runGo_canonical h _ _) _ h

theorem runsGo_canonical {s : State} (h : s.Canonical) (die : Nat) : (runsGo s die).Canonical :=
  foldl_canonical (fun _ _ h => runGo_canonical h _ _) _ h

theorem execLaunchComplete_keeps {s : State} (h : s.Canonical) (launch : Nat) : Keeps (execLaunchComplete launch s) := by
  unfold execLaunchComplete
  split
  · exact h
  · exact ite_keeps (fun _ => runsGo_canonical (completeLaunch_canonical h _ _) _) fun _ => h

theorem setRunReqs_canonical {s : State} (h : s.Canonical) (l : List RunReq) : ({ s with runReqs := l } : State).Canonical := h

theorem withRun_canonical {s : State} (h : s.Canonical) (q : RunReq) (k : Nat) : (withRun s q k).Canonical := h

theorem execGraphRunStart_keeps {s : State} (h : s.Canonical) (die : Nat) : Keeps (execGraphRunStart die s) := by
  unfold execGraphRunStart
  split
  · exact h
  · split
    · exact doubleFault_canonical (setRunReqs_canonical h _) _ _ _
    · have h1 := fun q k => withRun_canonical h q k
      refine ite_keeps (fun _ => runGo_canonical (runRecord_canonical (h1 _ _) _ _ _ _) _ _) fun _ => ?_
      split
      · exact doubleFault_canonical (h1 _ _) _ _ _
      · exact runGo_canonical (pinWrite_canonical (h1 _ _) ‹_›) _ _

theorem execNodeComplete_keeps {s : State} (h : s.Canonical) (run node : Nat) : Keeps (execNodeComplete run node s) := by
  unfold execNodeComplete
  split
  · exact h
  · exact ite_keeps (fun _ => runGo_canonical (mapRun_canonical h _ _) _ _) fun _ => h

/-! ## Launch and tile instructions (R258 to R261) -/

theorem keyOperand_stops (s : State) (c : Ctx) (o : Operand) : StopKeeps (keyOperand s c o) := by
  unfold keyOperand
  split
  · exact ite_ends (fun _ => trivial) fun _ => trivial
  · trivial
  · exact ite_ends (fun _ => trivial) fun _ => trivial
  · trivial

theorem launching_ends {s : State} (h : s.Canonical) (denied : Option Nat) (f : Fields) (c : Ctx) : Ends Go.Keeps (launching denied f s c) := by
  unfold launching
  split
  · refine ite_ends (fun _ => trivial) fun _ => ite_ends (fun _ => h) fun _ => ?_
    have h1 := releaseAt_canonical h c.b 5
    generalize releaseAt s c.b 5 = s1 at h1 ⊢
    refine ite_ends (fun _ => h1) fun _ => ?_
    dsimp only
    refine ite_ends (fun _ => h1) fun _ => ?_
    split
    · exact h1
    · rename_i e
      exact counted_canonical (submit_canonical h1 e) _ _
  · trivial

theorem execLaunch_keeps {s : State} (h : s.Canonical) (f : Fields) : Keeps (execLaunch f s) :=
  issue_keeps h fun _ c h => launching_ends h none f c

theorem execGrun_keeps {s : State} (h : s.Canonical) (f : Fields) : Keeps (execGrun f s) := by
  refine issue_keeps h fun s c h => ?_
  dsimp only
  split
  · have h1 := releaseAt_canonical h c.b 5
    exact ite_ends (fun _ => trivial) fun _ => ite_ends (fun _ => h) fun _ => ite_ends (fun _ => h1) fun _ =>
      counted_canonical (setRunReqs_canonical h1 _) _ _
  · trivial

theorem setPubs_canonical {s : State} (h : s.Canonical) (l : List Publication) : ({ s with pubs := l } : State).Canonical := h

theorem countOnFlag_canonical {s : State} (h : s.Canonical) (c : Ctx) (f : Fields) (id : Nat) (b : Bool) : (countOnFlag s c f id b).Canonical := h

theorem execBlaze_keeps {s : State} (h : s.Canonical) (f : Fields) : Keeps (execBlaze f s) := by
  refine issue_keeps h fun s c h => ?_
  dsimp only
  split
  · split
    · exact (keyOperand_stops s c _).error ‹_›
    · exact ite_ends (fun _ => h) fun _ =>
        countOnFlag_canonical (setPubs_canonical (fresh_canonical (releaseAt_canonical h _ _)) _) _ _ _ _
  · trivial

theorem execBlzq_keeps {s : State} (h : s.Canonical) (f : Fields) : Keeps (execBlzq f s) := by
  refine issue_keeps h fun s c h => ?_
  dsimp only
  split
  · exact result_canonical h _ _ _ _ _ _ _ _ _ _
  · exact (keyOperand_stops s c _).error ‹_›
  · trivial

theorem setBlazes_canonical {s : State} (h : s.Canonical) (l : List Blaze) : ({ s with blazes := l } : State).Canonical := h

theorem execBlzdrop_keeps {s : State} (h : s.Canonical) (f : Fields) : Keeps (execBlzdrop f s) := by
  refine issue_keeps h fun s c h => ?_
  split
  · exact (keyOperand_stops s c _).error ‹_›
  · exact counted_canonical (setBlazes_canonical h _) _ _

/-! ## Publications (R256, R257) -/

theorem publisherDouble_canonical {s : State} (h : s.Canonical) (p : Publication) (va : Nat) : (publisherDouble s p va).Canonical := by
  unfold publisherDouble
  split
  · exact doubleAt_canonical h _
  · exact doubleFault_canonical h _ _ _

theorem setListed_canonical {s : State} (h : s.Canonical) (l : List Listed) (o : List Nat) :
    ({ s with listed := l, overflowed := o } : State).Canonical := h

theorem listBlaze_canonical {s : State} (h : s.Canonical) (p : Publication) : (listBlaze s p).Canonical := by
  refine ite_canonical (fun _ => h) fun _ => ?_
  split
  · exact h
  · dsimp only
    split
    · exact publisherDouble_canonical h _ _
    · exact setListed_canonical (pinWrite_canonical h ‹_›) _ _

theorem stalePublisher_canonical {s : State} (h : s.Canonical) (p : Publication) (gen : W16) : (stalePublisher s p gen).Canonical := by
  unfold stalePublisher
  dsimp only
  split
  · exact fatalFault_canonical h _ _ _ _ _ _ _ _
  · exact raiseRecord_canonical h _

theorem publish_canonical {s : State} (h : s.Canonical) (p : Publication) : (publish s p).Canonical := by
  unfold publish
  dsimp only
  split
  · exact ite_canonical (fun _ => setBlazes_canonical h _) fun _ => ite_canonical (fun _ => stalePublisher_canonical h _ _) fun _ =>
      setBlazes_canonical h _
  · exact ite_canonical (fun _ => listBlaze_canonical h _) fun _ => setBlazes_canonical h _

theorem execBlazePublish_keeps {s : State} (h : s.Canonical) (pub : Nat) : Keeps (execBlazePublish pub s) := by
  unfold execBlazePublish
  split
  · exact h
  · exact mapWave_canonical (publish_canonical (setPubs_canonical h _) _) _ _ _

end Sys2Proof.Machine
end

section
/-!
PROOF. The canonical forms: rounds and completions (R12, R30, R115), the store path and the directory (R162, R229), and page faults (R291).
-/
namespace Sys2Proof.Machine

/-! ## Opening a clause (R12, R46) -/

theorem openEntry_canonical {s : State} (h : s.Canonical) (r : ERef) (second : Bool) : (openEntry s r second).1.Canonical := by
  unfold openEntry
  split
  · exact h
  · rename_i c _
    dsimp only
    generalize (if (c.e.idx == 0 || c.e.clause.isEmpty) = true then fetchClause s c.b (16 * c.e.hdr.toNat) else .ok c.e.clause) = words
    split
    · exact takePage_canonical h _ _ _ _ _
    · exact fatalFault_canonical h _ _ _ _ _ _ _ _
    · exact h
    · have h1 : (if (c.e.idx == 0 || c.e.clause.isEmpty) = true then fillTlb s c.b.who (16 * c.e.hdr.toNat) else s).Canonical :=
        ite_canonical (fun _ => fillTlb_canonical h _ _) fun _ => h
      split
      · exact fatalFault_canonical h _ _ _ _ _ _ _ _
      · split
        · exact mapWave_canonical (mapEntry_canonical h1 _ _) _ _ _
        · split
          · exact mapEntry_canonical h1 _ _
          · exact mapWave_canonical h1 _ _ _

theorem openRound_canonical (blk wave : Nat) (l : List Entry) (primary : Option (List Nat)) {s : State} (h : s.Canonical) :
    (openRound blk wave l primary s).Canonical := by
  induction l generalizing primary s with
  | nil => exact h
  | cons e t ih =>
    unfold openRound
    split
    · exact ih _ h
    · dsimp only
      have h1 := fun lane second => openEntry_canonical h { blk := blk, wave := wave, lane := lane } second
      refine ite_canonical (fun _ => ih _ h) fun _ => ite_canonical (fun _ => ih _ (h1 _ _)) fun _ => ?_
      split
      · exact ih _ (h1 _ _)
      · exact h1 _ _

theorem execRoundOpen_keeps {s : State} (h : s.Canonical) (w : WRef) : Keeps (execRoundOpen w s) := by
  unfold execRoundOpen
  split
  · exact h
  · exact ite_keeps (fun _ => h) fun _ => settleAt_canonical (openRound_canonical _ _ _ _ (mapWave_canonical h _ _ _)) _

/-! ## Completions (R25, R30, R115, R162) -/

theorem setFree_canonical {s : State} (h : s.Canonical) (n : Nat) : ({ s with free := n } : State).Canonical := h

theorem execLongLatencyComplete_keeps {s : State} (h : s.Canonical) (w : WRef) (op : Nat) : Keeps (execLongLatencyComplete w op s) := by
  unfold execLongLatencyComplete
  split
  · exact h
  · split
    · exact h
    · rename_i o _
      refine ite_keeps (fun _ => h) fun _ => ?_
      extract_lets s1 s2
      have h1 : s1.Canonical := by
        show State.Canonical (match o.rast with | some r => _ | none => _)
        split
        · exact applyRast_canonical h _ _ _
        · exact h
      have h2 := settleAt_canonical (setFree_canonical (mapWave_canonical h1 w.blk w.wave fun v => landOp s.free v o) (s.free + 1)) w
      exact ite_canonical (fun _ => checkBarrier_canonical h2 _) fun _ => h2

theorem execE6Push_keeps {s : State} (h : s.Canonical) (w : WRef) : Keeps (execE6Push w s) := by
  unfold execE6Push
  split
  · exact h
  · split
    · exact h
    · exact ite_keeps (fun _ => h) fun _ => settleAt_canonical (mapWave_canonical h _ _ _) _

theorem execWaveEnd_keeps {s : State} (h : s.Canonical) (w : WRef) : Keeps (execWaveEnd w s) := by
  unfold execWaveEnd
  split
  · exact h
  · exact ite_keeps (fun _ => h) fun _ => ite_keeps (fun _ => ite_keeps (fun _ => endBlock_canonical h _ _) fun _ => h) fun _ =>
      retest_canonical (checkClaims_canonical (checkBarrier_canonical (mapWave_canonical h _ _ _) _) _) _ _

theorem setPath_canonical {s : State} (h : s.Canonical) (l : List Pending) : ({ s with path := l } : State).Canonical := h

theorem execBackgroundComplete_keeps {s : State} (h : s.Canonical) (die core idx : Nat) (refused : Bool) :
    Keeps (execBackgroundComplete die core idx refused s) := by
  unfold execBackgroundComplete
  extract_lets mine
  split
  · exact h
  · rename_i p _
    have h1 := setPath_canonical h (s.path.erase p)
    refine ite_keeps (fun _ => h) fun _ => ite_keeps (fun _ => checkBarriers_canonical (performStore_canonical h1 p) _ _) fun _ =>
      ite_keeps (fun _ => h) fun _ => ?_
    dsimp only
    split
    · exact h1
    · exact fatalFault_canonical h1 _ _ _ _ _ _ _ _

/-! ## The directory (R229) -/

theorem markFilled_canonical {s : State} (h : s.Canonical) (line : Nat) (x : Holder) : (markFilled s line x).Canonical := by
  unfold markFilled
  split
  · split
    · exact h
    · split
      · exact h
      · split
        · exact h
        · exact fillWindow_canonical h _ _ _
  · exact h

theorem keepShared_canonical {s : State} (h : s.Canonical) (x : Holder) (line : Nat) : (keepShared x s line).Canonical :=
  ite_canonical (fun _ => h) fun _ => h

theorem execDirReadShared_keeps {s : State} (h : s.Canonical) (line : Nat) (x : Holder) : Keeps (execDirReadShared line x s) :=
  ite_keeps (fun _ => keepShared_canonical (readShared_canonical (markFilled_canonical h _ _) _ _) _ _) fun _ => h

theorem execDirReadOwn_keeps {s : State} (h : s.Canonical) (line : Nat) (x : Holder) : Keeps (execDirReadOwn line x s) := by
  have h1 := readOwn_canonical (markFilled_canonical h line x) line x
  refine ite_keeps (fun _ => ?_) fun _ => h
  cases x with
  | engine c => exact clearReservations_canonical h1 _
  | _ => exact h1

theorem execDirWriteBack_keeps {s : State} (h : s.Canonical) (line : Nat) (x : Holder) : Keeps (execDirWriteBack line x s) := by
  unfold execDirWriteBack
  split
  · exact h
  · exact ite_keeps (fun _ => setDirs_canonical (writeBackEnt_canonical h _) _) fun _ => h

theorem execDirRecall_keeps {s : State} (h : s.Canonical) (line : Nat) (x : Holder) (toShared : Bool) : Keeps (execDirRecall line x toShared s) := by
  unfold execDirRecall
  split
  · exact h
  · exact ite_keeps (fun _ => h) fun _ => setDirs_canonical (writeBackEnt_canonical h _) _

/-! ## Page faults (R291) -/

theorem mapPage_canonical {s : State} (h : s.Canonical) (oid va : Nat) (leaf : W64) : (mapPage s oid va leaf).Canonical := by
  unfold mapPage
  split
  · split
    · exact pairWrite_canonical h _ _ _
    · exact h
  · exact h

theorem setPfs_canonical {s : State} (h : s.Canonical) (l : List PageFault) : ({ s with pfs := l } : State).Canonical := h

theorem replay_canonical {s : State} (h : s.Canonical) (p : PageFault) : (replay s p).Canonical := by
  have h1 := setPfs_canonical h (s.pfs.filter fun x => x.id != p.id)
  unfold replay
  dsimp only
  split
  · exact mapEntry_canonical h1 _ _
  · exact mapEntry_canonical h1 _ _
  · exact mapCopy_canonical h1 _ _
  · exact runGo_canonical h1 _ _
  · exact h1
  · exact h1
  · exact h1

theorem refuseRecord_canonical {s : State} (h : s.Canonical) (r : ERef) (va : Nat) : (refuseRecord s r va).Canonical := by
  have h1 := mapEntry_canonical h r fun e => { e with hold := .none }
  unfold refuseRecord
  dsimp only
  split
  · exact h1
  · split
    · exact issueChecked_canonical (setFree_canonical h1 _) _ _ _ (launching_ends (setFree_canonical h1 _) _ _ _)
    · exact h1

theorem denyPage_canonical {s : State} (h : s.Canonical) (p : PageFault) : (denyPage s p).Canonical := by
  have h1 := setPfs_canonical h (s.pfs.filter fun x => x.id != p.id)
  unfold denyPage
  dsimp only
  split
  · split
    · exact h1
    · exact fatalFault_canonical h1 _ _ _ _ _ _ _ _
  · exact refuseRecord_canonical h1 _ _
  · split
    · exact h1
    · split
      · exact h1
      · exact copyFault_canonical h1 _ _ _ _ _
  · exact getD_canonical (fun t e => (acceptEntry_keeps h1 _ _).some e) h1
  · split
    · exact h1
    · exact runsGo_canonical (completeLaunch_canonical h1 _ _) _
  · exact runGo_canonical h1 _ _
  · split
    · exact h1
    · split
      · exact h1
      · exact phaseFault_canonical h1 _ _ _ _ _

theorem execPageFaultResolve_keeps {s : State} (h : s.Canonical) (pf : Nat) (r : PfAnswer) : Keeps (execPageFaultResolve pf r s) := by
  unfold execPageFaultResolve
  split
  · exact h
  · dsimp only
    split
    · exact ite_keeps (fun _ => h) fun _ => foldl_canonical (fun _ _ h => replay_canonical h _) _ (mapPage_canonical h _ _ _)
    · exact foldl_canonical (fun _ _ h => ite_canonical (fun _ => denyPage_canonical h _) fun _ => h) _ h

end Sys2Proof.Machine
end

section
/-!
PROOF. The canonical forms under `exec` and under a step: every row of the table keeps them, and so do the moves and the passing of time.
-/
namespace Sys2Proof.Machine

/-! ## Rows of the table -/

theorem intInstr_keeps {s : State} (h : s.Canonical) (opc : Nat) (ks : List Nat) (fn : Ty → W32 → List Nat → Res) (f : Fields) :
    Keeps (intInstr opc ks fn f s) := computing_keeps h ..

theorem floatInstr_keeps {s : State} (h : s.Canonical) (opc : Nat) (ks : List Nat) (long : Bool) (g : FEnv → List Nat → Res) (f : Fields) :
    Keeps (floatInstr opc ks long g f s) := computing_keeps h ..

theorem specialInstr_keeps {s : State} (h : s.Canonical) (opc : Nat) (fn : SpecialFn) (f : Fields) : Keeps (specialInstr opc fn f s) :=
  floatInstr_keeps h ..

theorem execLea_keeps {s : State} (h : s.Canonical) (f : Fields) : Keeps (execLea f s) := by
  unfold execLea
  split
  · exact ite_keeps (fun _ => computing_keeps h ..) fun _ => issue_keeps h fun _ _ _ => trivial
  · exact issue_keeps h fun _ _ _ => trivial

theorem execUnpk_keeps {s : State} (h : s.Canonical) (f : Fields) : Keeps (execUnpk f s) := by
  unfold execUnpk
  split
  · exact ite_keeps (fun _ => computing_keeps h ..) fun _ => issue_keeps h fun _ _ _ => trivial
  · exact issue_keeps h fun _ _ _ => trivial

/-- Every row of the opcode table, and every event, keeps the canonical forms. -/
theorem exec_keeps {s : State} (h : s.Canonical) (i : Instr) : Keeps (exec i s) := by
  cases i with
  | iadd f => exact (intInstr_keeps h .. : Keeps (execIadd f s))
  | isub f => exact (intInstr_keeps h .. : Keeps (execIsub f s))
  | iaddc f => exact (carrying_keeps h .. : Keeps (execIaddc f s))
  | isubb f => exact (carrying_keeps h .. : Keeps (execIsubb f s))
  | iadds f => exact (intInstr_keeps h .. : Keeps (execIadds f s))
  | isubs f => exact (intInstr_keeps h .. : Keeps (execIsubs f s))
  | imul f => exact (intInstr_keeps h .. : Keeps (execImul f s))
  | imulh f => exact (intInstr_keeps h .. : Keeps (execImulh f s))
  | imad f => exact (intInstr_keeps h .. : Keeps (execImad f s))
  | imadw f => exact (computing_keeps h .. : Keeps (execImadw f s))
  | idiv f => exact (computing_keeps h .. : Keeps (execIdiv f s))
  | irem f => exact (computing_keeps h .. : Keeps (execIrem f s))
  | ineg f => exact (intInstr_keeps h .. : Keeps (execIneg f s))
  | iabs f => exact (intInstr_keeps h .. : Keeps (execIabs f s))
  | imin f => exact (intInstr_keeps h .. : Keeps (execImin f s))
  | imax f => exact (intInstr_keeps h .. : Keeps (execImax f s))
  | iclamp f => exact (intInstr_keeps h .. : Keeps (execIclamp f s))
  | idiff f => exact (computing_keeps h .. : Keeps (execIdiff f s))
  | idp4 f => exact (computing_keeps h .. : Keeps (execIdp4 f s))
  | idp2 f => exact (computing_keeps h .. : Keeps (execIdp2 f s))
  | lea f => exact execLea_keeps h ..
  | mov f => exact execMov_keeps h ..
  | movw f => exact (computing_keeps h .. : Keeps (execMovw f s))
  | and f => exact (intInstr_keeps h .. : Keeps (execAnd f s))
  | or f => exact (intInstr_keeps h .. : Keeps (execOr f s))
  | xor f => exact (intInstr_keeps h .. : Keeps (execXor f s))
  | andn f => exact (intInstr_keeps h .. : Keeps (execAndn f s))
  | not f => exact (intInstr_keeps h .. : Keeps (execNot f s))
  | shl f => exact (intInstr_keeps h .. : Keeps (execShl f s))
  | shr f => exact (intInstr_keeps h .. : Keeps (execShr f s))
  | sar f => exact (intInstr_keeps h .. : Keeps (execSar f s))
  | rotl f => exact (intInstr_keeps h .. : Keeps (execRotl f s))
  | rotr f => exact (intInstr_keeps h .. : Keeps (execRotr f s))
  | funnel f => exact (computing_keeps h .. : Keeps (execFunnel f s))
  | bfx f => exact (intInstr_keeps h .. : Keeps (execBfx f s))
  | bfi f => exact (intInstr_keeps h .. : Keeps (execBfi f s))
  | brev f => exact (intInstr_keeps h .. : Keeps (execBrev f s))
  | popc f => exact (computing_keeps h .. : Keeps (execPopc f s))
  | clz f => exact (computing_keeps h .. : Keeps (execClz f s))
  | ctz f => exact (computing_keeps h .. : Keeps (execCtz f s))
  | fadd f => exact (floatInstr_keeps h .. : Keeps (execFadd f s))
  | fsub f => exact (floatInstr_keeps h .. : Keeps (execFsub f s))
  | fmul f => exact (floatInstr_keeps h .. : Keeps (execFmul f s))
  | ffma f => exact (floatInstr_keeps h .. : Keeps (execFfma f s))
  | fmin f => exact (floatInstr_keeps h .. : Keeps (execFmin f s))
  | fmax f => exact (floatInstr_keeps h .. : Keeps (execFmax f s))
  | fminn f => exact (floatInstr_keeps h .. : Keeps (execFminn f s))
  | fmaxn f => exact (floatInstr_keeps h .. : Keeps (execFmaxn f s))
  | fabs f => exact (floatInstr_keeps h .. : Keeps (execFabs f s))
  | fclamp f => exact (floatInstr_keeps h .. : Keeps (execFclamp f s))
  | frnd f => exact (floatInstr_keeps h .. : Keeps (execFrnd f s))
  | ffrac f => exact (floatInstr_keeps h .. : Keeps (execFfrac f s))
  | fscl f => exact (computing_keeps h .. : Keeps (execFscl f s))
  | fexpn f => exact (computing_keeps h .. : Keeps (execFexpn f s))
  | fmant f => exact (floatInstr_keeps h .. : Keeps (execFmant f s))
  | fdiv f => exact (floatInstr_keeps h .. : Keeps (execFdiv f s))
  | fsqrt f => exact (floatInstr_keeps h .. : Keeps (execFsqrt f s))
  | frcp f => exact (specialInstr_keeps h .. : Keeps (execFrcp f s))
  | frsq f => exact (specialInstr_keeps h .. : Keeps (execFrsq f s))
  | fexp2 f => exact (specialInstr_keeps h .. : Keeps (execFexp2 f s))
  | flog2 f => exact (specialInstr_keeps h .. : Keeps (execFlog2 f s))
  | fsin f => exact (specialInstr_keeps h .. : Keeps (execFsin f s))
  | fcos f => exact (specialInstr_keeps h .. : Keeps (execFcos f s))
  | ftanh f => exact (specialInstr_keeps h .. : Keeps (execFtanh f s))
  | cvt f => exact (computing_keeps h .. : Keeps (execCvt f s))
  | pack f => exact (computing_keeps h .. : Keeps (execPack f s))
  | unpk f => exact execUnpk_keeps h ..
  | bpack f => exact execBpack_keeps h ..
  | bunpk f => exact execBunpk_keeps h ..
  | isetp f => exact (testing_keeps h .. : Keeps (execIsetp f s))
  | fsetp f => exact (testing_keeps h .. : Keeps (execFsetp f s))
  | fclass f => exact (testing_keeps h .. : Keeps (execFclass f s))
  | sel f => exact execSel_keeps h ..
  | plop f => exact execPlop_keeps h ..
  | ptov f => exact execPtov_keeps h ..
  | vtop f => exact execVtop_keeps h ..
  | shfl f => exact execShfl_keeps h ..
  | tlu f => exact execTlu_keeps h ..
  | zip2 f => exact (zipping_keeps h .. : Keeps (execZip2 f s))
  | zip3 f => exact (zipping_keeps h .. : Keeps (execZip3 f s))
  | zip4 f => exact (zipping_keeps h .. : Keeps (execZip4 f s))
  | unz2 f => exact (zipping_keeps h .. : Keeps (execUnz2 f s))
  | unz3 f => exact (zipping_keeps h .. : Keeps (execUnz3 f s))
  | unz4 f => exact (zipping_keeps h .. : Keeps (execUnz4 f s))
  | vote f => exact execVote_keeps h ..
  | reduce f => exact execReduce_keeps h ..
  | wscan f => exact execWscan_keeps h ..
  | rdlane f => exact execRdlane_keeps h ..
  | bra f => exact execBra_keeps h ..
  | brx f => exact execBrx_keeps h ..
  | call f => exact execCall_keeps h ..
  | callB64 f => exact execCallB64_keeps h ..
  | ret f => exact execRet_keeps h ..
  | joinm f => exact execJoinm_keeps h ..
  | leavem f => exact execLeavem_keeps h ..
  | waitm f => exact execWaitm_keeps h ..
  | mskmov f => exact execMskmov_keeps h ..
  | exit f => exact execExit_keeps h ..
  | nop f => exact execNop_keeps h ..
  | yield f => exact execYield_keeps h ..
  | ld f => exact (loading_keeps h .. : Keeps (execLd f s))
  | st f => exact (storing_keeps h .. : Keeps (execSt f s))
  | lds f => exact (loading_keeps h .. : Keeps (execLds f s))
  | sts f => exact (storing_keeps h .. : Keeps (execSts f s))
  | stmap f => exact execStmap_keeps h ..
  | stunmap f => exact execStunmap_keeps h ..
  | stflush f => exact execStflush_keeps h ..
  | pref f => exact execPref_keeps h ..
  | atom f => exact execAtom_keeps h ..
  | atomr f => exact execAtomr_keeps h ..
  | cas f => exact execCas_keeps h ..
  | lr f => exact execLr_keeps h ..
  | sc f => exact execSc_keeps h ..
  | fence f => exact execFence_keeps h ..
  | waita f => exact execWaita_keeps h ..
  | waitaReevaluate e => exact execWaitaReevaluate_keeps h ..
  | waitaTimeout e => exact execWaitaTimeout_keeps h ..
  | acqReg f => exact (acquire_keeps h .. : Keeps (execAcqReg f s))
  | acqMslot f => exact (acquire_keeps h .. : Keeps (execAcqMslot f s))
  | acqt f => exact execAcqt_keeps h ..
  | rel f => exact execRel_keeps h ..
  | give f => exact execGive_keeps h ..
  | claim f => exact execClaim_keeps h ..
  | carveGet f => exact execCarveGet_keeps h ..
  | carveTry f => exact execCarveTry_keeps h ..
  | carvePut f => exact execCarvePut_keeps h ..
  | phase f => exact execPhase_keeps h ..
  | bar f => exact execBar_keeps h ..
  | regroup f => exact execRegroup_keeps h ..
  | mtenQuiesce f => exact execMtenQuiesce_keeps h ..
  | mtenResume f => exact execMtenResume_keeps h ..
  | mtenReset f => exact execMtenReset_keeps h ..
  | mtenCtr f => exact execMtenCtr_keeps h ..
  | mwld f => exact execMwld_keeps h ..
  | mswap f => exact execMswap_keeps h ..
  | mrun f => exact execMrun_keeps h ..
  | minit f => exact execMinit_keeps h ..
  | mrda f => exact execMrda_keeps h ..
  | mrdaOvf f => exact execMrdaOvf_keeps h ..
  | msync f => exact execMsync_keeps h ..
  | enqE0 f => exact execEnqE0_keeps h ..
  | enqE1 f => exact execEnqE1_keeps h ..
  | deq f => exact execDeq_keeps h ..
  | mwldExecute blk => exact execMwldExecute_keeps h ..
  | mswapExecute blk => exact execMswapExecute_keeps h ..
  | mrunExecute blk => exact execMrunExecute_keeps h ..
  | minitExecute blk => exact execMinitExecute_keeps h ..
  | mrdaExecute blk => exact execMrdaExecute_keeps h ..
  | slotChangeEffect blk => exact execSlotChangeEffect_keeps h ..
  | gbar f => exact execGbar_keeps h ..
  | gbarComplete gang => exact execGbarComplete_keeps h ..
  | cpy f => exact execCpy_keeps h ..
  | cpyS f => exact execCpyS_keeps h ..
  | copyExecute cid => exact execCopyExecute_keeps h ..
  | copyStatusPush cid => exact execCopyStatusPush_keeps h ..
  | launch f => exact execLaunch_keeps h ..
  | grun f => exact execGrun_keeps h ..
  | blaze f => exact execBlaze_keeps h ..
  | blzq f => exact execBlzq_keeps h ..
  | blzdrop f => exact execBlzdrop_keeps h ..
  | pxst f => exact execPxst_keeps h ..
  | pxld f => exact execPxld_keeps h ..
  | tex f => exact execTex_keeps h ..
  | texf f => exact execTexf_keeps h ..
  | rast f => exact execRast_keeps h ..
  | trap f => exact execTrap_keeps h ..
  | svc f => exact execSvc_keeps h ..
  | rtt f => exact execRtt_keeps h ..
  | brkp f => exact execBrkp_keeps h ..
  | mfsr f => exact execMfsr_keeps h ..
  | mtsr f => exact execMtsr_keeps h ..
  | roundOpen w => exact execRoundOpen_keeps h ..
  | longLatencyComplete w op => exact execLongLatencyComplete_keeps h ..
  | e6Push w => exact execE6Push_keeps h ..
  | waveEnd w => exact execWaveEnd_keeps h ..
  | pendingGrant die core => exact execPendingGrant_keeps h ..
  | phaseEnd blk => exact execPhaseEnd_keeps h ..
  | regroupPermute blk => exact execRegroupPermute_keeps h ..
  | dirReadShared line k => exact execDirReadShared_keeps h ..
  | dirReadOwn line k => exact execDirReadOwn_keeps h ..
  | dirWriteBack line k => exact execDirWriteBack_keeps h ..
  | dirRecall line k toShared => exact execDirRecall_keeps h ..
  | promote blk => exact execPromote_keeps h ..
  | racqProceed e => exact execRacqProceed_keeps h ..
  | pageFaultResolve pf r => exact execPageFaultResolve_keeps h ..
  | queueArrival qid => exact execQueueArrival_keeps h ..
  | queueEntryAccept qid => exact execQueueEntryAccept_keeps h ..
  | blockCreate launch => exact execBlockCreate_keeps h ..
  | phaseReady phase => exact execPhaseReady_keeps h ..
  | phaseDispatch die core => exact execPhaseDispatch_keeps h ..
  | ageingPeriod die => exact execAgeingPeriod_keeps h ..
  | launchComplete launch => exact execLaunchComplete_keeps h ..
  | quotaPeriodStart die => exact execQuotaPeriodStart_keeps h ..
  | quotaOverrun die oid => exact execQuotaOverrun_keeps h ..
  | blazePublish pub => exact execBlazePublish_keeps h ..
  | graphRunStart die => exact execGraphRunStart_keeps h ..
  | nodeComplete run node => exact execNodeComplete_keeps h ..
  | priorityPreempt die => exact execPriorityPreempt_keeps h ..
  | blockPark blk => exact execBlockPark_keeps h ..
  | svcReplyLand oid slot bytes => exact execSvcReplyLand_keeps h ..
  | svcReplyDeliver w => exact execSvcReplyDeliver_keeps h ..
  | precmd v => exact execPrecmd_keeps h ..
  | preemptHalt blk => exact execPreemptHalt_keeps h ..
  | preemptSave blk => exact execPreemptSave_keeps h ..
  | tlbi v => exact execTlbi_keeps h ..
  | l2ModeSwitch v => exact execL2ModeSwitch_keeps h ..
  | ftAssign v => exact (ftEvent_keeps h .. : Keeps (execFtAssign v s))
  | ftRelease v => exact (ftEvent_keeps h .. : Keeps (execFtRelease v s))
  | ftBiasToHost v => exact (ftEvent_keeps h .. : Keeps (execFtBiasToHost v s))
  | ftBiasToDevice v => exact (ftEvent_keeps h .. : Keeps (execFtBiasToDevice v s))
  | hostCxlMemRead addr n => exact execHostCxlMemRead_keeps h ..
  | hostCxlMemWrite addr bytes => exact execHostCxlMemWrite_keeps h ..
  | hostSnoop line write => exact execHostSnoop_keeps h ..
  | hostRegisterRead fn off => exact execHostRegisterRead_keeps h ..
  | msixSend fn vec => exact execMsixSend_keeps h ..
  | mailboxDoorbell fn => exact execMailboxDoorbell_keeps h ..
  | mailboxReply fn bytes => exact execMailboxReply_keeps h ..
  | joracFinalise fn => exact execJoracFinalise_keeps h ..
  | lockstepMismatch die => exact execLockstepMismatch_keeps h ..
  | heartbeatTimeout die => exact execHeartbeatTimeout_keeps h ..
  | takeoverAttempt die => exact execTakeoverAttempt_keeps h ..
  | throttleDown die => exact execThrottleDown_keeps h ..
  | throttleUp die => exact execThrottleUp_keeps h ..
  | gladeEnable g => exact execGladeEnable_keeps h ..
  | gladeDisable g => exact execGladeDisable_keeps h ..
  | memlayWrite v => exact (writeMemlay_canonical h .. : Keeps (execMemlayWrite v s))
  | accessTableWrite t iid win v => exact execAccessTableWrite_keeps h ..
  | peerRequest p k addr r => exact execPeerRequest_keeps h ..
  | shenerMacFailure port => exact execShenerMacFailure_keeps h ..
  | functionLevelReset n => exact execFunctionLevelReset_keeps h ..
  | tagWalkSweep die v => exact execTagWalkSweep_keeps h ..
  | spdmGetMeasurements fn r => exact execSpdmGetMeasurements_keeps h ..
  | rollbackRecord r => exact execRollbackRecord_keeps h ..
  | fatalError cause => exact execFatalError_keeps h ..
  | frameStart d => rw [exec]; exact execFrameStart_keeps h d
  | mapCommand d v => exact execMapCommand_keeps h ..
  | captureStart d v => exact execCaptureStart_keeps h ..
  | displayEnable d v => exact execDisplayEnable_keeps h ..
  | displayDisable d v => exact execDisplayDisable_keeps h ..
  | registerWrite port v => exact execRegisterWrite_keeps h ..
  | backgroundComplete die core idx refused => exact execBackgroundComplete_keeps h ..
  | kill t => exact execKill_keeps h ..
  | shenerKeyExchange k => exact execShenerKeyExchange_keeps h ..
  | firmwareImageUpdate u => exact execFirmwareImageUpdate_keeps h ..
  | leaderElection => exact execLeaderElection_keeps h
  | heartbeat => exact execHeartbeat_keeps h
  | deviceReset => exact execDeviceReset_keeps h
  | biasFlipComplete => exact execBiasFlipComplete_keeps h
  | ideKmKeyProg slot key => exact execIdeKmKeyProg_keeps h ..

/-! ## Moves (R10, R42, R148) -/

theorem setCur_canonical {s : State} (h : s.Canonical) (r : ERef) : ({ s with cur := some r } : State).Canonical := h

theorem issueFrom_canonical {s : State} (h : s.Canonical) (r : ERef) (goes : Bool) : (issueFrom s r goes).Canonical := by
  have h1 := fun g => setCur_canonical (mapWave_canonical h r.blk r.wave g) r
  unfold issueFrom
  dsimp only
  split
  · exact ite_canonical (fun _ => setPhase_canonical (h1 _) _ _) fun _ => h1 _
  · exact h1 _

theorem execCur_keeps {s : State} (h : s.Canonical) : Keeps (execCur s) := by
  unfold execCur
  split
  · trivial
  · split
    · trivial
    · split
      · exact takeFault_canonical h _ _ _ _ _
      · exact exec_keeps h _

theorem runIssue_keeps {s : State} (h : s.Canonical) (r : ERef) : Keeps (runIssue s r) := by
  have h1 : (toIssue s r).Canonical := issueFrom_canonical h _ _
  unfold runIssue
  dsimp only
  split
  · trivial
  · exact ite_keeps (fun _ => trivial) fun _ => execCur_keeps h1

theorem runMove_keeps {s : State} (h : s.Canonical) (m : Move) : Keeps (runMove s m) := by
  cases m with
  | issue r => exact runIssue_keeps h r
  | ev i => exact ite_keeps (fun _ => h) fun _ => exec_keeps h i

theorem taken_keeps {s : State} (h : s.Canonical) (m : Move) : SomeKeeps (taken s m) := by
  have h1 := runMove_keeps h m
  unfold taken
  split
  · have h2 := h1.next ‹_›
    split
    · trivial
    · exact h2
  · trivial

/-- The first of several states that is there keeps the canonical forms where each of them does. -/
theorem findSome_keeps {α : Type} {g : α → Option State} (hg : ∀ a, SomeKeeps (g a)) (l : List α) : SomeKeeps (l.findSome? g) := by
  cases e : l.findSome? g with
  | none => trivial
  | some t =>
    obtain ⟨a, _, ha⟩ := List.exists_of_findSome?_eq_some e
    exact (hg a).some ha

theorem firstMove_keeps {s : State} (h : s.Canonical) : SomeKeeps (firstMove s) :=
  findSome_keeps (fun _ => findSome_keeps (taken_keeps h) _) _

/-! ## Time -/

theorem countUsed_canonical {s : State} (h : s.Canonical) : (countUsed s).Canonical := h

theorem settleBlocks_canonical {s : State} (h : s.Canonical) : (settleBlocks s).Canonical :=
  foldl_canonical (fun _ _ h => endBlock_canonical h _ _) _ h

theorem settleAll_canonical {s : State} (h : s.Canonical) : (settleAll s).Canonical :=
  settleRuns_canonical (settleBlocks_canonical (settleClaims_canonical (settleBarriers_canonical (settlePrecmd_canonical
    (settleTlbi_canonical (settleMaps_canonical (settleReplies_canonical (settleRecords_canonical (grantLines_canonical h)))))))))

theorem setClk_canonical {s : State} (h : s.Canonical) (l : List W64) : ({ s with clk := l } : State).Canonical := h

theorem setPhases_canonical {s : State} (h : s.Canonical) (l : List Phase) : ({ s with phases := l } : State).Canonical := h

theorem tick_canonical {s : State} (h : s.Canonical) : (tick s).Canonical := by
  have h1 := clkTenants_canonical (countUsed_canonical (settleOverrun_canonical (settleAll_canonical h)))
  unfold tick
  extract_lets s1 s2
  have h2 : s2.Canonical := setClk_canonical h1 _
  clear_value s2
  exact ite_canonical (fun _ => h2) fun _ => foldl_canonical (fun _ _ h => noteEligible_canonical h _) _ (setPhases_canonical h2 _)

/-! ## A step -/

theorem agendaStep_keeps {s : State} (h : s.Canonical) (m : Move) : Keeps (agendaStep s m) := by
  refine ite_keeps (fun _ => trivial) fun _ => ?_
  split
  · exact tick_canonical ((runMove_keeps h m).next ‹_›)
  · trivial
  · exact tick_canonical h

theorem freeStep_keeps {s : State} (h : s.Canonical) : Keeps (freeStep s) := by
  refine ite_keeps (fun _ => ?_) fun _ => ?_
  · split
    · exact tick_canonical ((findSome_keeps (taken_keeps h) _).some ‹_›)
    · trivial
  · split
    · exact tick_canonical ((firstMove_keeps h).some ‹_›)
    · exact tick_canonical h

theorem setAgenda_canonical {s : State} (h : s.Canonical) (l : List Move) : ({ s with agenda := l } : State).Canonical := h

theorem oneStep_keeps {s : State} (h : s.Canonical) : Keeps (oneStep s) := by
  unfold oneStep
  split
  · exact agendaStep_keeps (setAgenda_canonical h _) _
  · exact freeStep_keeps h

/-! ## The obligation -/

/-- Settles O55: a lemma for each function of the model says that it keeps the canonical forms, as it writes memory, the control block and the
frame table by the operations that keep them; `oneStep` is put together from them. -/
theorem canonicalFormsKept : Obligations.CanonicalFormsKept := by
  unfold Obligations.CanonicalFormsKept
  intro s t h e
  exact (oneStep_keeps h).next e

end Sys2Proof.Machine
end

section
/-!
PROOF. Threads and waves: the order of entries (R10), reads of a wave after a change of it, the context in which an entry issues (R42),
and the step that runs an issue (R12, log entry 11).
-/
namespace Sys2Proof.Machine

/-! ## The order of entries (R10) -/

theorem Entry.before_iff (a e : Entry) : a.before e = true ↔
    e.prio < a.prio ∨ (a.prio = e.prio ∧ (a.hdr < e.hdr ∨ (a.hdr = e.hdr ∧ a.idx < e.idx))) := by
  simp [Entry.before]

/-- Settles O58: the order is the lexicographic one of priority (falling), header address and index, each a linear order. -/
theorem entryOrder : Obligations.EntryOrder := by
  unfold Obligations.EntryOrder
  refine ⟨Entry.before_iff, fun a e hne => ?_, fun a b e hab hbe => ?_⟩
  · rw [← Bool.not_eq_true, Entry.before_iff, Entry.before_iff]
    simp only [BitVec.lt_def, ← BitVec.toNat_inj] at *
    omega
  · rw [Entry.before_iff] at *
    simp only [BitVec.lt_def, ← BitVec.toNat_inj] at *
    omega

/-! ## Waves after a change of one wave -/

/-- A change that keeps the key leaves the first match in its place. -/
theorem find?_updWhere {α : Type} {p : α → Bool} {g : α → α} (hg : ∀ a, p a = true → p (g a) = true) (l : List α) :
    (updWhere p g l).find? p = (l.find? p).map g := by
  induction l with
  | nil => rfl
  | cons a t ih =>
    by_cases h : p a = true
    · simp [updWhere, h, hg a h]
    · simp [updWhere, h, ih]

theorem State.block?_mapBlock (s : State) (u : Nat) {g : Block → Block} (hg : ∀ b, (g b).uid = b.uid) :
    (s.mapBlock u g).block? u = (s.block? u).map g :=
  find?_updWhere (fun b hb => by simpa [hg] using hb) _

theorem Block.wave?_mapWave (b : Block) (n : Nat) {g : Wave → Wave} (hg : ∀ w, (g w).wave = w.wave) :
    (b.mapWave n g).wave? n = (b.wave? n).map g :=
  find?_updWhere (fun w hw => by simpa [hg] using hw) _

theorem State.wave?_eq_some {s : State} {r : WRef} {b : Block} {w : Wave} :
    s.wave? r = some (b, w) ↔ s.block? r.blk = some b ∧ b.wave? r.wave = some w := by
  unfold State.wave?
  cases s.block? r.blk with
  | none => simp
  | some x =>
    simp only [Option.map_eq_some_iff, Prod.mk.injEq, Option.some.injEq]
    constructor
    · rintro ⟨v, hv, rfl, rfl⟩
      exact ⟨rfl, hv⟩
    · rintro ⟨rfl, hv⟩
      exact ⟨w, hv, rfl, rfl⟩

theorem State.wave?_mapWave {s : State} {r : WRef} {b : Block} {w : Wave} {g : Wave → Wave} (h : s.wave? r = some (b, w))
    (hg : ∀ w, (g w).wave = w.wave) : (s.mapWave r.blk r.wave g).wave? r = some (b.mapWave r.wave g, g w) := by
  obtain ⟨hb, hw⟩ := State.wave?_eq_some.1 h
  have hb' : (s.mapWave r.blk r.wave g).block? r.blk = (s.block? r.blk).map fun b => b.mapWave r.wave g :=
    State.block?_mapBlock s r.blk fun _ => rfl
  exact State.wave?_eq_some.2 ⟨by rw [hb', hb]; rfl, by rw [Block.wave?_mapWave b r.wave hg, hw]; rfl⟩

/-! ## The issuing entry (R42) -/

/-- An entry that is ready, of a wave that runs, is the one that issues when `cur` names it. -/
theorem ctxOf_eq_some {s : State} {r : ERef} {b : Block} {w : Wave} {e : Entry} (hcur : s.cur = some r)
    (hw : s.wave? { blk := r.blk, wave := r.wave } = some (b, w)) (he : w.entry? r.lane = some e) (hready : e.ready = true)
    (hhalt : b.halt ≠ .halted) (hend : w.ended = false) :
    ctxOf s = some { b := b, w := w, e := e, hdr := e.clause.headD 0, ref := r, clk := s.clkOf b.die, seed := s.free } := by
  obtain ⟨hb, hv⟩ := State.wave?_eq_some.1 hw
  simp [ctxOf, hcur, hb, hv, he, hready, hhalt, hend]

/-- A wave's turn changes neither its number nor its entries, and does not end it. -/
theorem Wave.issues_same (w : Wave) (lane clk n : Nat) (goes : Bool) :
    (w.issues lane clk n goes).wave = w.wave ∧ (w.issues lane clk n goes).frontier = w.frontier ∧
      (w.issues lane clk n goes).ended = w.ended := by
  unfold Wave.issues
  split
  · cases goes <;> exact ⟨rfl, rfl, rfl⟩
  · exact ⟨rfl, rfl, rfl⟩

/-- Where the block's phase runs already, an entry's issue gives its wave its turn and changes no other part of the device. -/
theorem issueFrom_of_running {s : State} {r : ERef} {b : Block} (hb : s.block? r.blk = some b)
    (hp : ∀ p, s.phase? r.blk = some p → p.st ≠ .dispatched) (goes : Bool) :
    issueFrom s r goes =
      { s.mapWave r.blk r.wave (fun w => w.issues r.lane (s.clkOf b.die) (s.free + 1) goes) with cur := some r } := by
  unfold issueFrom
  rw [hb]
  dsimp only
  split
  · exact if_neg (hp _ ‹_›)
  · rfl

/-- A ready entry of a running block stands to issue in the state in which it issues, at its die's clk. -/
theorem ctxOf_toIssue {s : State} {r : ERef} {b : Block} {w : Wave} {e : Entry}
    (hw : s.wave? { blk := r.blk, wave := r.wave } = some (b, w)) (he : w.entry? r.lane = some e) (hready : e.ready = true)
    (hhalt : b.halt ≠ .halted) (hend : w.ended = false) (hp : ∀ p, s.phase? r.blk = some p → p.st ≠ .dispatched) :
    ∃ c, ctxOf (toIssue s r) = some c ∧ c.e = e ∧ c.clk = s.clkOf b.die := by
  obtain ⟨hb, _⟩ := State.wave?_eq_some.1 hw
  rw [toIssue, issueFrom_of_running hb hp]
  generalize (entryOf s r).any (goesNow s r) = goes
  obtain ⟨_, hfront, hended⟩ := w.issues_same r.lane (s.clkOf b.die) (s.free + 1) goes
  have hw' := State.wave?_mapWave hw fun v => (v.issues_same r.lane (s.clkOf b.die) (s.free + 1) goes).1
  exact ⟨_, ctxOf_eq_some rfl hw' (by rw [Wave.entry?, hfront]; exact he) hready hhalt (hended.trans hend), rfl, rfl⟩

/-- The issue of an entry that is due and in its turn is the meaning of its decoded word. -/
theorem runIssue_eq_exec {s : State} {r : ERef} {c : Ctx} {w : W128} {i : Instr} (hc : ctxOf (toIssue s r) = some c)
    (hdue : c.e.notBefore ≤ c.clk) (hturn : outOfTurn s r = false) (hw : c.e.word = some w) (hd : decode w = .ok i) :
    runIssue s r = exec i (toIssue s r) := by
  simp [runIssue, hc, hturn, Nat.not_lt.2 hdue, execCur, hw, hd]

/-- A step whose agenda begins with an issue runs it, and then time passes. -/
theorem step_of_runIssue {s t : State} {r : ERef} {rest : List Move} (ha : s.agenda = .issue r :: rest) (hf : s.fatal = false)
    (h : runIssue { s with agenda := rest } r = .next t) : step s = .next (tick t) := by
  have hf' : ({ s with agenda := rest } : State).fatal = false := hf
  simp [step, oneStep, ha, agendaStep, hf', runMove, h]

theorem decode_of_decodeTableWord {n w : Nat} {i : Instr} (h : decodeTableWord n w = some i) :
    decode (BitVec.ofNat 128 w) = .ok i := by
  unfold decodeTableWord at h
  split at h
  · cases h
    assumption
  · cases h

/-! ## The placed word (log entry 11) -/

/-- The entry that `placeWord` leaves at the word. -/
def placedEntry (w : W128) : Entry :=
  { hdr := 0, idx := 0, prio := 0, mask := 0xFFFFFFFF, park := 0, opn := true, second := false,
    clause := [headerFor w, w], notBefore := 0, hold := .none, done := 0, watch := [] }

/-- The state after reset in which the word has been placed and its issue is the move under way. -/
def placedState (w : W128) : State := { placeWord State.reset w with agenda := [] }

theorem placedEntry_ready (w : W128) : (placedEntry w).ready = true := by simp [placedEntry, Entry.ready]

theorem placedState_wave? (w : W128) :
    (placedState w).wave? { blk := 1, wave := 0 } = some (oneBlock State.reset 1 0 w, oneWave State.reset w) := rfl

theorem oneWave_entry? (w : W128) : (oneWave State.reset w).entry? 0 = some (placedEntry w) := by
  have hlane : (0xFFFFFFFF : W32).getLsbD 0 = true := by decide
  exact List.find?_cons_of_pos hlane

theorem placedState_phase (w : W128) (p : Phase) (h : (placedState w).phase? 1 = some p) : p.st ≠ .dispatched := by
  cases h
  decide

/-- The one wave of the device is in its turn, and no instruction has issued before. -/
theorem placedState_inTurn (w : W128) : outOfTurn (placedState w) { blk := 1, wave := 0, lane := 0 } = false := by
  have hover : overtaken (placedState w) (oneBlock State.reset 1 0 w) (oneWave State.reset w) (placedEntry w) = false := rfl
  have hbehind : behind (placedState w) (oneBlock State.reset 1 0 w) (oneWave State.reset w) = false := rfl
  simp [outOfTurn, placedState_wave?, oneWave_entry?, hover, hbehind]

theorem reset_fatal : State.reset.fatal = false := by decide

/-- Settles O51: the placed entry is ready, due and in its turn, so the step's move is its issue, and the issue of an entry is the
meaning of its decoded word. -/
theorem placedWordRunsNext : Obligations.PlacedWordRunsNext := by
  unfold Obligations.PlacedWordRunsNext
  intro w i t hd s s0
  let u := placedState (BitVec.ofNat 128 w)
  obtain ⟨c, hc, he, hclk⟩ := ctxOf_toIssue (s := u) (r := { blk := 1, wave := 0, lane := 0 }) (placedState_wave? _) (oneWave_entry? _)
    (placedEntry_ready _) (fun h => nomatch h) rfl (placedState_phase _)
  have hword : c.e.word = some (BitVec.ofNat 128 w) := by rw [he]; rfl
  refine ⟨⟨c, hc, by rw [he]; rfl, hword⟩, fun hx => ?_⟩
  have hrun : runIssue u { blk := 1, wave := 0, lane := 0 } = exec i s0 :=
    runIssue_eq_exec hc (by rw [he]; exact Nat.zero_le _) (placedState_inTurn _) hword (decode_of_decodeTableWord hd)
  exact step_of_runIssue rfl reset_fatal (hrun.trans hx)

end Sys2Proof.Machine
end

section
/-!
PROOF. Threads and waves: the collectives (R25, R109 to R112) and the special registers (R23, R121, R122).
-/
namespace Sys2Proof.Machine

/-! ## Collectives -/

theorem e6Full_eq_false {w : Wave} (h : w.e6.length + w.flights.length < 4) : e6Full w = false := by
  simp only [e6Full, decide_eq_false_iff_not]
  omega

/-- Settles O11: each collective's meaning passes its checks, reads its source and goes on. RDLANE takes its lane from a constant below
32, or from a scalar modulo 32, and reads a v register, a queue entry or an element of e5. -/
theorem collectivesComplete : Obligations.CollectivesComplete := by
  unfold Obligations.CollectivesComplete
  refine ⟨fun f s c op v present w hst hop hroom hsrc => issue_goesOn hst ?_,
    fun f s c op ls w hst hop hne hdest hread => issue_goesOn hst ?_,
    fun f s c k v present w hst hlane hsrc hroom htree => issue_goesOn hst ?_⟩
  · simp [hop, e6Full_eq_false hroom, hsrc]
  · simp [hop, hne, hdest, hread, positions]
  · have hroom' := e6Full_eq_false hroom
    obtain ⟨h2, hk⟩ | ⟨n, h2, rfl⟩ := hlane
    · have hk' : k % 64 = k := Nat.mod_eq_of_lt (by omega)
      obtain ⟨n, h1⟩ | ⟨n, h1⟩ | h1 := hsrc <;> simp [h2, h1, hk, hk', hroom', htree]
    · obtain ⟨m, h1⟩ | ⟨m, h1⟩ | h1 := hsrc <;> simp [h2, h1, hroom', htree]

/-! ## MFSR and MTSR -/

/-- A write of MODE by MTSR takes the bits that a program may write, keeps the interlock bit, and keeps the sticky bits that are still to
be raised. -/
theorem setMode_writeMode (w : Wave) (clk : Nat) (x : W32) :
    w.setMode clk (writeMode w.mode x) =
      { w with mode := (x &&& 0x1F1F) ||| (w.mode &&& 0x10000), late := w.late.filter fun d => decide (clk < d.1) } := rfl

/-- Settles O16: MFSR's operands are legal, and MODE is read only where no sticky bit is due; MTSR's value has a legal rounding mode
whichever of its sources gives it. -/
theorem specialRegisterMovesComplete : Obligations.SpecialRegisterMovesComplete := by
  unfold Obligations.SpecialRegisterMovesComplete
  refine ⟨fun f s c n hst h1 hn hscalar hdest hdue => issue_goesOn hst ?_, fun f s c x hst h1 hrnd hx => issue_goesOn hst ?_⟩
  · have hlegal : ¬ (16 ≤ n.val ∨ (isScalar 0x384 f = true ∧ (n.val = 0 ∨ n.val = 8)) ∨
        (!destOk c f.op0 (isScalar 0x384 f) false false) = true) := by
      rintro (h | ⟨h, h0⟩ | h)
      · omega
      · have := hscalar h
        omega
      · simp [hdest] at h
    have hgo : ¬ (n.val = 5 ∧ stickyDue c = true) := fun ⟨h5, h⟩ => by simp [hdue h5] at h
    simp only [h1]
    exact (if_neg hlegal).trans (if_neg hgo)
  · have hlegal : ¬ (f.op1 ≠ .int 5 ∨ 5 ≤ x.toNat % 8) := by simp [h1, hrnd]
    rw [← setMode_writeMode]
    obtain ⟨n, h2, rfl⟩ | ⟨n, h2, rfl⟩ | ⟨h2, rfl⟩ | ⟨h2, rfl⟩ | ⟨h2, rfl⟩ := hx <;>
      (simp only [h2]; exact if_neg hlegal)

end Sys2Proof.Machine
end

section
/-!
PROOF. Threads and waves: the events of a wave (R10, R12, R25, R30, R115, R171, R232, R284).
-/
namespace Sys2Proof.Machine

/-! ## The events of a wave, each under what makes it due -/

section WaveEvents

variable {s : State} {r : WRef} {b : Block} {v : Wave} (hw : s.wave? r = some (b, v))
include hw

/-- R10, R12. A wave with entries that may open and none open opens them in the order of their ranks. -/
theorem roundOpen_next (hhalt : b.halt ≠ .halted) (hend : v.ended = false) (hopn : (v.frontier.any fun e => e.opn) = false)
    (hready : (v.frontier.any fun e => v.mayOpen e && !fetchHeld s b e) = true) :
    exec (.roundOpen r) s = .next (settleAt (openRound r.blk r.wave
      (sortEntries ((v.frontier.filter fun e => v.mayOpen e && !fetchHeld s b e).map (Entry.ranked s b))) none
      (s.mapWave r.blk r.wave fun v => { v with frontier := v.frontier.map (Entry.ranked s b) })) r) := by
  have hsome : (v.frontier.filter fun e => v.mayOpen e && !fetchHeld s b e).isEmpty = false := by
    simpa [List.isEmpty_eq_false_iff, List.filter_eq_nil_iff] using hready
  simp only [exec_roundOpen, execRoundOpen, hw]
  exact if_neg (by simp [hhalt, hend, hopn, hsome])

/-- R30. Work that is ready and due lands; a RAST has drawn its triangles before its result lands (R355). -/
theorem longLatencyComplete_next {id : Nat} {o : LongOp} (ho : (v.ops.find? fun o => o.id == id) = some o) (hready : o.ready = true)
    (hdue : o.due ≤ s.clkOf b.die) (hrast : (o.rast.isSome && (commandWaits s id || earlierRast s b id)) = false) :
    let t : State := settleAt { (o.rast.elim s (applyRast r.blk r.wave s)).mapWave r.blk r.wave fun v => landOp s.free v o with
      free := s.free + 1 } r
    exec (.longLatencyComplete r id) s = .next (if o.access then checkBarrier t r.blk else t) := by
  simp only [exec_longLatencyComplete, execLongLatencyComplete, hw, ho]
  refine (if_neg (by simp [hready, hdue, hrast])).trans ?_
  cases o.rast <;> rfl

/-- R25. The oldest result in flight reaches e6 at its clk. -/
theorem e6Push_next {x : Flight} {l : List Flight} (hx : v.flights = x :: l) (hdue : x.due ≤ s.clkOf b.die) :
    exec (.e6Push r) s = .next (settleAt (s.mapWave r.blk r.wave fun v => ({ v with
      flights := l, e6 := v.e6 ++ [(x.value, x.seq)], ops := v.ops.filter fun o => o.id != x.op }).sticky x.sticky.toNat) r) := by
  simp only [exec_e6Push, execE6Push, hw, hx]
  exact if_neg (Nat.not_lt.2 hdue)

/-- R115. The last wave of a block ends the block. -/
theorem waveEnd_last (hend : v.ended = false) (hlive : v.live = 0) (hdone : waveWorkDone s b v = true)
    (hlast : (b.waves.all fun x => x.ended || x.wave == r.wave) = true) (hqueue : b.queueEmpty = true)
    (hpath : pathStuck s b.die b.core = false) (hcopies : (s.copies.all fun c => c.blk != r.blk) = true) :
    exec (.waveEnd r) s = .next (endBlock s r.blk false) := by
  simp only [exec_waveEnd, execWaveEnd, hw]
  exact (if_neg (by simp [hend, hlive, hdone])).trans
    ((if_pos hlast).trans (if_pos (by rw [hqueue, hpath, hcopies]; rfl)))

/-- R115. A wave that others of its block outlive returns its claim. -/
theorem waveEnd_outlived (hend : v.ended = false) (hlive : v.live = 0) (hdone : waveWorkDone s b v = true)
    (hlast : (b.waves.all fun x => x.ended || x.wave == r.wave) = false) :
    exec (.waveEnd r) s = .next (retest (checkClaims (checkBarrier
      (s.mapWave r.blk r.wave fun v => { v with ended := true, claim := 0, v := [] }) r.blk) r.blk) b.die b.core) := by
  simp only [exec_waveEnd, execWaveEnd, hw]
  exact (if_neg (by simp [hend, hlive, hdone])).trans (if_neg (by simp [hlast]))

theorem entry?_of_wave? {lane : Nat} {x : Entry} (hx : v.entry? lane = some x) :
    s.entry? { blk := r.blk, wave := r.wave, lane := lane } = some x := by
  simp [State.entry?, hw, hx]

/-- R171. Every lane of the WAITA is satisfied. -/
theorem waitaReevaluate_next {lane : Nat} {x : Entry} {t : Watch} (hx : v.entry? lane = some x) (ht : x.watchOf lane = some t)
    (hpark : x.park = 13) (hall : (t.lanes.all fun p => (satisfied s (b.seenBy r.wave) t).getLsbD p.1) = true)
    (hheld : watchHeld s b r.wave t = false) :
    exec (.waitaReevaluate { blk := r.blk, wave := r.wave, lane := lane }) s =
      .next (releaseWaita s { blk := r.blk, wave := r.wave, lane := lane } b x t (satisfied s (b.seenBy r.wave) t)) := by
  simp only [exec_waitaReevaluate, execWaitaReevaluate, hw, entry?_of_wave? hw hx, ht]
  exact if_pos ⟨hpark, hall, by simp [hheld]⟩

/-- R171. The WAITA's time is up. -/
theorem waitaTimeout_next {lane : Nat} {x : Entry} {t : Watch} {d : Nat} (hx : v.entry? lane = some x) (ht : x.watchOf lane = some t)
    (hpark : x.park = 13) (hd : t.deadline = some d) (hdue : d ≤ s.clkOf b.die) :
    exec (.waitaTimeout { blk := r.blk, wave := r.wave, lane := lane }) s =
      .next (releaseWaita s { blk := r.blk, wave := r.wave, lane := lane } b x t (satisfied s (b.seenBy r.wave) t)) := by
  simp only [exec_waitaTimeout, execWaitaTimeout, hw, entry?_of_wave? hw hx, ht, hd]
  exact if_pos ⟨hpark, hdue⟩

end WaveEvents

/-- Every record that the acquire met is one whose promotion it has had, or one of a block that has gone. -/
theorem racq_all_over {s : State} {l : List Racq}
    (h : ∀ a ∈ l, ∀ y ∈ s.rels, y.line = a.line → a.promoted = some y.num ∨ s.block? y.blk = none) :
    (l.all fun a => !s.rels.any fun y => y.line == a.line && a.promoted != some y.num && (s.block? y.blk).isSome) = true := by
  simp only [List.all_eq_true, Bool.not_eq_true', List.any_eq_false, Bool.and_eq_true, beq_iff_eq, bne_iff_ne]
  rintro a ha y hy ⟨⟨hline, hnum⟩, hblk⟩
  rcases h a ha y hy hline with h1 | h1
  · exact hnum h1
  · simp [h1] at hblk

/-- An instruction whose entry may issue is answered with a next state. -/
theorem issue_answers {s : State} (h : ctxOf s ≠ none) (opc : Nat) (f : Fields) (k : State → Ctx → Except Stop Go) :
    ∃ t, issue opc f s k = .next t := by
  obtain ⟨c, hc⟩ := Option.ne_none_iff_exists'.1 h
  rcases issue_cases (opc := opc) (f := f) (k := k) hc with ⟨_, h1⟩ | h1 | ⟨_, _, h1⟩ | ⟨_, _, h1⟩ | ⟨_, _, h1⟩ <;> exact ⟨_, h1⟩

/-- The state in which a promoted acquire issues again. -/
def reissued (s : State) (e : ERef) : State := { s.mapEntry e (fun x => { x with hold := .none }) with cur := some e }

/-- R232. A promoted acquire goes on as the instruction at which it was held. -/
theorem racqProceed_eq {s : State} {e : ERef} {x : Entry} {l : List Racq} (hx : s.entry? e = some x) (hl : x.hold = .racq l)
    (hover : ∀ a ∈ l, ∀ y ∈ s.rels, y.line = a.line → a.promoted = some y.num ∨ s.block? y.blk = none) (f : Fields) :
    (x.word.map decode = some (.ok (.atomr f)) →
      exec (.racqProceed e) s = issue 0x241 f (reissued s e) (atomRmw 0x241 true true f)) ∧
    (x.word.map decode = some (.ok (.fence f)) → exec (.racqProceed e) s = issue 0x245 f (reissued s e) (fenceGo true f)) := by
  have hgo := racq_all_over hover
  refine ⟨fun hf => ?_, fun hf => ?_⟩
  · simp only [exec_racqProceed, execRacqProceed, hx, hl, hf]
    exact if_pos hgo
  · simp only [exec_racqProceed, execRacqProceed, hx, hl, hf]
    exact if_pos hgo

/-- R284. What a delivery step does where e7 has room or nothing is left to deliver, and the reply can be read. -/
theorem svcReplyDeliver_next {s : State} {r : WRef} {b : Block} {v : Wave} (hw : s.wave? r = some (b, v)) {q : SvcReq} {l : List Byte}
    (hq : (s.svcs.find? fun x => x.landed && x.blk == r.blk && x.wave == r.wave && b.halt != .halted) = some q)
    (hroom : v.e7.length < 8 ∨ q.nret ≤ q.given) (hheld : pinsHeld s q.oid [(svcArgs s q.oid q.slot, 2048)] false = false)
    (hread : pinRead s q.oid (svcArgs s q.oid q.slot) 2048 = some l) :
    let n := min (q.nret - q.given) (8 - v.e7.length)
    let s1 := s.mapWave r.blk r.wave fun v => { v with e7 := v.e7 ++ (List.range n).map fun i => replyElement l q (q.given + i) }
    let wake (e : Entry) : Entry := if e.park = 15 then { e with park := 0, notBefore := max e.notBefore (s.clkOf b.die + 1) } else e
    exec (.svcReplyDeliver r) s = .next (if q.given + n < q.nret then
        { s1 with svcs := updWhere (isSvc q) (fun x => { x with given := x.given + n }) s1.svcs }
      else settleAt { s1.mapWave r.blk r.wave fun v => { v with svc := [], frontier := v.frontier.map wake } with
        svcs := s1.svcs.filter fun x => !isSvc q x } r) := by
  intro n s1 wake
  have hgo : ¬ ((n = 0 ∧ q.given < q.nret) ∨ pinsHeld s q.oid [(svcArgs s q.oid q.slot, 2048)] false = true) := by
    simp only [hheld, Bool.false_eq_true, or_false]
    omega
  simp only [exec_svcReplyDeliver, execSvcReplyDeliver, hw, hq]
  refine (if_neg hgo).trans ?_
  simp only [hread]
  exact (apply_ite Host.Outcome.next _ _ _).symm

/-- Settles O38: each event of a wave has a lemma that says what it does where it is due. -/
theorem waveEventsComplete : Obligations.WaveEventsComplete := by
  unfold Obligations.WaveEventsComplete
  intro s r b v hw
  refine ⟨roundOpen_next hw, fun id o ho hready hdue => ⟨fun hrast => ?_, fun x hrast hwait hearlier => ?_⟩, fun x l => e6Push_next hw,
    fun hend hlive hdone => ⟨waveEnd_last hw hend hlive hdone, waveEnd_outlived hw hend hlive hdone⟩,
    fun lane x t hx ht hpark => ⟨waitaReevaluate_next hw hx ht hpark, fun d => waitaTimeout_next hw hx ht hpark⟩,
    ?_, fun q hq hroom hheld l hread => ?_⟩
  · have h := longLatencyComplete_next hw ho hready hdue (by rw [hrast]; rfl)
    rw [hrast] at h
    exact h
  · have h := longLatencyComplete_next hw ho hready hdue (by rw [hwait, hearlier, Bool.or_self, Bool.and_false])
    rw [hrast] at h
    exact h
  · intro lane x l f hx hl hover e s1 hc
    obtain ⟨hatomr, hfence⟩ := racqProceed_eq (entry?_of_wave? hw hx) hl hover f
    refine ⟨fun hf => ?_, fun hf => ?_⟩
    · obtain ⟨t, ht⟩ := issue_answers hc 0x241 f (atomRmw 0x241 true true f)
      exact ⟨t, (hatomr hf).trans ht, ht⟩
    · obtain ⟨t, ht⟩ := issue_answers hc 0x245 f (fenceGo true f)
      exact ⟨t, (hfence hf).trans ht, ht⟩
  · have h := svcReplyDeliver_next hw hq hroom hheld hread
    refine ⟨fun hmore => h.trans (congrArg _ (if_pos hmore)), ?_⟩
    intro hlast
    exact h.trans (congrArg _ (if_neg (Nat.not_lt.2 hlast)))

end Sys2Proof.Machine
end

section
/-!
PROOF. Number formats: the conversions (R66 to R68) and the bit-plane groups (R69, R70).
-/
namespace Sys2Proof.Machine

/-! ## Conversions -/

/-- The meaning of each instruction of the table of conversions is the shared shape of R74 with the table's operation; of UNPK only where
element k exists (R68). -/
theorem exec_of_conversionValue {i : Instr} {opc : Nat} {f : Fields} {v : ValueOp} (s : State)
    (h : conversionValue i = some (opc, f, v)) : exec i s = computing opc v.srcs v.pair v.lat v.long true v.fn f s := by
  unfold conversionValue at h
  split at h
  case h_1 => cases h; exact exec_cvt s f
  case h_2 => cases h; exact exec_pack s f
  case h_3 =>
    split at h
    case h_1 k hk =>
      obtain ⟨hlt, h⟩ := Option.ite_none_right_eq_some.1 h
      cases h
      simp only [exec_unpk, execUnpk, hk]
      exact if_pos hlt
    case h_2 => cases h
  case h_4 => cases h

/-- Settles O4: each instruction of the table has the shared shape of R74, which completes with the value's effect. -/
theorem conversionValuesComplete : Obligations.ConversionValuesComplete := by
  unfold Obligations.ConversionValuesComplete ValuesComplete
  intro i opc f v s c ls w ht hready
  exact (exec_of_conversionValue s ht).trans (computing_goesOn hready)

/-! ## Bit-plane groups -/

/-- Settles O9: each meaning passes the checks of its operands, reads its sources and goes on with the planes or the elements made. -/
theorem planeInstructionsComplete : Obligations.PlaneInstructionsComplete := by
  unfold Obligations.PlaneInstructionsComplete
  refine ⟨fun f s c ls w a b hst hdest h1 h2 hread => issue_goesOn hst ?_,
    fun f s c ls w a h p hst hdest h1 h2 h3 hhalf hpos hwidth hread => issue_goesOn hst ?_⟩
  · simp [hdest, h1, h2, hread]
  · have hlegal : ¬ (2 ≤ h.val ∨ p.val = 0 ∨ elemWidth f.ty < p.val) := by omega
    simp only [hdest, h1, h2, h3, hread]
    exact if_neg hlegal

end Sys2Proof.Machine
end

section
/-!
PROOF. Integer and float instructions: the tables of values (R77 to R96), the carry instructions (R78), and MOV to a queue (R82, R221).
-/
namespace Sys2Proof.Machine

/-! ## Instructions that compute a value (R74) -/

/-- A table completes when the meaning of each of its instructions is the shared shape of R74 with the table's operation. -/
theorem valuesComplete_of_computing {table : Instr → Option (Nat × Fields × ValueOp)}
    (h : ∀ {i opc f v} (s : State), table i = some (opc, f, v) → exec i s = computing opc v.srcs v.pair v.lat v.long true v.fn f s) :
    ValuesComplete table := by
  intro i opc f v s c ls w ht hready
  exact (h s ht).trans (computing_goesOn hready)

/-- The integer instructions have the shared shape by definition, but for LEA, whose k lies below 32 (R81), and MOV, whose destination is
no queue (R82). -/
theorem exec_of_integerValue {i : Instr} {opc : Nat} {f : Fields} {v : ValueOp} (s : State)
    (h : integerValue i = some (opc, f, v)) : exec i s = computing opc v.srcs v.pair v.lat v.long true v.fn f s := by
  unfold integerValue at h
  split at h
  case h_19 =>
    split at h
    case h_1 k hk =>
      obtain ⟨hlt, h⟩ := Option.ite_none_right_eq_some.1 h
      cases h
      simp only [exec_lea, execLea, hk]
      exact if_pos hlt
    case h_2 => cases h
  case h_20 =>
    split at h
    case h_1 => cases h
    case h_2 hne =>
      cases h
      simp only [exec_mov, execMov]
  case h_22 => cases h
  all_goals cases h; rfl

/-- The instructions of bits and logic have the shared shape by definition. -/
theorem exec_of_bitValue {i : Instr} {opc : Nat} {f : Fields} {v : ValueOp} (s : State)
    (h : bitValue i = some (opc, f, v)) : exec i s = computing opc v.srcs v.pair v.lat v.long true v.fn f s := by
  unfold bitValue at h
  split at h
  case h_18 => cases h
  all_goals cases h; rfl

/-- The float instructions and the special functions have the shared shape by definition. -/
theorem exec_of_floatValue {i : Instr} {opc : Nat} {f : Fields} {v : ValueOp} (s : State)
    (h : floatValue i = some (opc, f, v)) : exec i s = computing opc v.srcs v.pair v.lat v.long true v.fn f s := by
  unfold floatValue at h
  split at h
  case h_25 => cases h
  all_goals cases h; rfl

/-- Settles O1: each integer instruction has the shared shape of R74, which completes with the value's effect. -/
theorem integerValuesComplete : Obligations.IntegerValuesComplete := valuesComplete_of_computing exec_of_integerValue

/-- Settles O2: each instruction of bits and logic has the shared shape of R74, which completes with the value's effect. -/
theorem bitValuesComplete : Obligations.BitValuesComplete := valuesComplete_of_computing exec_of_bitValue

/-- Settles O3: each float instruction has the shared shape of R74, which completes with the value's effect. -/
theorem floatValuesComplete : Obligations.FloatValuesComplete := valuesComplete_of_computing exec_of_floatValue

/-! ## IADDC and ISUBB (R78) -/

theorem exec_carry (sub : Bool) (f : Fields) (s : State) :
    exec (if sub then .isubb f else .iaddc f) s = carrying (if sub then 0x003 else 0x002) sub f s := by
  cases sub <;> rfl

/-- Settles O5: the meaning passes its checks and reads its sources and its carry-in; what it then does turns on whether a source pops a
queue. -/
theorem carryInstructionsComplete : Obligations.CarryInstructionsComplete := by
  unfold Obligations.CarryInstructionsComplete
  intro sub f s c ls w pin pout hst hdest hone hpin hpout hread i rs out
  have huse : positions [1, 2] = 6 := rfl
  rw [huse] at hone ⊢
  refine ⟨fun hpop => (exec_carry sub f s).trans (issue_goesOn hst ?_), fun hpop => (exec_carry sub f s).trans (issue_goesOn hst ?_)⟩
  · simp [hdest, hone, hpin, hpout, hread, hpop, rs, out, carryLanes, carryMask]
  · simp [hdest, hone, hpin, hpout, hread, hpop, rs, out, carryLanes, carryMask, State.fresh]

/-! ## MOV to e3 (R82, R221) -/

/-- Going on to the next position gives out no number. -/
theorem uids_eq_of_goesOn_eq {c : Ctx} {f : Fields} {s t : State} (h : goesOn c f s = goesOn c f t) : s.uids = t.uids := by
  have hnext : advance c f s = advance c f t := Host.Outcome.next.inj h
  have huids : (advance c f s).uids = (advance c f t).uids := by rw [hnext]
  exact huids

/-- Work that is counted for a queue's pop takes a fresh number. -/
theorem countPops_uids {s : State} {c : Ctx} {f : Fields} {use : Nat} (hpop : popsQueue f use = true) (hact : c.parts f ≠ 0) :
    (countPops s c f use).uids = s.uids + 1 := by
  have hcount : (popsQueue f use && c.parts f != 0) = true := by simpa [hpop] using hact
  exact congrArg State.uids (if_pos hcount)

/-- R30, R221. A MOV to e3 that leaves a record incomplete pushes its word, and is counted on its flag where its source pops a queue. -/
theorem movToE3_goesOn {f : Fields} {s : State} {c : Ctx} {ls : List (List Nat)} {w : Wave} (h0 : f.op0 = .e 3)
    (hst : Stands 0x015 f s c) (hread : readSrcs s.begun c 0x015 f (isScalar 0x015 f) (c.parts f) [1] c.w = .ok (ls, w))
    (hscalar : isScalar 0x015 f = true) (hty : is64 f.ty = false) (hroom : c.w.e3.length < 64) :
    let l : List W32 := ((ls[0]?).getD []).map fun x => BitVec.ofNat 32 x
    let q := w.e3 ++ [BitVec.ofNat 32 (movOp f.ty c.w.mode [(l.headD 0).toNat]).1]
    q.length % 16 ≠ 0 → exec (.mov f) s = goesOn c f (countPops (s.begun.withWave c { w with e3 := q }) c f (positions [1])) := by
  intro l q hpart
  simp only [exec_mov, execMov, h0]
  refine issue_goesOn hst ?_
  rw [hscalar] at hread
  simp only [hscalar, hty, hread]
  exact (if_neg (Nat.not_le.2 hroom)).trans (congrArg (Except.map _) (if_neg hpart))

/-! ### MOV.b32 e3, e4: a source that pops a queue -/

def e4ToE3 : Fields := plain .b32 (.e 3) (.e 4) .none .none .none

def e4ToE3Word : W128 := (encode (.mov e4ToE3)).getD 0

/-- The wave with one word in its e4. -/
def withE4 (w : Wave) : Wave := { w with e4 := [5] }

/-- The state after reset in which MOV.b32 e3, e4 is placed and issues, in a wave whose e4 holds a word. -/
def e4ToE3State : State := { (placedState e4ToE3Word).mapWave 1 0 withE4 with cur := some { blk := 1, wave := 0, lane := 0 } }

def e4ToE3Ctx : Ctx :=
  { b := (oneBlock State.reset 1 0 e4ToE3Word).mapWave 0 withE4, w := withE4 (oneWave State.reset e4ToE3Word), e := placedEntry e4ToE3Word,
    hdr := headerFor e4ToE3Word, ref := { blk := 1, wave := 0, lane := 0 }, clk := 0, seed := 0 }

theorem e4ToE3_ctxOf : ctxOf e4ToE3State = some e4ToE3Ctx :=
  ctxOf_eq_some rfl (State.wave?_mapWave (placedState_wave? e4ToE3Word) fun _ => rfl) (oneWave_entry? _) (placedEntry_ready _)
    (fun h => nomatch h) rfl

theorem e4ToE3_stands : Stands 0x015 e4ToE3 e4ToE3State e4ToE3Ctx := ⟨e4ToE3_ctxOf, by decide, rfl, by decide⟩

theorem e4ToE3_reads : readSrcs e4ToE3State.begun e4ToE3Ctx 0x015 e4ToE3 (isScalar 0x015 e4ToE3) (e4ToE3Ctx.parts e4ToE3) [1] e4ToE3Ctx.w =
    .ok ([List.replicate 32 5], { e4ToE3Ctx.w with e4 := [] }) := rfl

/-- Refutes O6: a MOV to e3 from e4 pops a queue, so it is long-latency and takes a number to be counted on its flag (R30); the statement's
clause for e3 leaves that work out. -/
theorem not_movToQueueCompletes : ¬ Obligations.MovToQueueCompletes := by
  unfold Obligations.MovToQueueCompletes
  intro h
  obtain ⟨_, _, _, he3⟩ := h e4ToE3 3 e4ToE3State e4ToE3Ctx _ _ rfl e4ToE3_stands e4ToE3_reads
  have hscalar : isScalar 0x015 e4ToE3 = true := by decide
  have hroom : e4ToE3Ctx.w.e3.length < 64 := by decide
  have hpart : (e4ToE3Ctx.w.e3 ++ [(5 : W32)]).length % 16 ≠ 0 := by decide
  obtain ⟨hclaimed, _⟩ := he3 rfl hscalar rfl hroom
  have hreal := movToE3_goesOn rfl e4ToE3_stands e4ToE3_reads hscalar rfl hroom hpart
  have hsame := uids_eq_of_goesOn_eq (hreal.symm.trans (hclaimed hpart))
  rw [countPops_uids (by decide) (by decide)] at hsame
  exact Nat.succ_ne_self _ hsame

end Sys2Proof.Machine
end

section
/-!
PROOF. Lanes: tests (R99 to R101), predicate instructions (R102) and lane moves (R104 to R107).
-/
namespace Sys2Proof.Machine

/-! ## Tests -/

/-- R99. A test with a legal code and destination completes with its bit in every participating lane. -/
theorem testing_goesOn {opc lat : Nat} {code : Fields → Bool} {fn : W32 → List Nat → Bool × Nat} {f : Fields} {s : State} {c : Ctx}
    {ls : List (List Nat)} {w : Wave} (hst : Stands opc f s c) (hcode : code f = true)
    (hdst : (∃ n, f.op0 = .p n) ∨ (isScalar opc f = true ∧ ∃ n, f.op0 = .s n))
    (hone : isScalar opc f = true ∨ oneScalar f (positions [1, 2]) = true)
    (hread : readSrcs s.begun c opc f (isScalar opc f) (c.parts f) [1, 2] c.w = .ok (ls, w)) :
    let at0 (l : Nat) : List Nat := ls.map fun v => (v[l]?).getD 0
    let rs : List (Bool × Nat) := lanes32.map fun l =>
      if isScalar opc f then fn c.w.mode (at0 0) else if (c.parts f).getLsbD l then fn c.w.mode (at0 l) else (false, 0)
    testing opc lat code fn f s = goesOn c f (result s.begun c w f f.op0 (isScalar opc f) (popsQueue f (positions [1, 2])) (c.parts f) lat
      [rs.map fun r => if r.1 then 1 else 0] (allFlags (rs.map fun r => (0, r.2)))) := by
  intro at0 rs
  refine issue_goesOn hst ?_
  have huse : positions [1, 2] = 6 := rfl
  rw [huse] at hone ⊢
  simp only [hread]
  obtain ⟨n, h0⟩ | ⟨hscalar, n, h0⟩ := hdst
  · have hone' : (!isScalar opc f && !oneScalar f 6) = false := by
      rcases hone with h | h <;> simp [h]
    exact if_neg (by simp only [h0, hcode, hone']; simp)
  · exact if_neg (by simp only [h0, hcode, hscalar]; simp)

/-- Settles O7: the three instructions have the shared shape of a test, FCLASS with no condition code to check. -/
theorem testsComplete : Obligations.TestsComplete := by
  unfold Obligations.TestsComplete
  rintro f s c ls w i opc lat fn (⟨rfl, rfl, rfl, hcode, rfl⟩ | ⟨rfl, rfl, rfl, hcode, rfl⟩ | ⟨rfl, rfl, rfl, rfl⟩) hst hdst hone hread
  · rw [exec_isetp]
    exact testing_goesOn hst hcode hdst hone hread
  · rw [exec_fsetp]
    exact testing_goesOn hst hcode hdst hone hread
  · rw [exec_fclass]
    exact testing_goesOn hst rfl hdst hone hread

/-! ## Predicate instructions -/

/-- Settles O8: each meaning finds its predicates and its legal operands, reads its sources and goes on. PLOP's second source is the one
that its operation asks for: a predicate below 8, and none from 8 on, which stands for p15. -/
theorem predicateInstructionsComplete : Obligations.PredicateInstructionsComplete := by
  unfold Obligations.PredicateInstructionsComplete
  refine ⟨fun f s c ls w n hst hone hne hdest hp hread => issue_goesOn hst ?_,
    fun f s c d a b op hst hd ha h3 hop => issue_goesOn hst ?_,
    fun f s c n hst hne hdest hp => issue_goesOn hst ?_,
    fun f s c ls w d hst hd hread => issue_goesOn hst ?_⟩
  · have huse : positions [2, 3] = 12 := rfl
    rw [huse] at hone ⊢
    simp [hone, hne, hdest, hp, hread]
  · have hsrc : (if op.val < 8 then predNum f.op2 else if f.op2 = .none then some 15 else none) = some b := by
      obtain ⟨hlt, hb⟩ | ⟨hge, -, h2, rfl⟩ := hop
      · exact (if_pos hlt).trans hb
      · exact (if_neg (Nat.not_lt.2 hge)).trans (if_pos h2)
    have hlegal : ¬ 9 < op.val := by omega
    simp [hd, ha, h3, hsrc, hlegal]
  · simp [hne, hdest, hp]
  · simp [hd, hread, positions]

/-! ## Lane moves -/

theorem lt_of_mem_lanes32 {l : Nat} (h : l ∈ lanes32) : l < 32 := by
  simp only [lanes32, List.mem_cons, List.not_mem_nil, or_false] at h
  omega

/-- R106. Every lane of every output register of ZIPk and UNZk takes one of the k sources. -/
theorem zipFrom_source_lt (unz : Bool) {k j l : Nat} (hj : j < k) (hl : l < 32) : (zipFrom unz k j l).1 < k := by
  cases unz with
  | false => exact Nat.mod_lt _ (Nat.zero_lt_of_lt hj)
  | true =>
    have h : k * l + j < k * 32 := calc
      k * l + j < k * (l + 1) := by rw [Nat.mul_succ]; omega
      _ ≤ k * 32 := Nat.mul_le_mul_left k hl
    exact (Nat.div_lt_iff_lt_mul (by decide)).2 h

/-- R106. A ZIPk or UNZk whose k sources all read completes: no read stops it, and each lane finds its value among what they read. -/
theorem zipping_goesOn {opc k : Nat} {unz : Bool} {f : Fields} {s : State} {c : Ctx} {vs : List (List Nat)} (hst : Stands opc f s c)
    (hdest : vectorsOk c f.op0 k = true)
    (hsrc : ∀ j, j < k → laneKind false (f.op (j + 1)) = true ∧ ∃ w, readLanes s.begun c c.w opc f false
      (zipReads unz k (c.parts f) j) (j + 1) = .ok ((vs[j]?).getD [], w)) :
    zipping opc unz k f s = goesOn c f (result s.begun c c.w f f.op0 false false (c.parts f) 8
      ((List.range k).map fun r => lanes32.map fun l =>
        BitVec.ofNat 32 (arg ((vs[(zipFrom unz k r l).1]?).getD []) (zipFrom unz k r l).2)) 0) := by
  refine issue_goesOn hst ?_
  have hkinds : (((List.range k).map fun i => i + 1).all fun i => laneKind false (f.op i)) = true := by
    simp only [List.all_map, List.all_eq_true, List.mem_range]
    exact fun j hj => (hsrc j hj).1
  refine (if_neg (by simp [hdest, hkinds])).trans ?_
  dsimp only
  split
  case h_1 herror =>
    obtain ⟨i, hi, hstop⟩ := List.mem_map.1 (List.mem_of_find?_eq_some herror)
    obtain ⟨j, hj, rfl⟩ := List.mem_map.1 hi
    obtain ⟨w, hw⟩ := (hsrc j (List.mem_range.1 hj)).2
    exact nomatch hw.symm.trans hstop
  case h_2 =>
    refine congrArg (fun ws => Except.ok (Go.seq (result s.begun c c.w f f.op0 false false (c.parts f) 8 ws 0))) ?_
    refine List.map_congr_left fun r hr => List.map_congr_left fun l hl => ?_
    have hlt := zipFrom_source_lt unz (List.mem_range.1 hr) (lt_of_mem_lanes32 hl)
    obtain ⟨w, hw⟩ := (hsrc _ hlt).2
    simp [hlt, hw]

/-- Table 5.5, as a choice of the operation. -/
theorem voteOp_eq (op : Nat) (p parts : W32) : voteOp op p parts =
    if op = 0 then (if p &&& parts = parts then 1 else 0)
    else if op = 1 then (if p &&& parts = 0 then 0 else 1)
    else if op = 2 then (if p &&& parts = parts ∨ p &&& parts = 0 then 1 else 0)
    else p &&& parts := by
  match op with
  | 0 | 1 | 2 | _ + 3 => rfl

/-- Settles O10: SHFL, TLU and VOTE pass the checks of their operands and go on with what they read; the six ZIPs and UNZs have one shared
shape. -/
theorem laneMovesComplete : Obligations.LaneMovesComplete := by
  unfold Obligations.LaneMovesComplete
  refine ⟨fun f s c ix a w w1 hst hne hdest h1 h2 hix hread => issue_goesOn hst ?_,
    fun f s c t n ls w hst h2 h3 hpos hle hclaim hne hdest h1 h4 hone hread => issue_goesOn hst ?_,
    fun f s c i opc k unz vs hi hst hdest hsrc => ?_,
    fun f s c n op hst hp h2 hop hdest => issue_goesOn hst ?_⟩
  · simp [hne, hdest, h1, h2, hix, hread]
  · have huse : positions [1, 4] = 18 := rfl
    rw [huse] at hone
    have hlegal : ¬ (n.val = 0 ∨ 8 < n.val ∨ 8 * c.w.claim < t.val + n.val) := by omega
    simp only [h2, h3, hread]
    exact (if_neg hlegal).trans (if_neg (by simp [hne, hdest, h1, h4, hone]))
  · have hexec : exec i s = zipping opc unz k f s := by
      simp only [List.mem_cons, List.not_mem_nil, or_false, Prod.mk.injEq] at hi
      obtain ⟨rfl, rfl, rfl, rfl⟩ | ⟨rfl, rfl, rfl, rfl⟩ | ⟨rfl, rfl, rfl, rfl⟩ | ⟨rfl, rfl, rfl, rfl⟩ | ⟨rfl, rfl, rfl, rfl⟩ |
        ⟨rfl, rfl, rfl, rfl⟩ := hi <;> rfl
    exact hexec.trans (zipping_goesOn hst hdest hsrc)
  · have hlegal : ¬ 3 < op.val := by omega
    have hdest' : ¬ (op.val = 3 ∧ (!destOk c f.op0 false true false) = true) := fun ⟨h, hbad⟩ => by simp [hdest h] at hbad
    simp only [hp, h2, voteOp_eq]
    exact (if_neg hlegal).trans (if_neg hdest')

end Sys2Proof.Machine
end

section
/-!
PROOF. Control: branches (R114), masks (R116 to R118), EXIT, NOP and YIELD (R115, R120, R278).
-/
namespace Sys2Proof.Machine

/-! ## Branches -/

section AbsoluteTargets

variable {s : State} {c : Ctx} {opc : Nat} {f : Fields} {act : W32} {l : List Nat} {ls : List (List Nat)} {w : Wave}
  (hop : (∃ n, f.op1 = .v n) ∨ (∃ n, f.op1 = .q n) ∨ (∃ n, f.op1 = .s n) ∨ f.op1 = .litLo)
  (hread : readSrcs s c opc f false act [1] c.w = .ok (l :: ls, w))
include hop hread

/-- R114. The absolute targets are the source's values where every participating lane's is a multiple of 16. -/
theorem absTargets_aligned (halign : ∀ j ∈ lanesOf act, arg l j % 16 = 0) : absTargets s c opc f act = .ok l := by
  have hnone : (lanesOf act).find? (fun j => arg l j % 16 != 0) = none := by simpa using halign
  obtain ⟨n, h1⟩ | ⟨n, h1⟩ | ⟨n, h1⟩ | h1 := hop <;> simp [absTargets, h1, hread, hnone]

/-- R114, log entry 49. The lowest lane with a misaligned target gives the fault its address. -/
theorem absTargets_misaligned {j : Nat} (hj : (lanesOf act).find? (fun j => arg l j % 16 != 0) = some j) :
    absTargets s c opc f act = .error (.fault 4 0 (arg l j) c.e.mask) := by
  obtain ⟨n, h1⟩ | ⟨n, h1⟩ | ⟨n, h1⟩ | h1 := hop <;> simp [absTargets, h1, hread, hj, Ctx.align]

end AbsoluteTargets

theorem returnOk_of_destOk {c : Ctx} {f : Fields} (hne : f.op0 ≠ .none) (hdest : destOk c f.op0 false true true = true) :
    returnOk c f = true := by
  simp [returnOk, hne, hdest]

/-- Settles O12: each branch finds its aligned targets, and the CALLs a legal destination pair, so each places its lanes. -/
theorem branchesComplete : Obligations.BranchesComplete := by
  unfold Obligations.BranchesComplete
  refine ⟨fun f s c t hst ht halign => issue_goesTo hst ?_,
    fun f s c i opc l ls w hi hst hop hread halign => ?_,
    fun f s c t hst ht halign hne hdest => issue_goesTo hst ?_,
    fun f s c l ls w hst hop hread halign hne hdest => issue_goesTo hst ?_⟩
  · simp only [ht]
    exact if_neg fun hmis => hmis halign
  · have htgt := absTargets_aligned hop hread halign
    obtain ⟨rfl, rfl⟩ | ⟨rfl, rfl⟩ := hi <;> exact issue_goesTo hst (by simp only [htgt, hdrOf])
  · simp only [ht, returnOk_of_destOk hne hdest]
    exact if_neg fun hmis => hmis halign
  · simp only [absTargets_aligned hop hread halign]
    exact if_pos (returnOk_of_destOk hne hdest)

/-- Settles O13: the operands pass their checks, so the misaligned target is what stops the branch. -/
theorem misalignedBranchFaults : Obligations.MisalignedBranchFaults := by
  unfold Obligations.MisalignedBranchFaults
  refine ⟨fun f s c t ht hmis => ⟨fun hst => issue_stops hst ?_, fun hst hne hdest => issue_stops hst ?_⟩,
    fun f s c i opc j l ls w hi hst hop hread hj => ?_⟩
  · simp only [ht]
    exact if_pos hmis
  · simp only [ht, returnOk_of_destOk hne hdest]
    exact if_pos hmis
  · have htgt := absTargets_misaligned hop hread hj
    obtain ⟨rfl, rfl⟩ | ⟨rfl, rfl⟩ | ⟨rfl, rfl, hne, hdest⟩ := hi
    · exact issue_stops hst (by simp only [htgt])
    · exact issue_stops hst (by simp only [htgt])
    · refine issue_stops hst ?_
      simp only [htgt]
      exact if_pos (returnOk_of_destOk hne hdest)

/-! ## Masks -/

/-- Settles O14: each meaning finds its mask. What a WAITM then does turns on whether an enrolled lane arrives and whether it is the last;
MSKMOV to a mask takes its word from any of its sources, and writes nothing where no lane participates. -/
theorem maskInstructionsComplete : Obligations.MaskInstructionsComplete := by
  unfold Obligations.MaskInstructionsComplete
  refine ⟨fun f s c m h0 => ⟨fun hst => issue_goesOn hst ?_, fun hst => issue_goesOn hst ?_, fun hst =>
      ⟨fun hnone => issue_goesOn hst ?_, fun hsome hdone => issue_goesOn hst ?_, fun hsome hdone => issue_goesTo hst ?_⟩⟩,
    fun f s c hst => ⟨fun d x h0 hx => issue_goesOn hst ?_, fun n h1 => ⟨fun d h0 => issue_goesOn hst ?_,
      fun d h0 => issue_goesOn hst ?_, fun d h0 hdest => issue_goesOn hst ?_⟩⟩⟩
  · simp only [h0, maskNum]
  · simp only [h0, maskNum]
  · simp only [h0, maskNum]
    exact if_pos hnone
  · simp only [h0, maskNum]
    exact (if_neg hsome).trans (if_pos hdone)
  · simp only [h0, maskNum]
    exact (if_neg hsome).trans (if_neg (Bool.eq_false_iff.1 hdone))
  · obtain ⟨n, h1, rfl⟩ | ⟨n, h1, rfl⟩ | ⟨h1, rfl⟩ | ⟨h1, rfl⟩ | ⟨h1, rfl⟩ | ⟨h1, rfl⟩ | ⟨n, h1, rfl⟩ := hx <;>
      (simp only [h0, h1]; exact (apply_ite (fun t => Except.ok (Go.seq t)) _ _ _).symm)
  · simp only [h0, h1]
  · simp only [h0, h1]
  · rw [h0] at hdest
    simp [h0, h1, hdest]

/-! ## EXIT, NOP and YIELD -/

/-- Settles O15: EXIT's trap frame is not held and can be left, so the lanes are placed; NOP has no check, and YIELD's count is not 0. -/
theorem exitNopYieldComplete : Obligations.ExitNopYieldComplete := by
  unfold Obligations.ExitNopYieldComplete
  refine ⟨fun f s c t hst hheld htrap => issue_goesTo hst ?_, fun f s c hst => issue_goesOn hst rfl,
    fun f s c k hst h1 hk => issue_goesOn hst ?_⟩
  · refine (if_neg (Bool.eq_false_iff.1 hheld)).trans ?_
    simp only [htrap]
  · simp only [h1]
    exact if_neg hk

end Sys2Proof.Machine
end

section
/-!
PROOF. Core resources: requests (R131, R134 to R136, R139), and what is given back, moved and taken (R137 to R139).
-/
namespace Sys2Proof.Machine

/-! ## Requests -/

section Requests

variable {opc kind k : Nat} {cnt : Operand} {f : Fields} {s : State} {c : Ctx}

/-- R134. A blocking request of nothing changes nothing. -/
theorem request_zero (hst : Stands opc f s c) (hcnt : readCount c cnt = .ok 0) : request opc kind cnt f s = goesOn c f s.begun := by
  refine issue_goesOn hst ?_
  simp only [hcnt]
  exact if_pos trivial

/-- R131, R135. A blocking request that is granted, with no change of slots to wait for, gives its units. -/
theorem request_granted (hst : Stands opc f s c) (hcnt : readCount c cnt = .ok k) (hk : k ≠ 0)
    (hgrant : decideRequest s.begun c.b c.w kind k = .granted)
    (hnow : slotsPending (giveUnits s.begun c.ref.blk c.ref.wave kind k) c.ref.blk kind = false) :
    request opc kind cnt f s = goesOn c f (giveUnits s.begun c.ref.blk c.ref.wave kind k) := by
  refine issue_goesOn hst ?_
  simp only [hcnt, hgrant]
  exact (if_neg hk).trans (if_neg (Bool.eq_false_iff.1 hnow))

/-- R136, Table 6.4. A request that does not wait tells how it was decided: status 0 where it has its units, 1 where they are not free, 2
where the grant would not be safe. -/
theorem tryRequest_completes (hdest : (∃ n, f.op0 = .s n) ∨ f.op0 = .none) (hpred : ∃ n, f.op3 = .p n) (hcnt : readCount c f.op1 = .ok k) :
    (k = 0 → tryRequest kind f s c = .ok (.seq (reportStatus s c f 0))) ∧
    (k ≠ 0 → decideRequest s c.b c.w kind k = .busy → tryRequest kind f s c = .ok (.seq (reportStatus s c f 1))) ∧
    (k ≠ 0 → decideRequest s c.b c.w kind k = .risky → tryRequest kind f s c = .ok (.seq (reportStatus s c f 2))) ∧
    (k ≠ 0 → decideRequest s c.b c.w kind k = .granted →
      slotsPending (reportStatus (giveUnits s c.ref.blk c.ref.wave kind k) c f 0) c.ref.blk kind = false →
      tryRequest kind f s c = .ok (.seq (reportStatus (giveUnits s c.ref.blk c.ref.wave kind k) c f 0))) := by
  obtain ⟨p, h3⟩ := hpred
  refine ⟨fun hk => ?_, fun hk hbusy => ?_, fun hk hrisky => ?_, fun hk hgrant hnow => ?_⟩
  · obtain ⟨n, h0⟩ | h0 := hdest <;> simp [tryRequest, h0, h3, hcnt, hk]
  · obtain ⟨n, h0⟩ | h0 := hdest <;> simp [tryRequest, h0, h3, hcnt, hk, hbusy]
  · obtain ⟨n, h0⟩ | h0 := hdest <;> simp [tryRequest, h0, h3, hcnt, hk, hrisky]
  · obtain ⟨n, h0⟩ | h0 := hdest <;> simp [tryRequest, h0, h3, hcnt, hk, hgrant, hnow]

end Requests

/-- Settles O23: ACQ of either kind and CARVE.get have the shared shape of a blocking request, ACQT and CARVE.try that of one that never
waits. -/
theorem requestsComplete : Obligations.RequestsComplete := by
  unfold Obligations.RequestsComplete
  refine ⟨fun f s c i opc kind k cnt hi hcnt hst hread => ?_, fun f s c i opc kind k hi hst hdest hpred hread => ?_⟩
  · have hexec : exec i s = request opc kind cnt f s := by
      subst hcnt
      obtain ⟨rfl | rfl, rfl, hkind⟩ | ⟨rfl, rfl, h2, rfl⟩ := hi
      · simp only [exec_acqReg, execAcqReg, acquire, hkind]
      · simp only [exec_acqMslot, execAcqMslot, acquire, hkind]
      · exact if_pos h2
    rw [hexec]
    exact ⟨fun hk => request_zero hst (hk ▸ hread), request_granted hst hread⟩
  · have hgo : ∀ t, tryRequest kind f s.begun c = .ok (.seq t) → exec i s = goesOn c f t := by
      intro t ht
      obtain ⟨rfl, rfl, hkind⟩ | ⟨rfl, rfl, rfl⟩ := hi
      · exact issue_goesOn hst (by simp only [hkind, ht])
      · exact issue_goesOn hst ht
    obtain ⟨hzero, hbusy, hrisky, hgranted⟩ := tryRequest_completes (kind := kind) (s := s.begun) hdest hpred hread
    exact ⟨fun hk => hgo _ (hzero hk), fun hk h => hgo _ (hbusy hk h), fun hk h => hgo _ (hrisky hk h),
      fun hk h hnow => hgo _ (hgranted hk h hnow)⟩

/-! ## Releases -/

/-- Settles O24: the count passes each instruction's bound, and nothing of what is given up is still in use. -/
theorem releasesComplete : Obligations.ReleasesComplete := by
  unfold Obligations.ReleasesComplete
  intro f s c k hread hk
  refine ⟨fun hst => ⟨fun hkind hlt hdone => issue_goesOn hst ?_, fun hkind hle hempty => issue_goesOn hst ?_⟩,
    fun hst hlt hdone => issue_goesOn hst ?_, fun hst hroom hspare => issue_goesOn hst ?_, fun hst hle hfree => issue_goesOn hst ?_⟩
  · simp only [hread, hkind]
    exact (if_neg hk).trans ((if_pos trivial).trans ((if_neg (Nat.not_le.2 hlt)).trans (if_neg (Bool.eq_false_iff.1 hdone))))
  · simp only [hread, hkind]
    exact (if_neg hk).trans ((if_neg (by decide)).trans ((if_neg (Nat.not_lt.2 hle)).trans (if_neg (by simp [hempty]))))
  · simp only [hread]
    exact (if_neg hk).trans ((if_neg (Nat.not_le.2 hlt)).trans (if_neg (Bool.eq_false_iff.1 hdone)))
  · simp only [hread]
    exact (if_neg hk).trans ((if_neg (Nat.not_lt.2 hroom)).trans (if_pos hspare))
  · simp only [hread]
    exact (if_neg hk).trans ((if_neg (Nat.not_lt.2 hle)).trans (if_neg (Bool.eq_false_iff.1 hfree)))

/-- Settles O25: a count that is not below the claim is what stops REL and GIVE. -/
theorem releasingTheWholeClaimFaults : Obligations.ReleasingTheWholeClaimFaults := by
  unfold Obligations.ReleasingTheWholeClaimFaults
  refine fun f s c k hread hk hle => ⟨fun hst hkind => issue_stops hst ?_, fun hst => issue_stops hst ?_⟩
  · simp only [hread, hkind]
    exact (if_neg hk).trans ((if_pos trivial).trans (if_pos hle))
  · simp only [hread]
    exact (if_neg hk).trans (if_pos hle)

end Sys2Proof.Machine
end

section
/-!
PROOF. Core resources: arrivals at barriers (R142 to R147, R218), and the grants and completions that follow (R132, R136, R181, R218, R232,
R297).
-/
namespace Sys2Proof.Machine

/-! ## Arrivals -/

/-- R142. The block's barrier once the context's wave has arrived at it: the first arrival records kind and address. -/
def Ctx.arrivedBarrier (c : Ctx) (kind : BarKind) (tmpl : Nat) (key : Operand) : Barrier :=
  match c.b.barrier with
  | none => { kind := kind, addr := c.iaddr, arrived := [c.ref.wave], tmpl := tmpl, full := false, key := key }
  | some br => { br with arrived := c.ref.wave :: br.arrived }

/-- R142. The arrival of an entry with every live lane of its wave, at the address and of the kind recorded. -/
theorem arrive_placed {s : State} {c : Ctx} {f : Fields} {kind : BarKind} {tmpl : Nat} {key : Operand} (hlive : c.e.mask = c.w.live)
    (hsame : (c.b.barrier.all fun br => br.kind == kind && br.addr == c.iaddr) = true) :
    arrive s c f kind tmpl key = .ok (.placed (checkClaims (checkBarrier ((s.mapBlock c.ref.blk fun b =>
      { b with barrier := some (c.arrivedBarrier kind tmpl key) }).mapEntry c.ref
        fun e => { e with idx := e.idx + 1, hold := .barrier, notBefore := max e.notBefore (nextClk c f) }) c.ref.blk) c.ref.blk)) := by
  cases hbar : c.b.barrier with
  | none =>
    simp only [arrive, Ctx.arrivedBarrier, hbar]
    exact if_neg (by simp [hlive])
  | some br =>
    rw [hbar, Option.all_some] at hsame
    simp only [arrive, Ctx.arrivedBarrier, hbar]
    exact if_neg (by simp [hlive, hsame])

/-- Settles O26: PHASE's template and carry are as R144 asks and no wave of its block is in trap mode, and REGROUP's key is there; each of
the four then arrives. -/
theorem barrierArrivalsComplete : Obligations.BarrierArrivalsComplete := by
  unfold Obligations.BarrierArrivalsComplete
  intro f s c i opc tmpl kind key hi hst hlive hsame br
  have hbr : br = c.arrivedBarrier kind tmpl key := rfl
  clear_value br
  subst hbr
  have harrive := arrive_placed (s := s.begun) (f := f) (tmpl := tmpl) (key := key) hlive hsame
  obtain ⟨t, rfl, rfl, h1, ht, htmpl, hcarry, htrap, htraps, rfl, rfl, rfl⟩ | ⟨rfl, rfl, rfl, rfl, rfl⟩ | ⟨rfl, rfl, rfl, rfl, rfl⟩ |
    ⟨rfl, rfl, rfl, rfl, rfl, hkey⟩ := hi
  · refine issue_goesTo hst ?_
    have hrecord : ¬ ((t.val < 8 ∧ tV (lItpl (recordOf s.begun c.b) t.val) = false) ∨ c.w.claim < lCb (recordOf s.begun c.b)) := by
      rintro (⟨hlt, hv⟩ | hlt)
      · simp [htmpl hlt] at hv
      · omega
    have htraps' : ¬ (c.b.waves.any fun w => w.trap.isSome) = true := by
      simpa [Option.isNone_iff_eq_none, Option.isSome_iff_ne_none] using htraps
    simp only [h1]
    exact (if_neg (by omega)).trans ((if_neg (by simp [htrap])).trans ((if_neg htraps').trans ((if_neg hrecord).trans harrive)))
  · exact issue_goesTo hst harrive
  · exact issue_goesTo hst harrive
  · refine issue_goesTo hst ?_
    obtain ⟨n, h1, hn⟩ | ⟨k, q, h1, hq, hvalid⟩ := hkey
    · rw [h1] at harrive
      simp only [h1]
      exact (if_pos hn).trans harrive
    · rw [h1] at harrive
      simp only [h1, hq]
      exact (if_pos hvalid).trans harrive

/-! ## Grants (R132) -/

section Grants

variable {s : State} {die core : Nat} {r : Request} {c : Ctx}
  (hfirst : (s.requests.find? fun r => r.die == die && r.core == core && r.test s) = some r)
  (hctx : ctxAt s { blk := r.blk, wave := r.wave, lane := r.lane } = some c)
include hfirst hctx

/-- R138. A CLAIM that the spare pool serves takes its bundles. -/
theorem pendingGrant_claim (hgrant : r.verdict s = .granted) (hkind : r.kind = 3) :
    exec (.pendingGrant die core) s = .next (completeEntry (takeSpare { s with requests := s.requests.erase r } r.blk r.wave c.w.half r.count)
      { blk := r.blk, wave := r.wave, lane := r.lane }) := by
  simp only [exec_pendingGrant, execPendingGrant, hfirst, hgrant, hctx]
  exact if_pos hkind

/-- R132. A grant with no change of slots to wait for gives its units. -/
theorem pendingGrant_granted (hgrant : r.verdict s = .granted) (hkind : r.kind ≠ 3)
    (hnow : slotsPending (giveUnits { s with requests := s.requests.erase r } r.blk r.wave r.kind r.count) r.blk r.kind = false) :
    exec (.pendingGrant die core) s = .next (completeEntry (giveUnits { s with requests := s.requests.erase r } r.blk r.wave r.kind r.count)
      { blk := r.blk, wave := r.wave, lane := r.lane }) := by
  simp only [exec_pendingGrant, execPendingGrant, hfirst, hgrant, hctx]
  exact (if_neg hkind).trans (if_neg (Bool.eq_false_iff.1 hnow))

omit hctx in
/-- R132. A request that cannot be granted yet is left until a unit is next returned. -/
theorem pendingGrant_left (hleft : r.verdict s = .busy ∨ r.verdict s = .risky) :
    exec (.pendingGrant die core) s = .next { s with requests := updWhere (fun x => x == r) (fun x => { x with due := false }) s.requests } := by
  obtain h | h := hleft <;> simp only [exec_pendingGrant, execPendingGrant, hfirst, h]

/-- R131. A request that now breaks the protocol is its instruction's fault. -/
theorem pendingGrant_protocol (hprotocol : r.verdict s = .protocol) :
    exec (.pendingGrant die core) s = .next (takeFault { s with requests := s.requests.erase r } c 11 0 0 c.e.mask) := by
  simp only [exec_pendingGrant, execPendingGrant, hfirst, hprotocol, hctx]

end Grants

/-! ## Slots, halts, promotions and gang barriers -/

/-- The entries of a block that are held for a change of slots (R136). -/
def Block.heldForSlots (b : Block) (blk : Nat) : List ERef :=
  b.waves.flatMap fun w => w.frontier.filterMap fun e =>
    if e.hold = .slots then (lanesOf e.mask).head?.map fun l => { blk := blk, wave := w.wave, lane := l } else none

/-- R136, R181. With the tenant's queue empty, a change of slots takes effect and the entries held for it complete. -/
theorem slotChangeEffect_next {s : State} {blk : Nat} {b : Block} (hb : s.block? blk = some b) (hempty : b.queueEmpty = true)
    (hdue : b.slotsNow ≠ b.mslots ∨ b.heldForSlots blk ≠ []) :
    exec (.slotChangeEffect blk) s =
      .next ((b.heldForSlots blk).foldl completeEntry (if b.slotsNow = b.mslots then s else s.mapBlock blk effectSlots)) := by
  simp only [exec_slotChangeEffect, execSlotChangeEffect, hb]
  refine if_pos ?_
  rw [hempty, Bool.true_and, Bool.or_eq_true, bne_iff_ne, Bool.not_eq_true', List.isEmpty_eq_false_iff]
  exact hdue

/-- R297. A block asked to halt halts. -/
theorem preemptHalt_next {s : State} {blk : Nat} {b : Block} (hb : s.block? blk = some b) (hask : b.halt = .asked) :
    exec (.preemptHalt blk) s = .next ((abandonRequests s blk).mapBlock blk fun b => { b with halt := .halted }) := by
  simp only [exec_preemptHalt, execPreemptHalt, hb]
  exact if_pos hask

/-- An acquire that has had no promotion of a line wants the record that a block has of it. -/
theorem wanted_isSome {s : State} {blk : Nat} {r : Racq} {y : RelRecord} (hr : r.promoted = none) (hy : y ∈ s.rels) (hline : y.line = r.line)
    (hblk : y.blk = blk) : (s.rels.find? fun x => x.line == r.line && x.blk == blk && r.promoted != some x.num).isSome = true := by
  rw [List.find?_isSome]
  exact ⟨y, hy, by rw [hline, hblk, hr, beq_self_eq_true, beq_self_eq_true]; rfl⟩

/-- R232. A block whose record an acquire wants performs a release at .dev, and beyond that only the acquires' marks change. -/
theorem promote_next {s : State} {blk : Nat} {b x : Block} {w : Wave} {e : Entry} {l : List Racq} {r : Racq} (hb : s.block? blk = some b)
    (hx : x ∈ s.blocks) (hw : w ∈ x.waves) (he : e ∈ w.frontier) (hold : e.hold = .racq l) (hr : r ∈ l)
    (hwant : (s.rels.find? fun x => x.line == r.line && x.blk == blk && r.promoted != some x.num).isSome = true) :
    let u := releaseAt s b 5
    ∃ t, exec (.promote blk) s = .next t ∧ { t with blocks := u.blocks } = u ∧
      ∀ z ∈ u.blocks, ∀ v ∈ z.waves, ∃ z1 ∈ t.blocks, z1.uid = z.uid ∧ ∃ v1 ∈ z1.waves, v1.wave = v.wave ∧
        { v1 with frontier := v.frontier } = v := by
  simp only [exec_promote, execPromote, hb]
  refine ⟨_, if_pos ?_, rfl, fun z hz v hv => ⟨_, List.mem_map_of_mem hz, rfl, _, List.mem_map_of_mem hv, rfl, rfl⟩⟩
  refine List.any_eq_true.2 ⟨x, hx, List.any_eq_true.2 ⟨w, hw, List.any_eq_true.2 ⟨e, he, ?_⟩⟩⟩
  simp only [hold]
  exact List.any_eq_true.2 ⟨r, hr, by rwa [Option.isSome_map]⟩

/-- R218. A gang's barrier whose members have all arrived or gone releases each member. -/
theorem gbarComplete_next {s : State} {gang : Nat} {g : Gang} (hg : s.gang? gang = some g) (hkind : g.kind = some .gbar)
    (hdone : gangDone s g = true) (hthere : (g.arrived.all fun m => g.ended.contains m || (s.block? m).isSome) = true) :
    let t := g.arrived.foldl releaseHeld s
    exec (.gbarComplete gang) s = .next
      { t with gangs := updWhere (fun x => x.uid == gang) (fun x => { x with kind := none, addr := 0, arrived := [] }) t.gangs } := by
  simp only [exec_gbarComplete, execGbarComplete, hg]
  exact if_pos ⟨hkind, hdone, hthere⟩

/-- Settles O39: each event has a lemma that says what it does where it is due. -/
theorem grantEventsComplete : Obligations.GrantEventsComplete := by
  unfold Obligations.GrantEventsComplete
  refine ⟨?_, fun s blk b hb => ⟨fun hempty => ?_, preemptHalt_next hb, fun w x e l r y hx hw he hold hr hnone hy hline hblk =>
    promote_next hb hx hw he hold hr (wanted_isSome hnone hy hline hblk)⟩, fun s gang g => gbarComplete_next⟩
  · intro s die core r c hfirst ref s1 hctx
    exact ⟨pendingGrant_claim hfirst hctx, pendingGrant_granted hfirst hctx, pendingGrant_left hfirst, pendingGrant_protocol hfirst hctx⟩
  · intro held
    refine ⟨fun hne => ?_, fun heq hheld => ?_⟩
    · exact (slotChangeEffect_next hb hempty (.inl hne)).trans (by rw [if_neg hne]; rfl)
    · exact (slotChangeEffect_next hb hempty (.inr hheld)).trans (by rw [if_pos heq]; rfl)

end Sys2Proof.Machine
end

section
/-!
PROOF. Blocks leaving their core: PHASE ends, parks and saves (R144 to R146, R216, R217, R283, R297 to R301), and REGROUP (R147).
-/
namespace Sys2Proof.Machine

/-! ## The end of a phase (R144, R217) -/

/-- R144. The barrier of a block whose waves stand at its PHASE, with its work done, is one at which its phase can end. -/
theorem phaseBarrier_isSome {s : State} {m : Nat} (h : ∃ b br, s.block? m = some b ∧ b.barrier = some br ∧ br.kind = .phase ∧
    br.full = true ∧ b.halt ≠ .halted ∧ workDone s b = true ∧ pathStuck s b.die b.core = false ∧ s.phase? m ≠ none ∧
    s.launch? b.launch ≠ none) : (phaseBarrier s m).isSome = true := by
  obtain ⟨b, br, hb, hbar, hkind, hfull, hhalt, hwork, hpath, hphase, hlaunch⟩ := h
  simp [phaseBarrier, hb, hbar, hkind, hfull, hhalt, hwork, hpath, Option.isSome_iff_ne_none, hphase, hlaunch]

/-- R217. The blocks that end a phase together leave their cores and their next phases enter the pool once each of them can. -/
theorem phaseEnd_next {s : State} {blk : Nat} (hself : blk ∈ phaseMates s blk) (hall : ∀ m ∈ phaseMates s blk, (phaseBarrier s m).isSome = true) :
    exec (.phaseEnd blk) s = .next ((phaseMates s blk).foldl enterPool (gangOpen ((phaseMates s blk).foldl leavePhase s) blk)) := by
  rw [exec_phaseEnd]
  refine if_pos ?_
  rw [List.contains_iff_mem.2 hself, List.all_eq_true.2 hall]
  rfl

/-! ## REGROUP (R147) -/

/-- R147. The lane contexts of waves in the order of their keys. -/
def keyOrder (br : Barrier) (ws : List Wave) : List Context :=
  sortContexts (ws.flatMap fun w => (lanesOf w.live).map fun l => { wave := w.wave, lane := l, key := regroupKey w br.key l })

/-- R147. A wave of a block after the permutation: of the participating waves, the j-th holds the j-th 32 contexts. -/
def permuted (b : Block) (br : Barrier) (ws : List Wave) (w : Wave) : Wave :=
  match ws.findIdx? fun x => x.wave == w.wave with
  | none => w
  | some j => regrouped b w fun i => (keyOrder br ws)[32 * j + i]?

section Regroup

variable {s : State} {blk : Nat} {b : Block} {br : Barrier} {w0 : Wave} {ws : List Wave} (hb : s.block? blk = some b)
  (hbar : b.barrier = some br) (hkind : br.kind = .regroup) (hfull : br.full = true) (hhalt : b.halt ≠ .halted) (hws : b.liveWaves = w0 :: ws)
  (hlanded : ∀ w ∈ w0 :: ws, (∀ o ∈ w.ops, o.writes = [] ∧ o.qtags = []) ∧ ∀ x ∈ w.recent, x.ready ≤ s.clkOf b.die)
  (hframes : ((w0 :: ws).any fun w => leaveHeld s w b.oid 0xFFFFFFFF) = false)

include hlanded in
/-- R147. Every register write of the waves has landed. -/
theorem all_landed : ((w0 :: ws).all fun w => (w.ops.all fun o => o.writes.isEmpty && o.qtags.isEmpty) &&
    w.recent.all fun x => decide (x.ready ≤ s.clkOf b.die)) = true := by
  simpa only [List.all_eq_true, Bool.and_eq_true, List.isEmpty_iff, decide_eq_true_eq] using hlanded

include hb hbar hkind hfull hhalt hws hlanded hframes

/-- R147. Waves with different claims are the block's fault. -/
theorem regroupPermute_claims (hclaims : ∃ w ∈ w0 :: ws, w.claim ≠ w0.claim) :
    exec (.regroupPermute blk) s = .next (barrierFault s b) := by
  simp only [exec_regroupPermute, execRegroupPermute, hb, hbar, hws]
  refine (if_pos ⟨hkind, hfull, hhalt, all_landed hlanded, by simp only [hframes]; rfl⟩).trans (if_pos ?_)
  simpa only [List.any_eq_true, bne_iff_ne] using hclaims

/-- R147. Waves with one claim exchange their contexts by the lanes' keys, and go on. -/
theorem regroupPermute_permutes (hclaims : ∀ w ∈ w0 :: ws, w.claim = w0.claim) :
    exec (.regroupPermute blk) s = .next (releaseHeld (((w0 :: ws).filter fun w => w.trap.isSome).foldl (trimTrap blk)
      (s.mapBlock blk fun x => { x with waves := x.waves.map (permuted b br (w0 :: ws)) })) blk) := by
  simp only [exec_regroupPermute, execRegroupPermute, hb, hbar, hws]
  refine (if_pos ⟨hkind, hfull, hhalt, all_landed hlanded, by simp only [hframes]; rfl⟩).trans (if_neg fun hdiffer => ?_)
  obtain ⟨w, hw, hne⟩ := List.any_eq_true.1 hdiffer
  exact bne_iff_ne.1 hne (hclaims w hw)

end Regroup

/-- Settles O40: each event is due. Whether a block's parts can be written decides between its leaving its core and its double fault. -/
theorem blockEventsComplete : Obligations.BlockEventsComplete := by
  unfold Obligations.BlockEventsComplete
  refine ⟨fun s blk hself hall => phaseEnd_next hself fun m hm => phaseBarrier_isSome (hall m hm), ?_,
    fun s blk b br w0 ws hb hbar hkind hfull hhalt hws hlanded hframes =>
      ⟨regroupPermute_claims hb hbar hkind hfull hhalt hws hlanded hframes, regroupPermute_permutes hb hbar hkind hfull hhalt hws hlanded hframes⟩,
    ?_, ?_⟩
  · intro s blk b p l br hb hp hl hbar ws p1 parts
    simp only [leavePhase, hb, hp, hl, hbar]
    exact ⟨fun t ht => by rw [ht], fun hnone => by rw [hnone]⟩
  · intro s blk b p l hb hp hl hstand hsvc hhalt hwork hpath hqueues hpush ws p1 parts
    simp only [exec_blockPark, execBlockPark, hb, hp, hl]
    rw [if_pos ⟨hstand, hsvc, hhalt, hwork, by simp [hpath], hqueues, by simp [hpush]⟩]
    exact ⟨fun t ht => by rw [ht], fun hnone => by rw [hnone]⟩
  · intro s blk b p l i hb hp hl hi hready hcan hpath a ws copies p1 s0 parts
    simp only [exec_preemptSave, execPreemptSave, hb, hp, hl, hi]
    rw [if_pos (by simp [hready, hcan, hpath])]
    exact ⟨fun t ht => by rw [ht], fun hnone => by rw [hnone]⟩

end Sys2Proof.Machine
end

section
/-!
PROOF. The core's memory: loads (R161, R162), stash windows and prefetch (R153 to R157, R163).
-/
namespace Sys2Proof.Machine

/-! ## Loads -/

/-- R161, R162. A load whose destination is legal and whose access passes its checks reads at issue, and the caches take its lines. -/
theorem loading_goesOn {opc : Nat} {stash : Bool} {f : Fields} {s : State} {c : Ctx} {al : List Nat} {w : Wave} {sp : List (Nat × Spot)}
    (hst : Stands opc f s c)
    (hdest : rangeOk c f.op0 (isScalar opc f) (is64 f.ty) (if is64 f.ty then 2 * countOf f.op3 else countOf f.op3) = true)
    (hreach : Reaching s.begun c f stash (isScalar opc f) (elemWidth f.ty / 8) (elemWidth f.ty / 8 * countOf f.op3)
      (accLanes (isScalar opc f) (c.parts f)) { rd := true, wr := false } al w sp) :
    loading opc stash f s = goesOn c f (inFlight (result (readsNoted s.begun c f al sp) c c.w f f.op0 (isScalar opc f) true (c.parts f) 0
      (loadWords f.ty (countOf f.op3) (spotsRead s.begun c (isScalar opc f) (elemWidth f.ty / 8 * countOf f.op3) sp)) 0) c al sp) := by
  obtain ⟨haddr, hspots⟩ := hreach
  refine issue_goesOn hst ?_
  simp only [hdest, haddr, hspots]
  rfl

/-- Settles O17: LD and LDS have the shared shape of a load, from memory and from the stash. -/
theorem loadsComplete : Obligations.LoadsComplete := by
  unfold Obligations.LoadsComplete
  intro f s c i opc stash al w sp hi hst k e scalar hdest hreach t
  obtain ⟨rfl, rfl, rfl⟩ | ⟨rfl, rfl, rfl⟩ := hi <;> exact loading_goesOn hst hdest hreach

/-! ## Stash windows -/

/-- R153. A range that lies before or behind every other window, in the stash and in global memory, overlaps none. -/
theorem windows_disjoint {ws : List Window} {w o n g : Nat}
    (h : (ws.all fun x => x.win == w || ((decide (x.off + x.len ≤ o) || decide (o + n ≤ x.off)) &&
      (decide (x.va + x.len ≤ g) || decide (g + n ≤ x.va)))) = true) :
    (ws.any fun x => x.win != w && ((decide (o < x.off + x.len) && decide (x.off < o + n)) ||
      (decide (g < x.va + x.len) && decide (x.va < g + n)))) = false := by
  rw [List.all_eq_true] at h
  rw [List.any_eq_false]
  intro x hx
  have hfree := h x hx
  simp only [Bool.or_eq_true, Bool.and_eq_true, beq_iff_eq, bne_iff_ne, decide_eq_true_eq] at hfree ⊢
  omega

/-- R153, R154. A STMAP whose operands are legal, whose range is free and whose pages can be mapped maps its window, after the core's own
stores to the window's lines. -/
theorem stmap_goesOn {f : Fields} {s : State} {c : Ctx} {g o n : Nat} {w : Fin 64} {lv : List (Nat × W64 × Nat)} (hst : Stands 0x204 f s c)
    (hg : (∃ r : Fin 128, f.op1 = .s r ∧ r.val % 2 = 0 ∧ g = joinPair (c.readS true r) (c.readS true (r + 1))) ∨ f.op1 = .litLo ∧ g = c.lit)
    (ho : stmapScalar c f.op2 true = some o) (hn : stmapScalar c f.op3 false = some n) (hw : f.op4 = .int w) (hlt : w.val < 16)
    (halign : o % 128 = 0 ∧ n % 128 = 0 ∧ g % 128 = 0) (hrange : 128 ≤ n ∧ o + n ≤ c.b.z ∧ g + n ≤ 2 ^ 64)
    (hfree : (c.b.windows.any fun x => x.win != w.val && ((decide (o < x.off + x.len) && decide (x.off < o + n)) ||
      (decide (g < x.va + x.len) && decide (x.va < g + n)))) = false)
    (hleaves : windowLeaves s.begun c.b.who g n = .ok lv)
    (htouch : (c.b.windows.any fun x => x.win == w.val) = true → mayTouch s.begun c.b = false)
    (hstuck : windowStuck s.begun c.b (newWindow c s.uids w o n g lv) = false) :
    execStmap f s = goesOn c f (counted ((drainPath (unmapWindow s.begun c.ref.blk w)
        fun p => onCorePath c.b.die c.b.core p && (newWindow c s.uids w o n g lv).holds p.key).mapBlock c.ref.blk fun b =>
      { b with windows := b.windows ++ [newWindow c s.uids w o n g lv], stash := dropRange b.stash o n }) c f) := by
  obtain ⟨ho8, hn8, hg8⟩ := halign
  obtain ⟨hmin, hz, htop⟩ := hrange
  have hlegal : ¬ (o % 128 ≠ 0 ∨ n % 128 ≠ 0 ∨ g % 128 ≠ 0) := by simp [ho8, hn8, hg8]
  have hinside : ¬ (n < 128 ∨ c.b.z < o + n ∨ 2 ^ 64 < g + n) := by omega
  have hgo : ((c.b.windows.any fun x => x.win == w.val) && mayTouch s.begun c.b ||
      windowStuck s.begun c.b (newWindow c s.uids w o n g lv)) = false := by
    rw [hstuck, Bool.or_false, Bool.and_eq_false_imp]
    exact htouch
  refine issue_goesOn hst ?_
  obtain ⟨r, h1, heven, rfl⟩ | ⟨h1, rfl⟩ := hg
  case' inl => simp only [h1, if_pos heven, ho, hn, hw]
  case' inr => simp only [h1, ho, hn, hw]
  all_goals
    rw [if_neg (Nat.not_le.2 hlt), if_neg hlegal, if_neg hinside, if_neg (Bool.eq_false_iff.1 hfree)]
    simp only [hleaves]
    exact if_neg (Bool.eq_false_iff.1 hgo)

/-- Settles O19: STMAP's range is free and its pages can be mapped; STUNMAP turns on whether its window is mapped; STFLUSH and PREF have
no check but of the window's number and of the address operands. -/
theorem windowInstructionsComplete : Obligations.WindowInstructionsComplete := by
  unfold Obligations.WindowInstructionsComplete
  refine ⟨?_, fun f s c w hst h1 hlt => ⟨fun hnone => issue_goesOn hst ?_, fun hsome htouch => issue_goesOn hst ?_⟩,
    fun f s c w hst h1 hle => issue_goesOn hst ?_, fun f s c al w hst haddr => issue_goesOn hst ?_⟩
  · intro f s c g o n w lv hst hg ho hn hw hlt ho8 hn8 hg8 hmin hz htop hfree hleaves htouch new hstuck
    exact stmap_goesOn hst hg ho hn hw hlt ⟨ho8, hn8, hg8⟩ ⟨hmin, hz, htop⟩ (windows_disjoint hfree) hleaves htouch hstuck
  · simp only [h1]
    exact (if_neg (Nat.not_le.2 hlt)).trans (if_pos (by simp [hnone]))
  · simp only [h1]
    exact (if_neg (Nat.not_le.2 hlt)).trans ((if_neg (by simp [hsome])).trans (if_neg (Bool.eq_false_iff.1 htouch)))
  · simp only [h1]
    exact if_neg (by omega)
  · simp only [haddr]

end Sys2Proof.Machine
end

section
/-!
PROOF. The core's memory: atomics (R165 to R168), LR and SC (R169), FENCE and WAITA (R156, R170, R171).
-/
namespace Sys2Proof.Machine

/-! ## Atomics -/

/-- Operand positions add up. -/
theorem positions_cons (k : Nat) (ks : List Nat) : positions (k :: ks) = 2 ^ k + positions ks := by
  have hshift : ∀ a b : Nat, ks.foldl (fun a k => a + 2 ^ k) (a + b) = a + ks.foldl (fun a k => a + 2 ^ k) b := by
    induction ks with
    | nil => exact fun _ _ => rfl
    | cons j t ih => exact fun a b => by simp only [List.foldl_cons, Nat.add_assoc, ih]
  simp only [positions, List.foldl_cons, Nat.zero_add]
  exact hshift (2 ^ k) 0

/-- R165 to R168. An atomic whose operands are legal and whose access passes its checks reads, computes and writes each lane's element in
ascending order, after its release. -/
theorem atomic_goesOn {opc : Nat} {f : Fields} {ret : Bool} {srcs : List Nat} {new : List (List Nat) → Nat → Nat → Option Nat} {s : State}
    {c : Ctx} {al : List Nat} {vs : List (List Nat)} {w w1 : Wave} {sp : List (Nat × Spot)}
    (hdest : ret = true → rangeOk c f.op0 (isScalar opc f) (is64 f.ty) (if is64 f.ty then 2 else 1) = true)
    (hone : isScalar opc f = true ∨ oneScalar f (positions (1 :: srcs)) = true)
    (hreach : Reaching s c f f.inStash (isScalar opc f) (elemWidth f.ty / 8) (elemWidth f.ty / 8)
      (accLanes (isScalar opc f) (c.parts f)) { rd := true, wr := true } al w sp)
    (hread : readSrcs s c opc f (isScalar opc f) (c.parts f) srcs w = .ok (vs, w1)) (hracq : f.rmt = true → racqLines s c.b sp = [])
    (hstuck : releaseStuck s c.b f.scope f.ord = false) :
    let t := sp.foldl (fun s p => fillTlb s c.b.who ((al[p.1]?).getD 0)) (releaseFor (s.withWave c w1) c.b f.scope f.ord)
    let r := atomLanes c.b f.scope f.hint.toNat f.ord (elemWidth f.ty / 8) (new vs) sp t
    atomic opc f ret false srcs new s c = .ok (.seq (if ret then
        inFlight (result r.2 c (c.now r.2) f f.op0 (isScalar opc f) true (c.parts f) 0 (elemWords f.ty r.1 (isScalar opc f)) 0) c al sp
      else countPops r.2 c f 0b01000)) := by
  intro t r
  obtain ⟨haddr, hspots⟩ := hreach
  have hlegal : ¬ (ret && !rangeOk c f.op0 (isScalar opc f) (is64 f.ty) (if is64 f.ty then 2 else 1)) = true := by
    cases ret
    · simp
    · simp [hdest rfl]
  have hwide : ¬ (!isScalar opc f && !oneScalar f (2 + positions srcs)) = true := by
    have huse : positions (1 :: srcs) = 2 + positions srcs := positions_cons 1 srcs
    rw [huse] at hone
    obtain h | h := hone <;> simp [h]
  have hfree : (if f.rmt && !false then racqLines s c.b sp else []) = [] := by
    cases hrmt : f.rmt
    · rfl
    · exact hracq hrmt
  unfold atomic
  refine (if_neg hlegal).trans ((if_neg hwide).trans ?_)
  simp only [haddr, hread, hspots, hfree]
  refine (if_neg (by decide)).trans ((if_neg (Bool.eq_false_iff.1 hstuck)).trans ?_)
  exact (apply_ite (fun t => Except.ok (Go.seq t)) _ _ _).symm

/-- Settles O20: ATOM, ATOMR and CAS have the shared shape of an atomic; an operation of Table 7.5 lies below 9. -/
theorem atomicsComplete : Obligations.AtomicsComplete := by
  unfold Obligations.AtomicsComplete
  intro f s c i opc ret srcs new al vs w w1 sp hi hst scalar e hdest hone hreach hread hracq hstuck t r
  obtain ⟨op, hop, h4, hi, rfl, rfl⟩ | ⟨rfl, rfl, rfl, rfl, rfl⟩ := hi
  · have hgo := atomic_goesOn (new := fun vs l old => some (atomNew op f.ty old (argAt vs 0 l))) hdest hone hreach hread hracq hstuck
    obtain ⟨rfl, rfl, rfl⟩ | ⟨rfl, rfl, rfl⟩ := hi <;>
      (refine issue_goesOn hst ?_
       simp only [atomRmw, h4]
       exact (if_neg (Nat.not_le.2 hop)).trans hgo)
  · exact issue_goesOn hst (atomic_goesOn hdest hone hreach hread hracq hstuck)

/-! ## LR, SC and WAITA: a predicate in a wide form, an s register in a scalar one -/

/-- R165. What a test of memory may write: a predicate in a wide form, whose sources name one scalar at most, or an s register in a scalar
form. -/
def TestDest (f : Fields) (scalar : Bool) (use : Nat) : Prop :=
  (∃ n, f.op0 = .p n) ∧ scalar = false ∧ oneScalar f use = true ∨ (∃ n, f.op0 = .s n) ∧ scalar = true

/-- R165. The destination is of the kind that the form asks for. -/
def testDestOk (o : Operand) (scalar : Bool) : Bool :=
  match o with
  | .p _ => !scalar
  | .s _ => scalar
  | _ => false

theorem TestDest.legal {f : Fields} {scalar : Bool} {use : Nat} (h : TestDest f scalar use) :
    ¬ (!testDestOk f.op0 scalar || (!scalar && !oneScalar f use)) = true := by
  obtain ⟨⟨n, h0⟩, hscalar, hone⟩ | ⟨⟨n, h0⟩, hscalar⟩ := h
  · simp [testDestOk, h0, hscalar, hone]
  · simp [testDestOk, h0, hscalar]

/-- R169. LR reads its lane's element, after the core's own stores to its line, and reserves it. -/
theorem lr_goesOn {f : Fields} {s : State} {c : Ctx} {al : List Nat} {w : Wave} {l : Nat} {q : Spot} {sp : List (Nat × Spot)}
    (hst : Stands 0x243 f s c)
    (hdest : rangeOk c f.op0 (isScalar 0x243 f) (is64 f.ty) (if is64 f.ty then 2 else 1) = true)
    (hreach : Reaching s.begun c f false (isScalar 0x243 f) (elemWidth f.ty / 8) (elemWidth f.ty / 8)
      (oneLane (isScalar 0x243 f) (c.parts f)) { rd := true, wr := false } al w ((l, q) :: sp))
    (hhome : homeIsDevice c.b q = true) :
    let e := elemWidth f.ty / 8
    let r := atomRead (fillTlb s.begun c.b.who ((al[l]?).getD 0)) c.b e q
    let t := noteRead r.2 c.b f.hint.toNat ((al[l]?).getD 0) q
    exec (.lr f) s = goesOn c f (result t c { c.now t with reserv := some ((q.piece c.b e).lo, e) } f f.op0 (isScalar 0x243 f) true
      (c.parts f) 0 (wordsOf (is64 f.ty) (List.replicate 32 r.1)) 0) := by
  obtain ⟨haddr, hspots⟩ := hreach
  refine issue_goesOn hst ?_
  simp only [hdest, haddr, hspots, hhome]
  rfl

/-- R169. SC performs its release, stores where the reservation is still held, and gives it up. -/
theorem sc_goesOn {f : Fields} {s : State} {c : Ctx} {al : List Nat} {vs : List (List Nat)} {w w1 : Wave} {l : Nat} {q : Spot}
    {sp : List (Nat × Spot)} (hst : Stands 0x244 f s c) (hdest : TestDest f (isScalar 0x244 f) (positions [1, 3]))
    (hreach : Reaching s.begun c f false (isScalar 0x244 f) (elemWidth f.ty / 8) (elemWidth f.ty / 8)
      (oneLane (isScalar 0x244 f) (c.parts f)) { rd := true, wr := true } al w ((l, q) :: sp))
    (hread : readSrcs s.begun c 0x244 f (isScalar 0x244 f) (c.parts f) [3] w = .ok (vs, w1)) (hhome : homeIsDevice c.b q = true)
    (hstuck : releaseStuck s.begun c.b f.scope f.ord = false) :
    let e := elemWidth f.ty / 8
    let t := (atomRead (releaseFor (s.begun.withWave c w1) c.b f.scope f.ord) c.b e q).2
    let won := (c.now t).reserv = some ((q.piece c.b e).lo, e)
    let u := if won then atomWrite t c.b f.scope f.hint.toNat (bytesLE e (argAt vs 0 l)) q else t
    exec (.sc f) s = goesOn c f (result u c { c.now u with reserv := none } f f.op0 (isScalar 0x244 f) true (c.parts f) 0
      [List.replicate 32 (if won then 1 else 0)] 0) := by
  intro e t won u
  obtain ⟨haddr, hspots⟩ := hreach
  refine issue_goesOn hst ((if_neg hdest.legal).trans ?_)
  simp only [haddr, hread, hspots, hhome]
  refine (if_neg (by decide)).trans ((if_neg (Bool.eq_false_iff.1 hstuck)).trans ?_)
  simp only [beq_iff_eq]
  rfl

/-- Settles O21: LR and SC act on the first of the lanes that participate, whose home is a device memory stack. -/
theorem reservationsComplete : Obligations.ReservationsComplete := by
  unfold Obligations.ReservationsComplete
  exact ⟨fun f s c al w l q sp hst hdest hreach hhome => lr_goesOn hst hdest hreach hhome,
    fun f s c al vs w w1 l q sp hst hdest hreach hread hhome hstuck => sc_goesOn hst hdest hreach hread hhome hstuck⟩

/-! ## FENCE -/

/-- R156, R170. A fence without a remote acquire releases as its order asks, where no store of its core waits. -/
theorem fenceGo_release {f : Fields} {s : State} {c : Ctx} (hrmt : f.rmt = false) (hstuck : releaseStuck s c.b f.scope f.ord = false) :
    fenceGo false f s c = .ok (.seq (if 2 ≤ f.ord then releaseAt (drainCore s c.b.die c.b.core) c.b f.scope else s)) := by
  unfold fenceGo
  refine (if_neg (Bool.eq_false_iff.1 hrmt)).trans ((if_neg (Bool.eq_false_iff.1 hstuck)).trans ?_)
  exact (apply_ite (fun t => Except.ok (Go.seq t)) _ _ _).symm

/-- R170, R232. A remote acquire with no record in its way does nothing more. -/
theorem fenceGo_acquire {f : Fields} {s : State} {c : Ctx} {al : List Nat} {w : Wave} {sp : List (Nat × Spot)} (hrmt : f.rmt = true)
    (haddr : addresses s c c.w f false false 1 c.e.mask = .ok (al, w))
    (hspots : spotsOf s c false (lanesOf c.e.mask) (fun l => (al[l]?).getD 0) 1 { rd := true, wr := false } false = .ok sp)
    (hracq : racqLines s c.b sp = []) : fenceGo false f s c = .ok (.seq (s.withWave c w)) := by
  unfold fenceGo
  refine (if_pos hrmt).trans ?_
  simp only [haddr, hspots, hracq]
  rfl

/-! ## WAITA -/

/-- R171. The meaning of a WAITA whose operands are legal and whose access passes its checks: it goes on where every lane is satisfied or
its time is 0, and else parks its lanes. -/
theorem waita_completes {f : Fields} {s : State} {c : Ctx} {al : List Nat} {vs : List (List Nat)} {w w1 : Wave} {sp : List (Nat × Spot)}
    (hst : Stands 0x246 f s c) (hdest : TestDest f (isScalar 0x246 f) (positions [1, 3, 4]))
    (hreach : Reaching s.begun c f f.inStash (isScalar 0x246 f) (elemWidth f.ty / 8) (elemWidth f.ty / 8)
      (accLanes (isScalar 0x246 f) (c.parts f)) { rd := true, wr := false } al w sp)
    (hread : readSrcs s.begun c 0x246 f (isScalar 0x246 f) (c.parts f) [3, 4] w = .ok (vs, w1)) :
    let time := (accLanes (isScalar 0x246 f) (c.parts f)).foldl (fun a l => min a (argAt vs 1 l)) 0xFFFFFFFF
    let watch := watchOf c f al vs sp time
    let t := readsNoted (s.begun.withWave c w1) c f al sp
    let sat := satisfied t (c.b.seenBy c.ref.wave) watch
    let mask := if isScalar 0x246 f then c.e.mask else c.parts f
    let u := countPops t c f 0b11000
    exec (.waita f) s =
      if sat = (if isScalar 0x246 f then 1#32 else c.parts f) ∨ time = 0 then
        goesOn c f (u.mapWave c.ref.blk c.ref.wave fun w => waitaWrite w c.clk f.op0 (c.parts f) sat)
      else goesTo c (u.mapWave c.ref.blk c.ref.wave (splitEntry c f mask
        { stayEntry c f mask with park := 13, opn := false, watch := [watch] })) := by
  intro time watch t sat mask u
  obtain ⟨haddr, hspots⟩ := hreach
  by_cases hnow : sat = (if isScalar 0x246 f then 1#32 else c.parts f) ∨ time = 0
  · rw [if_pos hnow]
    refine issue_goesOn hst ((if_neg hdest.legal).trans ?_)
    simp only [haddr, hread, hspots]
    exact if_pos hnow
  · rw [if_neg hnow]
    refine issue_goesTo hst ((if_neg hdest.legal).trans ?_)
    simp only [haddr, hread, hspots]
    exact if_neg hnow

/-- Settles O22: FENCE's meaning turns on whether it is a remote acquire; WAITA's on whether its lanes are satisfied at issue. -/
theorem fenceAndWaitaComplete : Obligations.FenceAndWaitaComplete := by
  unfold Obligations.FenceAndWaitaComplete
  refine ⟨fun f s c hst => ⟨fun hrmt hstuck => issue_goesOn hst (fenceGo_release hrmt hstuck),
    fun hrmt al w sp haddr hspots hracq => issue_goesOn hst (fenceGo_acquire hrmt haddr hspots hracq)⟩, ?_⟩
  intro f s c al vs w w1 sp hst scalar e ls hdest hreach hread
  exact waita_completes hst hdest hreach hread

end Sys2Proof.Machine
end

section
/-!
PROOF. The core's memory: what stores change and what they leave (R155, R162, R230).
-/
namespace Sys2Proof.Machine

/-! ## Bytes written at rising keys -/

/-- Sparse bytes after bytes have been written at rising keys. -/
def spSetAt (k : Nat) (l : List Byte) (m : Sparse Byte) : Sparse Byte := (bytesAt k l).foldl (fun m p => spSet 0 p.1 p.2 m) m

theorem bytesAt_nil (k : Nat) : bytesAt k [] = [] := rfl

theorem bytesAt_cons (k : Nat) (x : Byte) (l : List Byte) : bytesAt k (x :: l) = (k, x) :: bytesAt (k + 1) l := by
  simp only [bytesAt, List.length_cons, List.range_succ_eq_map, List.zip_cons_cons, List.map_cons, List.zip_map_left, List.map_map,
    Nat.add_zero, List.cons.injEq, true_and]
  exact List.map_congr_left fun p _ => by simp [Nat.add_assoc, Nat.add_comm 1]

@[simp] theorem spSetAt_nil (k : Nat) (m : Sparse Byte) : spSetAt k [] m = m := rfl

@[simp] theorem spSetAt_cons (k : Nat) (x : Byte) (l : List Byte) (m : Sparse Byte) :
    spSetAt k (x :: l) m = spSetAt (k + 1) l (spSet 0 k x m) := by
  simp only [spSetAt, bytesAt_cons, List.foldl_cons]

/-- The keys outside the range keep their bytes. -/
theorem spGet_spSetAt_other {k a : Nat} (l : List Byte) (m : Sparse Byte) (h : a < k ∨ k + l.length ≤ a) :
    spGet 0 (spSetAt k l m) a = spGet 0 m a := by
  induction l generalizing k m with
  | nil => rfl
  | cons x t ih =>
    rw [List.length_cons] at h
    rw [spSetAt_cons, ih _ (by omega), spGet_spSet_other _ _ _ (by omega)]

/-- Each key of the range reads its byte. -/
theorem spGet_spSetAt_same {k i : Nat} {l : List Byte} {m : Sparse Byte} (hm : spSorted m = true) (hi : i < l.length) :
    spGet 0 (spSetAt k l m) (k + i) = (l[i]?).getD 0 := by
  induction l generalizing k m i with
  | nil => exact absurd hi (Nat.not_lt_zero i)
  | cons x t ih =>
    rw [spSetAt_cons]
    cases i with
    | zero => exact (spGet_spSetAt_other _ _ (by omega)).trans (spGet_spSet_same 0 k x hm)
    | succ j =>
      have hkey : k + (j + 1) = k + 1 + j := by omega
      rw [hkey, List.getElem?_cons_succ]
      exact ih (spSorted_spSet 0 k x hm) (Nat.lt_of_succ_lt_succ hi)

/-! ## What a store leaves, performed at its target -/

/-- The v, s and p registers of a wave, its MODE and its entries. -/
abbrev WaveRegs : Type := Sparse W32 × Sparse W32 × Sparse W32 × W32 × List Entry

def Wave.regs (w : Wave) : WaveRegs := (w.v, w.s, w.p, w.mode, w.frontier)

/-- What a block shows beside its stash, its windows and its tenant: its number, its die, core and barrier, and what its waves hold. -/
abbrev BlockShown : Type := Nat × (Nat × Nat × Option Barrier) × List (Nat × WaveRegs)

def Block.shown (b : Block) : BlockShown := (b.uid, (b.die, b.core, b.barrier), b.waves.map fun w => (w.wave, w.regs))

/-- What the performing of a store leaves alone: the other stores of the path, the registers of the control block, the frame table, and
the blocks but for reservations and torn planes. -/
def State.besideStores (s : State) : List Pending × Sparse W64 × Sparse Frame × List BlockShown :=
  (s.path, s.dcb, s.frames, s.blocks.map Block.shown)

theorem besideStores_eq {s t : State} : t.besideStores = s.besideStores ↔
    t.path = s.path ∧ t.dcb = s.dcb ∧ t.frames = s.frames ∧ t.blocks.map Block.shown = s.blocks.map Block.shown := by
  simp only [State.besideStores, Prod.mk.injEq]

/-- Planes are torn in the tenant alone. -/
theorem tearPlanes_eq (b : Block) (off : Nat) : tearPlanes b off = { b with tenant := (tearPlanes b off).tenant } := by
  unfold tearPlanes
  split <;> rfl

theorem tearPlanes_shown (b : Block) (off : Nat) : (tearPlanes b off).shown = b.shown := by
  rw [tearPlanes_eq]
  rfl

/-- A change of blocks that each shows the same leaves what stands beside stores. -/
theorem besideStores_mapBlocks {g : Block → Block} (hg : ∀ b, (g b).shown = b.shown) (s : State) :
    ({ s with blocks := s.blocks.map g } : State).besideStores = s.besideStores := by
  simp only [State.besideStores, List.map_map, Prod.mk.injEq, true_and]
  exact List.map_congr_left fun b _ => hg b

theorem tearKey_besideStores (s : State) (key : Nat) (x : Byte) : (tearKey s key x).besideStores = s.besideStores := by
  unfold tearKey
  dsimp only
  split
  · refine besideStores_mapBlocks (fun b => ?_) s
    split
    · exact tearPlanes_shown b _
    · rfl
  · rfl

theorem clearReservations_besideStores (s : State) (line : Nat) : (clearReservations s line).besideStores = s.besideStores := by
  unfold clearReservations
  refine besideStores_mapBlocks (fun b => ?_) s
  simp only [Block.shown, List.map_map, Prod.mk.injEq, true_and]
  refine List.map_congr_left fun w _ => ?_
  dsimp only [Function.comp_apply]
  split
  · split <;> rfl
  · rfl

theorem putByte_besideStores (s : State) (key : Nat) (x : Byte) : (putByte s key x).besideStores = s.besideStores :=
  tearKey_besideStores s key x

theorem writeByte_besideStores (h : Holder) (s : State) (key : Nat) (x : Byte) : (writeByte h s key x).besideStores = s.besideStores :=
  (clearReservations_besideStores _ _).trans ((putByte_besideStores _ _ _).trans
    (ownByte_keeps State.besideStores (fun _ _ => rfl) (fun _ _ => rfl) h s key))

theorem writeKeys_besideStores (h : Holder) (s : State) (l : List (Nat × Byte)) : (writeKeys h s l).besideStores = s.besideStores :=
  foldl_same (f := fun (s : State) (p : Nat × Byte) => writeByte h s p.1 p.2) (fun s p => writeByte_besideStores h s p.1 p.2) l s

theorem directWrite_besideStores (s : State) (key : Nat) (l : List Byte) : (directWrite s key l).besideStores = s.besideStores := by
  unfold directWrite
  exact (clearReservations_besideStores _ _).trans
    ((foldl_same (f := fun (s : State) (p : Nat × Byte) => putByte s (key + p.1) p.2) (fun s p => putByte_besideStores s _ p.2) _ _).trans
      (writeBacks_keep State.besideStores (fun _ _ => rfl) _ s))

theorem performStore_besideStores (s : State) (p : Pending) : (performStore s p).besideStores = s.besideStores := by
  unfold performStore
  dsimp only
  split
  · rfl
  split
  · exact directWrite_besideStores s p.key p.bytes
  · exact (tagHeld_keeps State.besideStores (fun _ _ => rfl) _ _ _ _).trans (writeKeys_besideStores _ s _)

/-! ## The bytes of a store, performed at its target -/

theorem writeKeys_mem (h : Holder) (s : State) (k : Nat) (l : List Byte) : (writeKeys h s (bytesAt k l)).mem = spSetAt k l s.mem :=
  (List.foldl_hom State.mem fun s p => (writeByte_mem h s p.1 p.2).symm).symm

theorem directWrite_mem (s : State) (key : Nat) (l : List Byte) : (directWrite s key l).mem = spSetAt key l s.mem := by
  have hback := writeBacks_keep State.mem (fun _ _ => rfl) (s.dir.filter fun d => d.line == key / 128) s
  rw [spSetAt, bytesAt, List.foldl_map, ← hback]
  exact (List.foldl_hom State.mem fun s p => (putByte_mem s (key + p.1) p.2).symm).symm

/-- R162, R230. A store that its display lets write stores its bytes and no others. -/
theorem performStore_mem {s : State} {p : Pending} (hlost : pixelLost s p = false) :
    (performStore s p).mem = spSetAt p.key p.bytes s.mem := by
  unfold performStore
  dsimp only
  rw [if_neg (Bool.eq_false_iff.1 hlost)]
  split
  · exact directWrite_mem s p.key p.bytes
  · exact (tagLines_mem _ _ _).trans (writeKeys_mem _ s p.key p.bytes)

/-! ## BACKGROUND_COMPLETE -/

/-- The registers of a wave are those that its block shows. -/
theorem wave?_regs (s : State) (r : WRef) : (s.wave? r).map (fun x => x.2.regs) =
    ((s.blocks.map Block.shown).find? fun b => b.1 == r.blk).bind fun b => (b.2.2.find? fun w => w.1 == r.wave).map fun w => w.2 := by
  have hblk : ((s.blocks.map Block.shown).find? fun b => b.1 == r.blk) = (s.block? r.blk).map Block.shown := List.find?_map ..
  rw [hblk]
  unfold State.wave?
  cases s.block? r.blk with
  | none => rfl
  | some b =>
    have hwave : (b.shown.2.2.find? fun w => w.1 == r.wave) = (b.wave? r.wave).map fun w => (w.wave, w.regs) := List.find?_map ..
    simp only [Option.map_some, Option.bind_some, hwave, Option.map_map]
    rfl

/-- Blocks that show the same hold the same in the registers of their waves. -/
theorem wave?_regs_of_shown {s t : State} (h : t.blocks.map Block.shown = s.blocks.map Block.shown) (r : WRef) :
    (t.wave? r).map (fun x => x.2.regs) = (s.wave? r).map fun x => x.2.regs := by
  rw [wave?_regs, wave?_regs, h]

/-- R142. A core none of whose blocks stands at a barrier has no barrier to complete. -/
theorem checkBarriers_idle {s : State} {die core : Nat}
    (h : (s.blocks.all fun b => b.die != die || b.core != core || b.barrier.isNone) = true) : checkBarriers s die core = s := by
  have hnone : (s.blocks.filter fun b => b.die == die && b.core == core && b.barrier.isSome) = [] := by
    rw [List.filter_eq_nil_iff]
    intro b hb hstands
    have hfree := List.all_eq_true.1 h b hb
    simp only [Bool.and_eq_true, beq_iff_eq, Option.isSome_iff_ne_none] at hstands
    simp [hstands] at hfree
  rw [checkBarriers, hnone]
  rfl

/-- A block stands on another core, or at no barrier. -/
def BlockShown.idleAt (die core : Nat) (x : BlockShown) : Bool := x.2.1.1 != die || x.2.1.2.1 != core || x.2.1.2.2.isNone

theorem all_idleAt (s : State) (die core : Nat) : (s.blocks.map Block.shown).all (BlockShown.idleAt die core) =
    s.blocks.all fun b => b.die != die || b.core != core || b.barrier.isNone := List.all_map

/-- Blocks that show the same stand at the same barriers. -/
theorem idle_of_shown {s t : State} {die core : Nat} (hblocks : t.blocks.map Block.shown = s.blocks.map Block.shown)
    (h : (s.blocks.all fun b => b.die != die || b.core != core || b.barrier.isNone) = true) :
    (t.blocks.all fun b => b.die != die || b.core != core || b.barrier.isNone) = true := by
  rw [← all_idleAt, hblocks, all_idleAt]
  exact h

/-- R162, R230. A store of a core that follows no earlier one and waits for nothing is performed. -/
theorem backgroundComplete_next {s : State} {die core idx : Nat} {p : Pending}
    (hp : (s.path.filter fun p => p.die == die && p.core == core)[idx]? = some p)
    (hfirst : ((s.path.filter fun p => p.die == die && p.core == core).take idx).any p.follows = false) (hwaits : storeWaits s p = false)
    (hflips : s.flipsOf p.key = []) :
    exec (.backgroundComplete die core idx false) s =
      .next (checkBarriers (performStore { s with path := s.path.erase p } p) die core) := by
  simp only [exec_backgroundComplete, execBackgroundComplete, hp]
  exact (if_neg (by simp [hfirst, hwaits, hflips])).trans (if_pos rfl)

/-- Memory in its canonical form is in the order of its keys. -/
theorem State.Canonical.memSorted {s : State} (h : s.Canonical) : spSorted s.mem = true := by
  obtain ⟨hmem, -⟩ := h
  simp only [State.memOk, Memory.wf, spWf, Bool.and_eq_true] at hmem
  exact hmem.1

/-- R162, R230. A store that is performed leaves the path, its bytes reach memory, and what stands beside stores stays. -/
theorem backgroundComplete_stores {s : State} {die core idx : Nat} {p : Pending} (hcanon : s.Canonical)
    (hp : (s.path.filter fun p => p.die == die && p.core == core)[idx]? = some p)
    (hfirst : ((s.path.filter fun p => p.die == die && p.core == core).take idx).any p.follows = false) (hwaits : storeWaits s p = false)
    (hflips : s.flipsOf p.key = []) (hlost : pixelLost s p = false)
    (hidle : (s.blocks.all fun b => b.die != die || b.core != core || b.barrier.isNone) = true) :
    ∃ t, exec (.backgroundComplete die core idx false) s = .next t ∧ t.path = s.path.erase p ∧ t.dcb = s.dcb ∧ t.frames = s.frames ∧
      (∀ i, i < p.bytes.length → t.byte (p.key + i) = (p.bytes[i]?).getD 0) ∧
      (∀ a, a < p.key ∨ p.key + p.bytes.length ≤ a → t.byte a = s.byte a) ∧
      ∀ r, (t.wave? r).map (fun x => x.2.regs) = (s.wave? r).map fun x => x.2.regs := by
  let s0 : State := { s with path := s.path.erase p }
  have hbeside := performStore_besideStores s0 p
  obtain ⟨hpath, hdcb, hframes, hblocks⟩ := besideStores_eq.1 hbeside
  have hmem : (performStore s0 p).mem = spSetAt p.key p.bytes s.mem := performStore_mem hlost
  refine ⟨performStore s0 p, ?_, hpath, hdcb, hframes, fun i hi => ?_, fun a ha => ?_, wave?_regs_of_shown hblocks⟩
  · rw [backgroundComplete_next hp hfirst hwaits hflips, checkBarriers_idle (idle_of_shown hblocks hidle)]
  · rw [State.byte, hmem, spGet_spSetAt_same hcanon.memSorted hi]
  · rw [State.byte, hmem, spGet_spSetAt_other p.bytes s.mem ha, State.byte]

/-! ## Stores to the stash -/

/-- R155, R189. A block after a byte of its stash has been stored outside every window: the planes that were loaded from a byte that
changes are torn. -/
def Block.scratched (b : Block) (off : Nat) (x : Byte) : Block :=
  { if spGet 0 b.stash off = x then b else tearPlanes b off with stash := spSet 0 off x b.stash }

/-- Only the stash and the tenant change. -/
theorem Block.scratched_eq (b : Block) (off : Nat) (x : Byte) :
    b.scratched off x = { b with stash := spSet 0 off x b.stash, tenant := (b.scratched off x).tenant } := by
  unfold Block.scratched
  split
  · rfl
  · rw [tearPlanes_eq]

/-- R155. A store of one byte to a block without windows changes nothing of memory, and the block as `Block.scratched` says. -/
theorem writeStashByte_scratched {s : State} {b : Block} (hb : s.block? b.uid = some b) (hwin : b.windows = []) (off : Nat) (x : Byte) :
    (writeStashByte b.uid s off x).mem = s.mem ∧ (writeStashByte b.uid s off x).dcb = s.dcb ∧
      (writeStashByte b.uid s off x).block? b.uid = some (b.scratched off x) := by
  have hnone : b.winOfOff off = none := by rw [Block.winOfOff, hwin]; rfl
  have hput (t : State) : (t.mapBlock b.uid fun b => { b with stash := spSet 0 off x b.stash }).block? b.uid =
      (t.block? b.uid).map fun b => { b with stash := spSet 0 off x b.stash } := State.block?_mapBlock t b.uid fun _ => rfl
  unfold writeStashByte
  simp only [hb, hnone]
  unfold Block.scratched
  split
  · exact ⟨rfl, rfl, (hput s).trans (by rw [hb]; rfl)⟩
  · refine ⟨rfl, rfl, (hput _).trans ?_⟩
    rw [State.block?_mapBlock s b.uid fun b => by rw [tearPlanes_eq], hb, Option.map_some, Option.map_some, tearPlanes_eq]

theorem writeStash_cons (u : Nat) (s : State) (off : Nat) (x : Byte) (l : List Byte) :
    writeStash u s off (x :: l) = writeStash u (writeStashByte u s off x) (off + 1) l := by
  have heq (s : State) (k : Nat) (l : List Byte) :
      writeStash u s k l = (bytesAt k l).foldl (fun s p => writeStashByte u s p.1 p.2) s := by rw [bytesAt, List.foldl_map]; rfl
  rw [heq, heq, bytesAt_cons, List.foldl_cons]

/-- R155. A store to a block without windows changes its bytes of the block's stash, and nothing of memory or of a wave. -/
theorem writeStash_scratch {s : State} {b : Block} (hb : s.block? b.uid = some b) (hwin : b.windows = []) (off : Nat) (l : List Byte) :
    (writeStash b.uid s off l).mem = s.mem ∧ (writeStash b.uid s off l).dcb = s.dcb ∧
      ∃ b', (writeStash b.uid s off l).block? b.uid = some b' ∧ b'.waves = b.waves ∧ b'.stash = spSetAt off l b.stash := by
  induction l generalizing s b off with
  | nil => exact ⟨rfl, rfl, b, hb, rfl, rfl⟩
  | cons x t ih =>
    obtain ⟨hmem, hdcb, hb1⟩ := writeStashByte_scratched hb hwin off x
    have huid : (b.scratched off x).uid = b.uid := by rw [Block.scratched_eq]
    have hwin1 : (b.scratched off x).windows = [] := by rw [Block.scratched_eq]; exact hwin
    have hwaves1 : (b.scratched off x).waves = b.waves := by rw [Block.scratched_eq]
    obtain ⟨hmem', hdcb', b', hb', hwaves, hstash⟩ := ih (by rw [huid]; exact hb1) hwin1 (off + 1)
    rw [huid] at hmem' hdcb' hb'
    rw [writeStash_cons, spSetAt_cons]
    exact ⟨hmem'.trans hmem, hdcb'.trans hdcb, b', hb', hwaves.trans hwaves1, hstash⟩

/-! ## Stores that enter the path -/

/-- The TLBs' fill changes the TLBs alone. -/
theorem fillTlb_keeps {γ : Type} (g : State → γ) (hg : ∀ (s : State) l, g { s with tlb := l } = g s) (s : State) (who : Who) (va : Nat) :
    g (fillTlb s who va) = g s := by
  unfold fillTlb
  dsimp only
  split
  · rfl
  · split
    · exact hg s _
    · rfl

/-- R162, R230. A plain store to memory that may be cached enters the core's store path, and changes neither memory nor a block. -/
theorem storeAt_enters (s : State) (c : Ctx) (disp : Option (Nat × Nat × Nat)) (hint va : Nat) (l : List Byte) {q : Place} (hca : q.ca = 0)
    (hdcb : ∀ off, q.tgt ≠ .dcb off) :
    (storeAt s c disp hint va l (.mem q)).mem = s.mem ∧ (storeAt s c disp hint va l (.mem q)).blocks = s.blocks := by
  have hmem := fillTlb_keeps State.mem (fun _ _ => rfl) s c.b.who va
  have hblocks := fillTlb_keeps State.blocks (fun _ _ => rfl) s c.b.who va
  unfold storeAt
  dsimp only
  split
  · exact absurd ‹_› (hdcb _)
  · rw [if_pos hca]
    exact ⟨hmem, hblocks⟩

/-- Settles O57: a store performed at its target writes its bytes and leaves what stands beside stores; one to the stash writes the block's
bytes one after another; one to memory enters the store path. -/
theorem storesChangeTheirBytes : Obligations.StoresChangeTheirBytes := by
  unfold Obligations.StoresChangeTheirBytes
  refine ⟨fun s die core idx p hcanon hp hfirst hwaits hflips hlost hidle => ?_, fun s b off l hb hwin hsorted => ?_,
    fun s c disp hint va l q hca hdcb => storeAt_enters s c disp hint va l hca hdcb⟩
  · exact backgroundComplete_stores hcanon hp hfirst hwaits hflips hlost hidle
  · obtain ⟨hmem, hdcb, b', hb', hwaves, hstash⟩ := writeStash_scratch hb hwin off l
    refine ⟨hmem, hdcb, b', hb', hwaves, fun i hi => ?_, fun a ha => ?_⟩
    · rw [hstash, spGet_spSetAt_same hsorted hi]
    · rw [hstash, spGet_spSetAt_other l _ ha]

end Sys2Proof.Machine
end

section
/-!
PROOF. The matrix engine: MTEN (R205), the commands that enter a tenant's queue (R186 to R195, R201, R202, R204), and ENQ and DEQ (R199, R203).
-/
namespace Sys2Proof.Machine

/-! ## MTEN -/

/-- R205. MTEN of system code in trap mode, with a legal operation, does what the operation does to the tenant that its scalar names. -/
theorem mten_goesOn {f : Fields} {s t : State} {c : Ctx} {n : Fin 128} {op : Fin 64} {k : State → Ctx → W32 → Except Stop Go}
    (hst : Stands 0x2C0 f s c) (hoid : c.b.oid = 0) (htrap : c.w.trap.isSome = true) (h1 : f.op1 = .s n) (h2 : f.op2 = .int op)
    (hop : op.val < 4) (hk : k s.begun c (c.readS true n) = .ok (.seq t)) : mten f k s = goesOn c f t := by
  have hmay : ¬ (c.b.oid ≠ 0 ∨ c.w.trap.isNone = true) := by
    rw [Option.isSome_iff_ne_none] at htrap
    simp [hoid, htrap]
  refine issue_goesOn hst ?_
  simp only [h1, h2]
  exact (if_neg hmay).trans ((if_neg (Nat.not_le.2 hop)).trans hk)

/-- R205. MTEN of another owner than system code, or outside trap mode, stops before any operand is looked at. -/
theorem mten_privileged {f : Fields} {s : State} {c : Ctx} (k : State → Ctx → W32 → Except Stop Go) (hst : Stands 0x2C0 f s c)
    (hout : c.b.oid ≠ 0 ∨ c.w.trap = none) : mten f k s = stopsWith c f s (.fault 3 0 0 c.e.mask) := by
  refine issue_stops hst (if_pos ?_)
  rwa [Option.isNone_iff_eq_none]

/-- Settles O30: the four operations share the check of MTEN. -/
theorem tenantControlIsPrivileged : Obligations.TenantControlIsPrivileged := by
  unfold Obligations.TenantControlIsPrivileged
  intro f s c hst hout i hi
  simp only [List.mem_cons, List.not_mem_nil, or_false] at hi
  obtain rfl | rfl | rfl | rfl := hi
  · exact (exec_mtenQuiesce s f).trans (mten_privileged _ hst hout)
  · exact (exec_mtenResume s f).trans (mten_privileged _ hst hout)
  · exact (exec_mtenReset s f).trans (mten_privileged _ hst hout)
  · exact (exec_mtenCtr s f).trans (mten_privileged _ hst hout)

/-- R205, Table 8.6. The counter that MTEN.ctr reads: the one that `a` names of the tenant there, or 0. -/
def tenantCounter (s : State) (c : Ctx) (a : W32) : W32 :=
  match tenantAt s c (a.getLsbD 0) with
  | some b => match b.tenant with
    | some t => (t.ctr[bitsOf a.toNat 1 4]?).getD 0
    | none => 0
  | none => 0

/-- The counter is the only value that agrees with the tenant where there is one and is 0 where there is none. -/
theorem eq_tenantCounter {s : State} {c : Ctx} {a x : W32}
    (hctr : ∀ b t, tenantAt s c (a.getLsbD 0) = some b → b.tenant = some t → x = (t.ctr[bitsOf a.toNat 1 4]?).getD 0)
    (hnone : tenantAt s c (a.getLsbD 0) = none → x = 0)
    (hthere : ∀ b, tenantAt s c (a.getLsbD 0) = some b → b.tenant.isSome = true) : x = tenantCounter s c a := by
  unfold tenantCounter
  cases hat : tenantAt s c (a.getLsbD 0) with
  | none => exact hnone hat
  | some b =>
    obtain ⟨t, ht⟩ := Option.isSome_iff_exists.1 (hthere b hat)
    simp only [ht]
    exact hctr b t hat ht

/-- Settles O29: each operation passes the checks of MTEN; reset and ctr turn on whether the scalar names a tenant. -/
theorem tenantControlCompletes : Obligations.TenantControlCompletes := by
  unfold Obligations.TenantControlCompletes
  intro f s c n op hst hoid htrap h1 h2 hop a
  simp only [exec_mtenQuiesce, execMtenQuiesce, exec_mtenResume, execMtenResume, exec_mtenReset, execMtenReset, exec_mtenCtr, execMtenCtr]
  refine ⟨mten_goesOn hst hoid htrap h1 h2 hop rfl, mten_goesOn hst hoid htrap h1 h2 hop rfl,
    fun hnone => mten_goesOn hst hoid htrap h1 h2 hop ?_, fun b hb => mten_goesOn hst hoid htrap h1 h2 hop ?_,
    fun hdest x hctr hnone hthere => mten_goesOn hst hoid htrap h1 h2 hop ?_⟩
  · simp only [show tenantAt s.begun c ((c.readS true n).getLsbD 0) = none from hnone]
  · simp only [show tenantAt s.begun c ((c.readS true n).getLsbD 0) = some b from hb]
    rfl
  · rw [eq_tenantCounter hctr hnone hthere]
    exact if_neg (by simp [hdest])

/-! ## Commands -/

/-- Settles O27: the operands are legal, the stash is captured, and the tenant's queue has room; the command takes the next number, which
is also that of the work that MWLD, MRUN and MRDA count. -/
theorem matrixCommandsComplete : Obligations.MatrixCommandsComplete := by
  unfold Obligations.MatrixCommandsComplete
  rintro f s c ⟨t, ht⟩
  refine ⟨fun off l u hst hoff hcap => issue_goesOn hst ?_, fun hst => issue_goesOn hst ?_,
    fun off l u hst hoff hcap => issue_goesOn hst ?_, fun a n off l u hst ha hn hcount hbias => issue_goesOn hst ?_,
    fun a n hst ha hn hdest => issue_goesOn hst ?_, fun d hst h0 => issue_goesOn hst ?_, fun u hst htenant hidle => issue_goesOn hst ?_⟩
  · simp only [hoff, ht, hcap]
  · simp only [ht]
    rfl
  · simp only [hoff, ht, hcap]
  · have hlegal : ¬ (n = 0 ∧ (!match f.op2 with | .s _ => true | _ => false) = true) := by
      rintro ⟨hzero, hconst⟩
      obtain hne | ⟨r, h2⟩ := hcount
      · exact hne hzero
      · simp [h2] at hconst
    simp only [ha, hn]
    refine (if_neg hlegal).trans ?_
    obtain ⟨h3, rfl, rfl⟩ | ⟨h3, hoff, hcap⟩ := hbias
    · simp only [h3, ht]
      rfl
    · simp only [if_neg h3, hoff, hcap, ht]
      rfl
  · simp only [ha, hn, hdest, ht]
    rfl
  · simp only [h0, ht]
    exact if_neg (by simp)
  · simp only [hasTenant, htenant]
    exact if_neg (Bool.eq_false_iff.1 hidle)

/-! ## ENQ and DEQ -/

theorem hasTenant_of_tenant {c : Ctx} {t : Tenant} (h : c.b.tenant = some t) : hasTenant c = .ok t := by
  simp only [hasTenant, h]

/-- R199. ENQ of 16 scalars to e0 enters them as the header of an MRUN. -/
theorem enqE0_goesOn {f : Fields} {s : State} {c : Ctx} {n : Fin 128} (hst : Stands 0x2C7 f s c) (hready : TenantReady s.begun c)
    (h0 : f.op0 = .e 0) (h1 : f.op1 = .s n) (h2 : f.op2 = .int 16) (hn : n.val ≤ 112) :
    execEnqE0 f s = goesOn c f (enqueue c s.begun.fresh.2 s.uids .mrun
      (wordsBytes ((List.range 16).map fun i => c.readS true (n + i))) 0 0 none) := by
  obtain ⟨t, ht⟩ := hready
  have hlegal : ¬ ((0 : Fin 8).val ≠ 0 ∨ (16 : Fin 64).val ≠ 16 ∨ 112 < n.val) := by
    rintro (hqueue | hcount | hreg)
    · exact hqueue rfl
    · exact hcount rfl
    · exact absurd hreg (Nat.not_lt.2 hn)
  refine issue_goesOn hst ?_
  simp only [h0, h1, h2, ht]
  exact if_neg hlegal

/-- What the issue of an instruction answers that moves some of its elements: it goes on after its last one, and else waits. -/
theorem issue_moves {opc : Nat} {f : Fields} {s u : State} {c : Ctx} {n m : Nat} {k : State → Ctx → Except Stop Go} (hst : Stands opc f s c)
    (hk : k s.begun c = if c.e.done + m = n then .ok (.seq u) else movedSome u c m) :
    issue opc f s k = if c.e.done + m = n then goesOn c f u
      else stopsWith c f s (.hold .blocked (u.mapEntry c.ref fun e => { e with done := e.done + m })) := by
  by_cases hlast : c.e.done + m = n
  · rw [if_pos hlast] at hk ⊢
    exact issue_goesOn hst hk
  · rw [if_neg hlast] at hk ⊢
    exact issue_stops hst hk

/-- Settles O28: ENQ to e1 and DEQ move as many of the elements left as the queue has room for, or holds, which is at least one. -/
theorem matrixQueueInstructionsComplete : Obligations.MatrixQueueInstructionsComplete := by
  unfold Obligations.MatrixQueueInstructionsComplete
  refine fun f s c => ⟨fun n => enqE0_goesOn,
    fun n t l hst ht h0 h2 hl hleft hroom => issue_moves hst ?_, fun n t hst ht h1 h2 hdest hleft hfull => issue_moves hst ?_⟩
  · have hsome : min (n - c.e.done) (16 - c.w.e1.length) ≠ 0 := by omega
    simp only [h0, h2, hl, hasTenant_of_tenant ht]
    exact (if_neg (by decide)).trans (if_neg hsome)
  · have hsome : min (n - c.e.done) c.w.e2.length ≠ 0 := by
      have := List.length_pos_iff.2 hfull
      omega
    simp only [h1, h2, hasTenant_of_tenant ht]
    exact (if_neg (by simp [hdest])).trans (if_neg hsome)

end Sys2Proof.Machine
end

section
/-!
PROOF. The engines: the commands of a matrix tenant (R187, R188, R190, R198, R201, R202, R208), copies (R222 to R224) and publications (R260).
-/
namespace Sys2Proof.Machine

/-! ## Commands of a tenant -/

section TenantEvents

variable {s s0 : State} {blk : Nat} {b : Block} {t : Tenant} {q : MCmd}

/-- R208. An MWLD whose header fails a check is its block's engine fault. -/
theorem mwldExecute_fault {d : Nat} (hhead : headCmd s blk .mwld = some (b, t, q))
    (hcheck : mwldCheck (natLE q.data) (8 * t.slots) b.z = some d) : exec (.mwldExecute blk) s = .next (engineFault s b q d) := by
  simp only [exec_mwldExecute, execMwldExecute, hhead, hcheck]

/-- R187. An MWLD that passes its checks loads the shadow plane. -/
theorem mwldExecute_loads (hhead : headCmd s blk .mwld = some (b, t, q)) (hcheck : mwldCheck (natLE q.data) (8 * t.slots) b.z = none)
    (hfill : fillRanges s b q.wave false (wSources (natLE q.data) (8 * t.slots)) = .ok s0) :
    exec (.mwldExecute blk) s = .next (finishOp (s0.setTenant blk
      (t.setShadow (loadPlane s0 (b.seenBy q.wave) q.data (8 * t.slots) false)).pop) b q []) := by
  simp only [exec_mwldExecute, execMwldExecute, hhead, hcheck, hfill]

/-- R188. MSWAP exchanges the planes. -/
theorem mswapExecute_swaps (hhead : headCmd s blk .mswap = some (b, t, q)) :
    exec (.mswapExecute blk) s = .next (s.setTenant blk ({ t with active := !t.active }).pop) := by
  simp only [exec_mswapExecute, execMswapExecute, hhead]

/-- R208. A MINIT of rows behind the last one is its block's engine fault. -/
theorem minitExecute_fault (hhead : headCmd s blk .minit = some (b, t, q)) (hcount : q.count ≠ 0)
    (hrows : 128 * t.slots < q.start + q.count) : exec (.minitExecute blk) s = .next (engineFault s b q 7) := by
  simp only [exec_minitExecute, execMinitExecute, hhead]
  exact if_pos ⟨hcount, hrows⟩

/-- R201. A MINIT of no row, or of rows that are there, writes the bias to each of them. -/
theorem minitExecute_writes (hhead : headCmd s blk .minit = some (b, t, q)) (hrows : q.count = 0 ∨ q.start + q.count ≤ 128 * t.slots) :
    exec (.minitExecute blk) s = .next (finishOp (s.setTenant blk
      ({ t with acc := biasRows t.acc (biasWords q.data) q.start q.count }).pop) b q []) := by
  simp only [exec_minitExecute, execMinitExecute, hhead]
  exact if_neg (by omega)

/-- R202. The overflow bits are read and cleared. -/
theorem mrdaExecute_overflow (hhead : headCmd s blk .ovf = some (b, t, q)) :
    exec (.mrdaExecute blk) s = .next (finishOp (s.setTenant blk ({ t with ovf := 0 }).pop) b q [List.replicate 32 t.ovf]) := by
  simp only [exec_mrdaExecute, execMrdaExecute, hhead]

/-- R208. An MRDA of rows behind the last one is its block's engine fault. -/
theorem mrdaExecute_fault (hovf : headCmd s blk .ovf = none) (hhead : headCmd s blk .mrda = some (b, t, q))
    (hrows : 128 * t.slots < q.start + q.count) : exec (.mrdaExecute blk) s = .next (engineFault s b q 7) := by
  simp only [exec_mrdaExecute, execMrdaExecute, hovf, hhead]
  exact if_pos hrows

/-- R202. An MRDA of rows that are there reads them. -/
theorem mrdaExecute_reads (hovf : headCmd s blk .ovf = none) (hhead : headCmd s blk .mrda = some (b, t, q))
    (hrows : q.start + q.count ≤ 128 * t.slots) : exec (.mrdaExecute blk) s = .next (finishOp (s.setTenant blk t.pop) b q
      ((List.range q.count).map fun i => lanes32.map fun l => t.accAt (q.start + i) l)) := by
  simp only [exec_mrdaExecute, execMrdaExecute, hovf, hhead]
  exact if_neg (Nat.not_lt.2 hrows)

/-- R208. An MRUN whose parameters fail a check is its block's engine fault. -/
theorem mrunExecute_fault {d : Nat} (hhead : headCmd s blk .mrun = some (b, t, q)) (hcheck : mrunCheck (natLE q.data) t b.z = some d) :
    exec (.mrunExecute blk) s = .next (engineFault s b q d) := by
  simp only [exec_mrunExecute, execMrunExecute, hhead, hcheck]

/-- R206. The command as its first row finds it: the activation rows in the stash have been read. -/
def withActs (s0 : State) (b : Block) (t : Tenant) (q : MCmd) : MCmd :=
  if q.acts = [] then
    { q with acts := stashRows s0 b q.wave (natLE q.data) (rK (natLE q.data) (8 * t.slots) t.activePlane.sparse) q.row }
  else q

/-- R198. An MRUN of which rows have entered stays the tenant's first command, at its next row, or completes with its completion word. -/
theorem mrunExecute_rows {s1 : State} {b1 : Block} {t1 : Tenant} {row : Nat} (hhead : headCmd s blk .mrun = some (b, t, q))
    (hcheck : mrunCheck (natLE q.data) t b.z = none) (hfill : mrunFills s b t q = .ok s0)
    (hrows : mrunRows blk (withActs s0 b t q) (natLE q.data) (rM (natLE q.data) - (withActs s0 b t q).row) (withActs s0 b t q).row s0 =
      (row, s1))
    (hmoved : row ≠ (withActs s0 b t q).row) (hb1 : s1.block? blk = some b1) (ht1 : b1.tenant = some t1) :
    let p := natLE q.data
    let r := withActs s0 b t q
    let s2 := s1.setTenant blk t1.pop
    exec (.mrunExecute blk) s = .next (if row < rM p then
        s1.setTenant blk { t1 with queue := { r with row := row } :: t1.queue.drop 1 }
      else finishOp (if rCwen p then writeStashFor blk r.wave s2 (rCwoff p) (bytesLE 4 (rCwval p)) else s2) b r []) := by
  unfold withActs at hrows hmoved
  simp only [exec_mrunExecute, execMrunExecute, hhead, hcheck, hfill, hrows, hb1, ht1]
  exact (if_neg hmoved).trans (apply_ite Host.Outcome.next _ _ _).symm

end TenantEvents

/-! ## Copies -/

section CopyEvents

variable {s : State} {cid : Nat} {c : Copy} {b : Block} (hfind : (s.copies.find? fun c => c.id == cid) = some c)
include hfind

theorem copy_id : c.id = cid := by simpa using List.find?_some hfind

/-- R224. A copy goes on that is not stopped, is its wave's first and waits for no other command. -/
theorem copyReady_eq_some (hb : s.block? c.blk = some b) (hpay : c.payload = false) (hpage : c.pf = none) (hhalt : b.halt ≠ .halted)
    (hfirst : (s.copies.any fun x => x.id < cid && x.blk == c.blk && x.wave == c.wave && !x.payload) = false)
    (hwait : commandWaits s cid = false) : copyReady s c = some b := by
  rw [copyReady, hb, copy_id hfind]
  exact Option.filter_eq_some_iff.2 ⟨rfl, by simp [hpay, hpage, hhalt, hfirst, hwait]⟩

/-- R223. A copy whose record fails a check is its block's engine fault. -/
theorem copyExecute_fault {d : Nat} (hready : copyReady s c = some b) (hturn : copyTurn s b c = true)
    (hcheck : copyCheck c.record.toNat b.z = some d) : exec (.copyExecute cid) s = .next (copyFault s b c 12 d 0) := by
  simp only [exec_copyExecute, execCopyExecute, hfind, hready, hturn, hcheck]
  rfl

/-- R223, R224. A copy whose record passes its checks and whose rows all move writes its completion word; it stays until its status is
pushed, where it has one. -/
theorem copyExecute_moves {s1 s2 : State} (hready : copyReady s c = some b) (hturn : copyTurn s b c = true)
    (hcheck : copyCheck c.record.toNat b.z = none)
    (hmove : moveRows c.blk c.wave cid c.record.toNat (copySaved (copyTaken s b c) b c)
      (copyOverlap (copyTaken s b c) (b.seenBy c.wave) c.record.toNat) (cRows c.record.toNat) c.row c.byte (copyTaken s b c) = .done s1)
    (hword : copyWord s1 b c = .ok s2) :
    exec (.copyExecute cid) s = .next (if cSten c.record.toNat then s2.mapCopy cid fun x => { x with payload := true, begun := true }
      else { s2 with copies := s2.copies.filter fun x => x.id != cid }) := by
  simp only [exec_copyExecute, execCopyExecute, hfind, hready, hturn, hcheck, hmove, hword]
  exact (apply_ite Host.Outcome.next _ _ _).symm

/-- R224. The status of a copy whose wave has ended is dropped. -/
theorem copyStatusPush_dropped (hwave : s.wave? { blk := c.blk, wave := c.wave } = none) (hblk : s.block? c.blk ≠ none)
    (hpay : c.payload = true) :
    exec (.copyStatusPush cid) s = .next { s with copies := s.copies.filter fun x => x.id != cid } := by
  simp only [exec_copyStatusPush, execCopyStatusPush, hfind, hwave]
  exact if_pos (by rw [hpay, Option.isSome_iff_ne_none.2 hblk]; rfl)

/-- R223, R224. The status of a copy with no earlier one of its wave enters e4 where there is a place. -/
theorem copyStatusPush_pushed {w : Wave} (hwave : s.wave? { blk := c.blk, wave := c.wave } = some (b, w)) (hpay : c.payload = true)
    (hroom : w.e4.length < 8) (hfirst : (s.copies.any fun x => x.id < cid && x.blk == c.blk && x.wave == c.wave) = false) :
    let t := s.mapWave c.blk c.wave fun w => { w with e4 := w.e4 ++ [BitVec.ofNat 32 (cTag c.record.toNat)] }
    exec (.copyStatusPush cid) s = .next { t with copies := t.copies.filter fun x => x.id != cid } := by
  simp only [exec_copyStatusPush, execCopyStatusPush, hfind, hwave]
  exact if_pos (by simp [hpay, hroom, hfirst])

end CopyEvents

/-- R256, R260. A publication reaches its home, and its BLAZE is ready. -/
theorem blazePublish_publishes {s : State} {id : Nat} {p : Publication} (hfind : (s.pubs.find? fun p => p.id == id) = some p) :
    exec (.blazePublish id) s = .next ((publish { s with pubs := s.pubs.filter fun x => x.id != id } p).mapWave p.blk p.wave
      fun w => { w with ops := updWhere (fun o => some o.id == p.op) (fun o => { o with ready := true }) w.ops }) := by
  simp only [exec_blazePublish, execBlazePublish, hfind]

/-- Settles O41: each event of an engine has a lemma that says what it does where its checks pass, and one for a check that fails. -/
theorem engineEventsComplete : Obligations.EngineEventsComplete := by
  unfold Obligations.EngineEventsComplete
  refine ⟨fun s s0 blk b t q => ⟨fun hhead => ⟨fun d => mwldExecute_fault hhead, mwldExecute_loads hhead⟩, mswapExecute_swaps,
    fun hhead => ⟨minitExecute_fault hhead, minitExecute_writes hhead⟩, mrdaExecute_overflow,
    fun hovf hhead => ⟨mrdaExecute_fault hovf hhead, mrdaExecute_reads hovf hhead⟩, fun hhead => ⟨fun d => mrunExecute_fault hhead, ?_⟩⟩,
    fun s cid c hfind => ⟨?_, copyStatusPush_dropped hfind, fun b w => copyStatusPush_pushed hfind⟩, fun s id p => blazePublish_publishes⟩
  · intro row s1 b1 t1 hcheck hfill r hrows hmoved hb1 ht1
    have hnext := mrunExecute_rows hhead hcheck hfill hrows hmoved hb1 ht1
    exact ⟨fun hmore => hnext.trans (congrArg _ (if_pos hmore)), fun hlast => hnext.trans (congrArg _ (if_neg (Nat.not_lt.2 hlast)))⟩
  · intro b hb hpay hpage hhalt hfirst hwait hturn r s0
    have hready := copyReady_eq_some hfind hb hpay hpage hhalt hfirst hwait
    exact ⟨fun d => copyExecute_fault hfind hready hturn, fun s1 s2 => copyExecute_moves hfind hready hturn⟩

end Sys2Proof.Machine
end

section
/-!
PROOF. The launch and tile instructions: CPY (R220, R221), LAUNCH and GRUN (R259), BLAZE (R260), BLZQ and BLZDROP (R261).
-/
namespace Sys2Proof.Machine

/-! ## Copies -/

/-- R220, R221. CPY of 64 bytes of the stash hands them to the copy engine where the wave has no element in e3 and no store waits. -/
theorem cpy_goesOn {f : Fields} {s t : State} {c : Ctx} {off : Nat} {l : List Byte}
    (hpath : pathStuck s.begun c.b.die c.b.core = false) (hst : Stands 0x301 f s c) (he3 : c.w.e3 = []) (h2 : f.op2 = .none)
    (hoff : offsetOperand c f.op1 64 true = some off) (hcap : capture s.begun c off 64 64 = .ok (l, t)) :
    exec (.cpy f) s = goesOn c f (enterCopy t c l) := by
  refine issue_goesOn hst ?_
  simp only [hpath, hoff, hcap]
  exact if_neg (by simp [he3, h2])

/-- R220, R221. CPY of 16 s registers that end at s127 or below hands them to the copy engine on the same terms. -/
theorem cpyS_goesOn {f : Fields} {s : State} {c : Ctx} {n : Fin 128}
    (hpath : pathStuck s.begun c.b.die c.b.core = false) (hst : Stands 0x301 f s c) (he3 : c.w.e3 = []) (h2 : f.op2 = .int 16)
    (h1 : f.op1 = .s n) (hn : n.val ≤ 112) :
    exec (.cpyS f) s = goesOn c f (enterCopy s.begun c (wordsBytes ((List.range 16).map fun i => c.readS true (n + i)))) := by
  refine issue_goesOn hst ?_
  simp only [h1, hpath]
  exact if_neg (by simp [he3, h2, Nat.not_lt.2 hn])

/-! ## LAUNCH and GRUN (R259) -/

/-- How LAUNCH goes on from what its submission answers: with a page that its record waits for, or with the launch counted (R241, R259). -/
def afterSubmit (s : State) (c : Ctx) (f : Fields) : Except Nat (State × Bool) → Except Stop Go
  | .error va => .error (.record va c.e.mask s)
  | .ok (t, _) => .ok (.seq (counted t c f))

/-- R259. LAUNCH releases at .dev and then submits its record where its die's pool has room and no byte of the record is held. -/
theorem launch_goesOn {f : Fields} {s t : State} {c : Ctx} {a cw : Nat} {v : W32} {ok : Bool}
    (hpath : pathStuck s.begun c.b.die c.b.core = false) (hst : Stands 0x302 f s c) (ha : addressOperand c f.op1 = some a)
    (hcw : completionOperands c f = some (cw, v)) (halign : a % 16 = 0) (hroom : poolRoom (releaseAt s.begun c.b 5) c.b.die = true)
    (hheld : recordHeld (releaseAt s.begun c.b 5) (launchOf (releaseAt s.begun c.b 5) c a cw v) = false)
    (hsub : submit (releaseAt s.begun c.b 5) (launchOf (releaseAt s.begun c.b 5) c a cw v) none = .ok (t, ok)) :
    exec (.launch f) s = goesOn c f (counted t c f) := by
  refine issue_goesOn hst ?_
  simp only [launching, ha, hcw, hpath, hroom, halign]
  exact (if_neg (Bool.eq_false_iff.1 hheld)).trans (congrArg (afterSubmit _ c f) hsub)

/-- R259, R263. GRUN releases at .dev and then hands its graph table to its die, which holds 16 requests. -/
theorem grun_goesOn {f : Fields} {s : State} {c : Ctx} {a cw : Nat} {v : W32}
    (hpath : pathStuck s.begun c.b.die c.b.core = false) (hst : Stands 0x303 f s c) (ha : addressOperand c f.op1 = some a)
    (hcw : completionOperands c f = some (cw, v)) (halign : a % 16 = 0)
    (hroom : ((releaseAt s.begun c.b 5).runReqs.filter fun r => r.die == c.b.die).length < 16) :
    let t := releaseAt s.begun c.b 5
    exec (.grun f) s = goesOn c f (counted { t with runReqs := t.runReqs ++ [runOf c a cw v] } c f) := by
  refine issue_goesOn hst ?_
  simp only [ha, hcw, hpath, halign]
  exact if_neg (Nat.not_le.2 hroom)

/-! ## Blazes -/

/-- R260. BLAZE releases at its scope and then sends its publication to the key's home. -/
theorem blaze_goesOn {f : Fields} {s : State} {c : Ctx} {sc key n : Nat} {own : Bool}
    (hpath : pathStuck s.begun c.b.die c.b.core = false) (hst : Stands 0x304 f s c) (hscope : scopeOperand f.op3 = some sc)
    (hkey : keyOperand s.begun c f.op1 = .ok (key, own))
    (hcount : countOperand c f.op2 (if isTemplateKey f.op1 then some (tCnt (lOutt (recordOf s.begun c.b))) else none) = some n) :
    let t := (releaseAt s.begun c.b sc).fresh.2
    let id := (releaseAt s.begun c.b sc).uids
    exec (.blaze f) s = goesOn c f (countOnFlag { t with pubs := t.pubs ++ [publicationOf c id key n] } c f id false) := by
  refine issue_goesOn hst ?_
  simp only [hscope, hcount, hkey, hpath]
  rfl

/-- R261. BLZQ to an s register reads the owner's entry of the key. -/
theorem blzq_goesOn {f : Fields} {s : State} {c : Ctx} {key : Nat} {own : Bool} {d : Fin 128}
    (hkey : keyOperand s.begun c f.op1 = .ok (key, own)) (hst : Stands 0x305 f s c) (h0 : f.op0 = .s d) :
    exec (.blzq f) s = goesOn c f
      (result s.begun c c.w f f.op0 true true c.e.mask 0 [List.replicate 32 (blazeWord s.begun c.b.oid key)] 0) := by
  refine issue_goesOn hst ?_
  simp only [h0, hkey]
  rfl

/-- R261. BLZDROP removes the owner's entry of the key. -/
theorem blzdrop_goesOn {f : Fields} {s : State} {c : Ctx} {key : Nat} {own : Bool}
    (hkey : keyOperand s.begun c f.op1 = .ok (key, own)) (hst : Stands 0x306 f s c) :
    exec (.blzdrop f) s = goesOn c f (counted { s.begun with blazes := s.begun.blazes.filter fun b => !isBlaze c.b.oid key b } c f) := by
  refine issue_goesOn hst ?_
  simp only [hkey]

/-- Settles O31: each instruction has a lemma that says how it completes. -/
theorem launchInstructionsComplete : Obligations.LaunchInstructionsComplete := by
  unfold Obligations.LaunchInstructionsComplete
  exact fun f s c => ⟨fun hpath => ⟨fun off l t => cpy_goesOn hpath, fun n => cpyS_goesOn hpath, fun a cw v t ok => launch_goesOn hpath,
    fun a cw v => grun_goesOn hpath, fun sc key n own => blaze_goesOn hpath⟩,
    fun key own hkey => ⟨fun d => blzq_goesOn hkey, blzdrop_goesOn hkey⟩⟩

end Sys2Proof.Machine
end

section
/-!
PROOF. The memory system's events: the directory (R229), stores that are performed or refused (R230, R378), page faults (R291), and the end
of a bias flip (R325).
-/
namespace Sys2Proof.Machine

/-! ## Reads of a line -/

section DirectoryRequests

variable {s : State} {line : Nat} {h : Holder} (hok : holderOk s line h = true) (hflips : s.flipsOf (128 * line) = [])
  (howned : lineOwned s line h = false)
include hok hflips howned

/-- R229. A holder that has no copy of a line that no command owns reads it shared. -/
theorem dirReadShared_next (hnone : s.dirEnt? line h = none) :
    exec (.dirReadShared line h) s = .next (keepShared h (readShared (markFilled s line h) line h) line) :=
  if_pos (by simp [hok, hflips, howned, hnone])

/-- R229, R169. A holder other than an L1 takes ownership of such a line; where it is an engine, reservations on the line go. -/
theorem dirReadOwn_next (hl1 : l1Holder h = false) :
    ∃ t, exec (.dirReadOwn line h) s = .next t ∧ t.mem = (readOwn (markFilled s line h) line h).mem ∧
      t.dir = (readOwn (markFilled s line h) line h).dir := by
  refine ⟨_, if_pos (by simp [hok, hflips, howned, hl1]), ?_, ?_⟩
  · split <;> rfl
  · split <;> rfl

end DirectoryRequests

theorem fillWindow_mem (s : State) (blk : Nat) (w : Window) (x : Nat) : (fillWindow s blk w x).mem = s.mem := by
  unfold fillWindow
  dsimp only
  split
  · exact (tagHeld_keeps State.mem (fun _ _ => rfl) _ _ _ _).trans (readShared_mem _ _ _)
  · exact readShared_mem _ _ _

theorem markFilled_mem (s : State) (line : Nat) (h : Holder) : (markFilled s line h).mem = s.mem := by
  unfold markFilled
  split
  · split
    · rfl
    · split
      · rfl
      · split
        · rfl
        · exact fillWindow_mem _ _ _ _
  · rfl

theorem markFilled_of_not_window {h : Holder} (hwin : ∀ blk w, h ≠ .window blk w) (s : State) (line : Nat) : markFilled s line h = s := by
  cases h with
  | window blk w => exact absurd rfl (hwin blk w)
  | _ => rfl

/-- The copy of a line that its new owner holds (R229). -/
def ownEntry (s : State) (line : Nat) (h : Holder) : DirEnt :=
  match s.dirEnt? line h with
  | some d => { d with st := .modified }
  | none => { line := line, holder := h, st := .modified, dirty := 0, valid := 15, tag := lineTag s line }

theorem ownEntry_st (s : State) (line : Nat) (h : Holder) : (ownEntry s line h).st = .modified := by
  unfold ownEntry
  split <;> rfl

theorem ownEntry_isEnt (s : State) (line : Nat) (h : Holder) : isEnt line h (ownEntry s line h) = true := by
  unfold ownEntry
  cases hent : s.dirEnt? line h with
  | none => simp [isEnt]
  | some d =>
    have hisEnt : isEnt line h d = true := List.find?_some hent
    exact hisEnt

theorem readOwn_dir (s : State) (line : Nat) (h : Holder) :
    (readOwn s line h).dir = ownEntry s line h :: s.dir.filter fun d => d.line != line := by
  have hback := writeBacks_keep State.dir (fun _ _ => rfl) (s.dir.filter fun d => d.line == line && d.holder != h) s
  exact congrArg (fun l => ownEntry s line h :: l.filter fun d => d.line != line) hback

/-- R229. Ownership of a line: its owner is the only holder, in M. -/
theorem readOwn_owns {s t : State} {line : Nat} {h : Holder} (hdir : t.dir = (readOwn s line h).dir) :
    t.dirEnt? line h = some (ownEntry s line h) ∧ ∀ d ∈ t.dir, d.line = line → d.holder = h := by
  have hent := ownEntry_isEnt s line h
  rw [State.dirEnt?, hdir, readOwn_dir]
  refine ⟨List.find?_cons_of_pos hent, fun d hd hline => ?_⟩
  obtain rfl | hd := List.mem_cons.1 hd
  · simp only [isEnt, Bool.and_eq_true, beq_iff_eq] at hent
    exact hent.2
  · simp [hline] at hd

theorem readOwn_mem (s : State) (line : Nat) (h : Holder) : (readOwn s line h).mem = s.mem :=
  readOwn_keeps State.mem (fun _ _ => rfl) (fun _ _ => rfl) s line h

/-- R229. What DIR_READ_OWN leaves: memory as it was, and the holder the line's only one, in M. -/
theorem dirReadOwn_owns {s : State} {line : Nat} {h : Holder} (hok : holderOk s line h = true) (hflips : s.flipsOf (128 * line) = [])
    (howned : lineOwned s line h = false) (hl1 : l1Holder h = false) :
    ∃ t, exec (.dirReadOwn line h) s = .next t ∧ t.mem = s.mem ∧ t.dirEnt? line h = some (ownEntry (markFilled s line h) line h) ∧
      ∀ d ∈ t.dir, d.line = line → d.holder = h := by
  obtain ⟨t, hnext, hmem, hdir⟩ := dirReadOwn_next hok hflips howned hl1
  exact ⟨t, hnext, hmem.trans ((readOwn_mem _ line h).trans (markFilled_mem s line h)), readOwn_owns hdir⟩

/-! ## Write-backs and recalls -/

section DirectoryEntries

variable {s : State} {line : Nat} {h : Holder} {d : DirEnt} (hent : s.dirEnt? line h = some d) (howned : lineOwned s line .host = false)
include hent howned

/-- R229. A write-back leaves memory as agents read it, and its line clean in E. -/
theorem dirWriteBack_leaves (hdirty : d.st = .modified ∨ d.st = .owned) :
    ∃ t, exec (.dirWriteBack line h) s = .next t ∧ t.mem = s.mem ∧
      t.dir = updWhere (isEnt line h) (fun x => { x with st := .exclusive, dirty := 0 }) s.dir := by
  refine ⟨{ writeBackEnt s d with
    dir := updWhere (isEnt line h) (fun x => { x with st := .exclusive, dirty := 0 }) (writeBackEnt s d).dir }, ?_,
    writeBackEnt_keeps State.mem (fun _ _ => rfl) s d, congrArg _ (writeBackEnt_keeps State.dir (fun _ _ => rfl) s d)⟩
  simp only [exec_dirWriteBack, execDirWriteBack, hent]
  exact if_pos ⟨hdirty, by simp [howned]⟩

/-- R229. A recall leaves memory as agents read it, and its line clean in S or nowhere. -/
theorem dirRecall_leaves (toShared : Bool) :
    ∃ t, exec (.dirRecall line h toShared) s = .next t ∧ t.mem = s.mem ∧
      t.dir = if toShared then updWhere (isEnt line h) (fun x => { x with st := .shared, dirty := 0 }) s.dir
        else s.dir.filter fun x => !isEnt line h x := by
  have hdir := writeBackEnt_keeps State.dir (fun _ _ => rfl) s d
  refine ⟨{ writeBackEnt s d with
    dir := if toShared then updWhere (isEnt line h) (fun x => { x with st := .shared, dirty := 0 }) (writeBackEnt s d).dir
      else (writeBackEnt s d).dir.filter fun x => !isEnt line h x }, ?_, writeBackEnt_keeps State.mem (fun _ _ => rfl) s d, by rw [hdir]⟩
  simp only [exec_dirRecall, execDirRecall, hent]
  exact if_neg (by simp [howned])

end DirectoryEntries

/-! ## Stores that a peer refuses -/

/-- R378. A store to a peer that refuses it, in its turn, is fatal to its block. -/
theorem backgroundComplete_refused {s : State} {die core idx : Nat} {p : Pending} {b : Block}
    (hp : (s.path.filter fun p => p.die == die && p.core == core)[idx]? = some p)
    (hfirst : ((s.path.filter fun p => p.die == die && p.core == core).take idx).any p.follows = false) (hwaits : storeWaits s p = false)
    (hflips : s.flipsOf p.key = []) (hlow : 2 ^ 40 ≤ p.key) (hhigh : p.key < 2 ^ 50) (hb : s.block? p.blk = some b) :
    exec (.backgroundComplete die core idx true) s =
      .next (fatalFault { s with path := s.path.erase p } b (b.wave? p.wave) 6 100 p.va (16 * p.hdr.toNat) p.idx p.mask) := by
  have hblock : ({ s with path := s.path.erase p } : State).block? p.blk = some b := hb
  simp only [exec_backgroundComplete, execBackgroundComplete, hp, hblock]
  exact (if_neg (by simp [hfirst, hwaits, hflips])).trans ((if_neg (by decide)).trans (if_neg (by simpa using ⟨hlow, hhigh⟩)))

/-! ## Page faults -/

section PageFaults

variable {s : State} {pf : Nat} {p : PageFault} (hfind : (s.pfs.find? fun p => p.id == pf) = some p) (hlead : s.takingOver = none)
include hfind hlead

/-- R291. A leaf that the executive maps lets every fault of the owner on the page make its access again. -/
theorem pageFaultResolve_map {leaf : W64} (hheld : slotHeld s p.oid p.va = false) :
    exec (.pageFaultResolve pf (.map leaf)) s =
      .next ((s.pfs.filter fun x => x.oid == p.oid && x.va / 2 ^ 16 == p.va / 2 ^ 16).foldl replay (mapPage s p.oid p.va leaf)) := by
  simp only [exec_pageFaultResolve, execPageFaultResolve, hlead, Option.isNone_none, Bool.and_true, hfind]
  exact if_neg (Bool.eq_false_iff.1 hheld)

/-- R291. A page that the executive denies faults each of them that is still there. -/
theorem pageFaultResolve_deny :
    exec (.pageFaultResolve pf .deny) s = .next ((s.pfs.filter fun x => x.oid == p.oid && x.va / 2 ^ 16 == p.va / 2 ^ 16).foldl
      (fun s x => if s.pfs.contains x then denyPage s x else s) s) := by
  simp only [exec_pageFaultResolve, execPageFaultResolve, hlead, Option.isNone_none, Bool.and_true, hfind]

end PageFaults

/-! ## The end of a flip -/

/-- A frame that is written is read back, where the frame table's keys rise. -/
theorem frame_setFrame_of_sorted {s : State} (hframes : spSorted s.frames = true) (p : Nat) (f : Frame) : (s.setFrame p f).frame p = f :=
  spGet_spSet_same _ _ _ hframes

theorem drainPath_frames (s : State) (which : Pending → Bool) : (drainPath s which).frames = s.frames :=
  foldl_same (g := State.frames) (fun s p => congrArg (fun x => x.2.2.1) (performStore_besideStores s p)) _ _

theorem recallFrame_frames (s : State) (lin : Bool) (p : Nat) (which : Holder → Bool) : (recallFrame s lin p which).frames = s.frames :=
  writeBacks_keep State.frames (fun _ _ => rfl) _ s

theorem clearFrame_frames (s : State) (lin : Bool) (p : Nat) : (clearFrame s lin p).frames = s.frames := rfl

/-- R325. A finished flip leaves the frame in its new bias, with nothing pending. -/
theorem finishFlip_frame {s : State} (hframes : spSorted s.frames = true) (p : Nat) (toHost : Bool) :
    (finishFlip s p toHost).frame p = { s.frame p with hb := toHost, pend := false } := by
  refine frame_setFrame_of_sorted ?_ p _
  have hdrain := fun lin which => (recallFrame_frames (drainPath s fun q => inFrame (s.frame p).lin p q.key) lin p which).trans
    (drainPath_frames s _)
  split
  · exact (congrArg spSorted ((clearFrame_frames _ _ _).trans (hdrain _ _))).trans hframes
  · exact (congrArg spSorted (hdrain _ _)).trans hframes

/-- R325. A flip that no engine's line of the frame holds up ends. -/
theorem biasFlipComplete_finishes {s : State} {p n : Nat} {toHost : Bool} {l : List (Nat × Bool × Nat)} (hfirst : s.flips = (p, toHost, n) :: l)
    (hwaits : flipWaits s (s.frame p).lin p n = false) : exec .biasFlipComplete s = .next (finishFlip s p toHost) := by
  simp only [exec_biasFlipComplete, execBiasFlipComplete, hfirst]
  exact if_neg (Bool.eq_false_iff.1 hwaits)

/-- Settles O42: the directory's events change no memory, as write-backs change only what DRAM keeps and a fill only the directory; the others
each have a lemma that says what they do. -/
theorem memoryEventsComplete : Obligations.MemoryEventsComplete := by
  unfold Obligations.MemoryEventsComplete
  refine ⟨fun s line h hok hflips howned => ⟨dirReadShared_next hok hflips howned, fun hl1 => ?_⟩,
    fun s line h d hent => ⟨fun hdirty howned => dirWriteBack_leaves hent howned hdirty,
      fun howned => ⟨dirRecall_leaves hent howned true, dirRecall_leaves hent howned false⟩⟩,
    fun s die core idx p hp hfirst hwaits hflips => ⟨backgroundComplete_next hp hfirst hwaits hflips,
      fun b => backgroundComplete_refused hp hfirst hwaits hflips⟩,
    fun s pf p hfind hlead => ⟨fun leaf => pageFaultResolve_map hfind hlead, pageFaultResolve_deny hfind hlead⟩,
    fun s p n toHost l hfirst hwaits hframes => ?_⟩
  · obtain ⟨t, hnext, hmem, hent, honly⟩ := dirReadOwn_owns hok hflips howned hl1
    refine ⟨t, hnext, hmem, ⟨_, hent, ownEntry_st _ _ _, fun hwin => ?_⟩, honly⟩
    rw [markFilled_of_not_window hwin, ownEntry]
    cases s.dirEnt? line h <;> rfl
  · have hframe := finishFlip_frame hframes p toHost
    exact ⟨_, biasFlipComplete_finishes hfirst hwaits, by rw [hframe], by rw [hframe]⟩

end Sys2Proof.Machine
end

section
/-!
PROOF. The distributor's events: queues (R243, R244), creation (R214, R246), gating (R248, R255), dispatch and ageing (R247), and the
priority rule (R295).
-/
namespace Sys2Proof.Machine

/-! ## Queues -/

/-- R244. TAIL has moved where its line is not held any more, or where a TAIL that the device cannot hold differs from HEAD. -/
theorem tailMoved_of_written {s : State} {q : Nat} (h : ∀ k, tailKey s q = some k → if holdable k then s.dirEnt? (k / 128) (.dist q) = none else
    ∃ a b, queueWords s q = .ok (a, b) ∧ a ≠ b) : tailMoved s q = true := by
  unfold tailMoved
  cases hk : tailKey s q with
  | none => rfl
  | some k =>
    have hwritten := h k hk
    by_cases hold : holdable k = true
    · rw [if_pos hold] at hwritten
      simp [hold, hwritten]
    · rw [if_neg hold] at hwritten
      obtain ⟨a, b, hwords, hne⟩ := hwritten
      simp [hold, hwords, hne]

/-- R244. The arrival at an open queue that is not noted yet and waits for no page is noted. -/
theorem queueArrival_noted {s : State} {q : Nat} (hopen : qOpen s q = true) (hnew : s.arrived.contains q = false)
    (hpage : s.waitsOnPage (.queue q) = false) (hmoved : tailMoved s q = true) :
    exec (.queueArrival q) s = .next { s with arrived := s.arrived ++ [q] } :=
  if_neg (by rw [hopen, hnew, hpage, hmoved]; decide)

/-- R244. A queue whose turn it is has its next entry taken where it can be. -/
theorem queueEntryAccept_takes {s t : State} {q : Nat} (hturn : (s.arrived.find? fun x => qDie s x == qDie s q && queueTurn s x) = some q)
    (htakes : acceptEntry s q none = some t) : exec (.queueEntryAccept q) s = .next t := by
  refine (if_pos hturn).trans ?_
  rw [htakes]

/-- What becomes of the entry `x` of a queue whose HEAD is `h`, once it has been read (R243, R244): `none` while there is no room for it. -/
def takeEntry (t : State) (q h x : Nat) : Option State :=
  let sub := entrySubmission t q x
  if bitsOf x 164 92 ≠ 0 ∧ bitsOf x 160 4 ≠ 0 then some (bumpHead (refuseLaunch t sub 11 64 0 sub.addr) q h)
  else match bitsOf x 160 4 with
    | 0 =>
      if !poolRoom t sub.die || recordHeld t sub then none
      else match submit t { sub with odd := bitsOf x 164 92 != 0 } none with
        | .error va => some (postPage t sub.oid va (.queue q))
        | .ok (t1, _) => some (bumpHead t1 q h)
    | 1 =>
      if 16 ≤ (t.runReqs.filter fun r => r.die == sub.die).length then none
      else some (bumpHead { t with runReqs := t.runReqs ++ [entryRun t q x] } q h)
    | _ => some (bumpHead (refuseLaunch t sub 11 70 0 sub.addr) q h)

/-- R244. An entry that the queue holds, whose HEAD can be written and whose 32 bytes can be read, is taken as it reads. -/
theorem acceptEntry_of_read {s : State} {q a h : Nat} {ks : List Nat} {l : List Byte} (hopen : qOpen (holdTail s q) q = true)
    (hheld : queueHeld (holdTail s q) q = false) (hwords : queueWords (holdTail s q) q = .ok (a, h)) (hsome : (a + 2 ^ 32 - h) % 2 ^ 32 ≠ 0)
    (hfits : (a + 2 ^ 32 - h) % 2 ^ 32 ≤ 2 ^ qNlog (holdTail s q) q)
    (hhead : ownerKeys (holdTail s q) (qOid (holdTail s q) q) { rd := false, wr := true } (qCtl (holdTail s q) q + 128) 4 = .ok ks)
    (hread : ownerRead (holdTail s q) (qOid (holdTail s q) q) (qBase (holdTail s q) q + 32 * (h % 2 ^ qNlog (holdTail s q) q)) 32 = .ok l) :
    acceptEntry s q none = takeEntry (holdTail s q) q h (natLE l) := by
  unfold acceptEntry
  simp only [hopen, hheld, hwords, hhead, hread]
  refine (if_neg (by decide)).trans ((if_neg (by decide)).trans ((if_neg hsome).trans ((if_neg (Nat.not_lt.2 hfits)).trans ?_)))
  unfold takeEntry
  by_cases hodd : bitsOf (natLE l) 164 92 ≠ 0 ∧ bitsOf (natLE l) 160 4 ≠ 0
  · rw [if_pos hodd]
    exact if_pos (by simpa using hodd)
  · rw [if_neg hodd]
    exact if_neg (by simpa using hodd)

/-- R243, R244. An entry that asks for no launch and has a reserved bit set is refused. -/
theorem takeEntry_reserved {t : State} {q h x : Nat} (hbits : bitsOf x 164 92 ≠ 0) (hkind : bitsOf x 160 4 ≠ 0) :
    takeEntry t q h x = some (bumpHead (refuseLaunch t (entrySubmission t q x) 11 64 0 (entrySubmission t q x).addr) q h) :=
  if_pos ⟨hbits, hkind⟩

/-- R243, R241. An entry of KIND 0 is submitted where the pool has room; its reserved bits are the launch's to refuse. -/
theorem takeEntry_launch {t t1 : State} {q h x : Nat} {ok : Bool} (hkind : bitsOf x 160 4 = 0) (hroom : poolRoom t (entrySubmission t q x).die = true)
    (hheld : recordHeld t (entrySubmission t q x) = false)
    (hsub : submit t { entrySubmission t q x with odd := bitsOf x 164 92 != 0 } none = .ok (t1, ok)) :
    takeEntry t q h x = some (bumpHead t1 q h) := by
  unfold takeEntry
  simp only [hkind, hroom, hheld, hsub]
  exact if_neg (by simp)

/-- R243. An entry of KIND 1 becomes a request for a graph run where its die has room. -/
theorem takeEntry_run {t : State} {q h x : Nat} (hbits : bitsOf x 164 92 = 0) (hkind : bitsOf x 160 4 = 1)
    (hroom : (t.runReqs.filter fun r => r.die == (entrySubmission t q x).die).length < 16) :
    takeEntry t q h x = some (bumpHead { t with runReqs := t.runReqs ++ [entryRun t q x] } q h) := by
  unfold takeEntry
  simp only [hbits, hkind]
  exact (if_neg (by simp)).trans (if_neg (Nat.not_le.2 hroom))

/-- R244. An entry of KIND 2 to 15 is refused. -/
theorem takeEntry_unknown {t : State} {q h x : Nat} (hbits : bitsOf x 164 92 = 0) (hkind : 2 ≤ bitsOf x 160 4) :
    takeEntry t q h x = some (bumpHead (refuseLaunch t (entrySubmission t q x) 11 70 0 (entrySubmission t q x).addr) q h) := by
  refine (if_neg (by simp [hbits])).trans ?_
  split
  · omega
  · omega
  · rfl

/-! ## Creation of blocks -/

section Creation

variable {s : State} {uid : Nat} {l : Launch} (hl : s.launch? uid = some l) (halive : l.dead = false) (hleft : lNb l.record.toNat - l.next ≠ 0)
  (hroom : 256 - (s.phases.filter fun p => p.launch == uid && p.fresh && p.st != .done).length ≠ 0)
include hl halive hleft hroom

/-- R246. The next block of a launch without gangs is created while the launch has room in its 256. -/
theorem blockCreate_block (hgang : lGang l.record.toNat = false) : exec (.blockCreate uid) s = .next (createBlocks s l 1 false) := by
  simp only [exec_blockCreate, execBlockCreate, hl]
  exact (if_neg (by simp [halive, hleft, hroom])).trans (if_pos (by simp [hgang]))

/-- R214, R246. The next gang is created where a grove can admit it: of GP blocks, or of GF where none can admit GP. -/
theorem blockCreate_gang (hgang : lGang l.record.toNat = true) :
    let left := lNb l.record.toNat - l.next
    let gp := min (lGp l.record.toNat) left
    let k := if gangFits s l gp then gp else min (lGf l.record.toNat) left
    k ≤ 256 - (s.phases.filter fun p => p.launch == uid && p.fresh && p.st != .done).length → gangFits s l k = true →
      exec (.blockCreate uid) s = .next (createBlocks s l k true) := by
  intro left gp k hk hfits
  simp only [exec_blockCreate, execBlockCreate, hl]
  exact (if_neg (by simp [halive, hleft, hroom])).trans ((if_neg (by simp [hgang])).trans (if_pos (by simpa using ⟨hk, hfits⟩)))

end Creation

/-! ## Gates -/

section Gates

variable {s : State} {uid : Nat} {p : Phase} {l : Launch} (hp : s.phase? uid = some p) (hl : s.launch? p.launch = some l)
include hp hl

/-- R248. A created phase is gated, or ready. -/
theorem phaseReady_created (hst : p.st = .created) : exec (.phaseReady uid) s = .next (gatePhase s l p) := by
  simp only [exec_phaseReady, execPhaseReady, hp, hl, hst]

/-- R248. A gated phase whose gate has opened is ready. -/
theorem phaseReady_opened (hst : p.st = .gated) (hgate : gateOf s l p = .opened) :
    exec (.phaseReady uid) s = .next (readyPhase s p.uid) := by
  simp only [exec_phaseReady, execPhaseReady, hp, hl, hst, hgate]

/-- R248, R293. A gate that cannot be read is a double fault. -/
theorem phaseReady_broken {va : Nat} (hst : p.st = .gated) (hgate : gateOf s l p = .broken va) :
    exec (.phaseReady uid) s = .next (phaseDouble s l p l.die va) := by
  simp only [exec_phaseReady, execPhaseReady, hp, hl, hst, hgate]

/-- R255, R256. A phase that has not begun ends where its key holds a newer generation, gated or ready. -/
theorem phaseReady_stale {k : Nat} {g : W16} (hst : p.st = .gated ∨ p.st = .ready ∧ p.reason = 0) (hgate : gateOf s l p = .stale k g) :
    exec (.phaseReady uid) s = .next (stalePhase s l p k g) := by
  obtain hst | ⟨hst, hreason⟩ := hst
  · simp only [exec_phaseReady, execPhaseReady, hp, hl, hst, hgate]
  · simp only [exec_phaseReady, execPhaseReady, hp, hl, hst, hgate]
    exact if_pos hreason

end Gates

/-! ## Dispatch and ageing -/

/-- R247, R256, R302. A dispatch that no command holds up ends a stale phase, or handles a window that cannot be translated, or seats its
phases. -/
theorem phaseDispatch_seats {s : State} {die core : Nat} {c : Cand} {seats : List (Nat × Nat)} (hdie : die < 4) (hcore : core < 192)
    (hon : s.regBits 0x10000 2 1 ≠ 1) (hchosen : chosen s die = some c) (hseats : seating s c.l c.p die core = some seats)
    (hheld : seats.any (returnHeld s c.l) = false) : exec (.phaseDispatch die core) s =
    match seats.findSome? (staleNow s c.l), seats.find? (windowTrouble s c.l die) with
    | some s1, _ => .next s1
    | none, some x => .next (seatPhase c.l die s x)
    | none, none => .next (seats.foldl (seatPhase c.l die) s) := by
  simp only [exec_phaseDispatch, execPhaseDispatch, hchosen, hseats]
  exact (if_neg (by omega)).trans (if_neg (Bool.eq_false_iff.1 hheld))

/-- R247. At the end of a period, the phases of the die's pool age. -/
theorem ageingPeriod_ages {s : State} {die : Nat} (hdie : die < 4) (hdue : (s.aged[die]?).getD 0 < s.clkOf die / 2 ^ 16) :
    exec (.ageingPeriod die) s = .next { s with
      aged := setAt s.aged die (s.clkOf die / 2 ^ 16),
      phases := updWhere (fun p => (s.launch? p.launch).any fun l => l.die == die) (fun p => { p with age := p.ageClk / 2 ^ 16 }) s.phases } := by
  have hmine : (fun p : Phase => match s.launch? p.launch with
      | some l => l.die == die
      | none => false) = fun p => (s.launch? p.launch).any fun l => l.die == die :=
    funext fun p => by cases s.launch? p.launch <;> rfl
  rw [← hmine]
  exact if_neg (by omega)

/-! ## The priority rule -/

/-- The victim that the priority rule of a die takes for a phase that has waited long enough (R295). -/
def victimOf (s : State) (die : Nat) (p : Phase) : Option Block :=
  if p.st == .ready && p.waitedSince.any fun t => decide (t + 2 ^ 16 ≤ s.clkOf die) then
    (s.launch? p.launch).bind fun l =>
      if mayDispatch s l p die && (l.die == die || !mayDispatch s l p l.die) then victimFor s l p die else none
  else none

theorem execPriorityPreempt_eq (s : State) (die : Nat) : execPriorityPreempt die s = match s.phases.findSome? (victimOf s die) with
    | none => .next s
    | some b => .next (askPreempt s b.uid) := by
  have hvictim : victimOf s die = fun p => if (p.st == .ready && match p.waitedSince with
      | some t => decide (t + 2 ^ 16 ≤ s.clkOf die)
      | none => false) then
        match s.launch? p.launch with
        | some l => if mayDispatch s l p die && (l.die == die || !mayDispatch s l p l.die) then victimFor s l p die else none
        | none => none
      else none := by
    funext p
    unfold victimOf
    cases p.waitedSince <;> cases s.launch? p.launch <;> rfl
  rw [hvictim]
  rfl

/-- A phase that waits for no core has no victim. -/
theorem victimOf_of_not_waiting {s : State} {die : Nat} {p : Phase} (h : p.waitedSince = none) : victimOf s die p = none :=
  if_neg (by simp [h])

/-- R295. A phase that has waited for 2^16 clk takes its victim where its launch's die may dispatch it. -/
theorem victimOf_starving {s : State} {die since : Nat} {p : Phase} {l : Launch} (hready : p.st = .ready) (hsince : p.waitedSince = some since)
    (hlong : since + 2 ^ 16 ≤ s.clkOf die) (hl : s.launch? p.launch = some l) (hmay : mayDispatch s l p die = true) (hdie : l.die = die) :
    victimOf s die p = victimFor s l p die := by
  unfold victimOf
  rw [hl, if_pos (by simpa [hready, hsince] using hlong)]
  exact if_pos (by simp [hmay, hdie])

/-- R295. The victim of the first phase that has one is pre-empted. -/
theorem priorityPreempt_asks {s : State} {die : Nat} {early late : List Phase} {p : Phase} {b : Block} (hphases : s.phases = early ++ p :: late)
    (hearly : ∀ x ∈ early, victimOf s die x = none) (hvictim : victimOf s die p = some b) :
    exec (.priorityPreempt die) s = .next (askPreempt s b.uid) := by
  have hfirst : s.phases.findSome? (victimOf s die) = some b := by
    rw [hphases, List.findSome?_append, List.findSome?_eq_none_iff.2 hearly]
    simp [hvictim]
  rw [exec_priorityPreempt, execPriorityPreempt_eq, hfirst]

/-- Settles O43: each event has a lemma that says what it does where it is due, the acceptance of an entry one for each KIND. -/
theorem poolEventsComplete : Obligations.PoolEventsComplete := by
  unfold Obligations.PoolEventsComplete
  refine ⟨fun s q hopen hnew hpage hwritten => queueArrival_noted hopen hnew hpage (tailMoved_of_written hwritten), ?_,
    fun s uid l hl halive => ?_,
    fun s uid p l hp hl => ⟨phaseReady_created hp hl, phaseReady_opened hp hl, fun va => phaseReady_broken hp hl,
      fun k g => phaseReady_stale hp hl⟩,
    ?_, fun s die hdie => ageingPeriod_ages hdie, ?_⟩
  · intro s q a h ks l hturn t n hopen hheld hwords hsome hfits hhead hread x sub
    have htakes {u : State} (hu : takeEntry t q h x = some u) : exec (.queueEntryAccept q) s = .next u :=
      queueEntryAccept_takes hturn ((acceptEntry_of_read hopen hheld hwords hsome hfits hhead hread).trans hu)
    exact ⟨fun hbits hkind => htakes (takeEntry_reserved hbits hkind),
      fun t1 ok hkind hroom hrec hsub => htakes (takeEntry_launch hkind hroom hrec hsub),
      fun hbits => ⟨fun hkind hroom => htakes (takeEntry_run hbits hkind hroom), fun hkind => htakes (takeEntry_unknown hbits hkind)⟩⟩
  · intro r left room gp k hleft hroom
    exact ⟨blockCreate_block hl halive hleft hroom, blockCreate_gang hl halive hleft hroom⟩
  · intro s die core c seats hdie hcore hon hchosen hseats hheld
    rw [phaseDispatch_seats hdie hcore hon hchosen hseats hheld]
    refine ⟨fun t hstale => ?_, fun x hstale hwindow => ?_, fun hstale hwindow => ?_⟩
    · rw [hstale]
    · rw [hstale, hwindow]
    · rw [hstale, hwindow]
  · intro s die early late p l b since hphases hearly hready hsince hlong hl hmay hdie hvictim
    exact priorityPreempt_asks hphases (fun x hx => victimOf_of_not_waiting (hearly x hx))
      ((victimOf_starving hready hsince hlong hl hmay hdie).trans hvictim)

end Sys2Proof.Machine
end

section
/-!
PROOF. The control block's events: TLBI (R292), the L2 mode (R228), access tables, glades and MEMLAY (R371 to R377), the tag walker (R387),
register writes (R313), the frame table (R322 to R325) and PRECMD (R296).
-/
namespace Sys2Proof.Machine

/-! ## Bits of a written value -/

theorem bitAt_toNat {n : Nat} (v : BitVec n) (k : Nat) : bitAt v.toNat k = (v.getLsbD k).toNat := (Nat.toNat_testBit _ _).symm

theorem bitAt_of_set {n k : Nat} {v : BitVec n} (h : v.getLsbD k = true) : bitAt v.toNat k = 1 := by
  rw [bitAt_toNat, h]
  rfl

theorem bitAt_of_clear {n k : Nat} {v : BitVec n} (h : v.getLsbD k = false) : bitAt v.toNat k = 0 := by
  rw [bitAt_toNat, h]
  rfl

theorem bitAt_beq_one {n : Nat} (v : BitVec n) (k : Nat) : (bitAt v.toNat k == 1) = v.getLsbD k := by
  rw [bitAt_toNat]
  cases v.getLsbD k <;> rfl

theorem bitAt_lt_two (x k : Nat) : bitAt x k < 2 := Nat.mod_lt _ Nat.two_pos

/-! ## TLBI -/

/-- The stores that a TLBIC command waits for: of its owner and glade (R292). -/
def tlbiMine (v : Nat) (p : Pending) : Bool := p.oid == bitsOf v 0 12 && p.glade == bitsOf v 12 4

/-- A TLBIC command with GO, but for BUSY: what can be performed of the owner's stores is, and the entries that it names go (R292). -/
def tlbiRuns (s : State) (v : Nat) : State :=
  let s2 := drainPath (s.setMasked tlbicOff (bitsMask 31 25 + bitsMask 15 0) v) (tlbiMine v)
  { s2 with tlb := s2.tlb.filter fun t => !tlbiHits s2 v t, tlbiWait := s2.path.filter (tlbiMine v) }

theorem writeTlbic_go {s : State} {v : Nat} (hgo : bitAt v 23 = 1) (hidle : s.regBits tlbicOff 24 1 ≠ 1) :
    writeTlbic s v = if (tlbiRuns s v).tlbiWait.isEmpty then tlbiRuns s v else (tlbiRuns s v).setRegBits tlbicOff 24 1 1 :=
  (if_neg fun h => hidle h.2).trans (if_neg (by rw [hgo]; decide))

/-- TLBIC's BUSY reads as 1 once it is set: the register's reset value, which the sparse form leaves out, has it 0. -/
theorem tlbicBusy_set (s : State) : (s.setRegBits tlbicOff 24 1 1).regBits tlbicOff 24 1 = 1 := by
  have hlt := (s.reg tlbicOff).isLt
  have hbit : bitsOf (putBits (s.reg tlbicOff) 24 1 1).toNat 24 1 = 1 := by
    simp only [bitsOf, putBits, BitVec.toNat_ofNat]
    omega
  have hne : putBits (s.reg tlbicOff) 24 1 1 ≠ dcbDefault (tlbicOff / 8) := by
    intro h
    rw [h] at hbit
    exact absurd hbit (by decide)
  rw [State.regBits, State.setRegBits, reg_setReg_of_ne _ _ hne, hbit]

/-- What TLBIC names is by its own fields and TLBIV, so BUSY does not change it. -/
theorem tlbiHits_setBusy (s : State) (v : Nat) (e : TlbEnt) : tlbiHits (s.setRegBits tlbicOff 24 1 1) v e = tlbiHits s v e := by
  unfold tlbiHits State.regBits State.setRegBits
  rw [reg_setReg_other _ _ (by decide)]

theorem tlbiRuns_unnamed {s : State} {v : Nat} {e : TlbEnt} (he : e ∈ (tlbiRuns s v).tlb) : tlbiHits (tlbiRuns s v) v e = false := by
  have hkept := (List.mem_filter.1 he).2
  exact (Bool.not_eq_true' _).mp hkept

theorem tlbiRuns_wait (s : State) (v : Nat) : (tlbiRuns s v).tlbiWait = (tlbiRuns s v).path.filter (tlbiMine v) := rfl

/-- R292. GO with BUSY 1 is ignored. -/
theorem tlbi_ignored {s : State} {v : W32} (hgo : v.getLsbD 23 = true) (hbusy : s.regBits tlbicOff 24 1 = 1) :
    exec (.tlbi v) s = .next s :=
  (if_neg (by simp [hgo])).trans (congrArg Host.Outcome.next (if_pos ⟨bitAt_of_set hgo, hbusy⟩))

/-- R292. GO with BUSY 0 leaves no entry that the command names, and BUSY 1 while a store of its owner waits. -/
theorem tlbi_runs {s : State} {v : W32} (hgo : v.getLsbD 23 = true) (hidle : s.regBits tlbicOff 24 1 ≠ 1) :
    ∃ t, exec (.tlbi v) s = .next t ∧ (∀ e ∈ t.tlb, tlbiHits t v.toNat e = false) ∧ t.tlbiWait = t.path.filter (tlbiMine v.toNat) ∧
      (t.tlbiWait ≠ [] → t.regBits tlbicOff 24 1 = 1) := by
  have hnext : exec (.tlbi v) s = .next (writeTlbic s v.toNat) := if_neg (by simp [hgo])
  rw [writeTlbic_go (bitAt_of_set hgo) hidle] at hnext
  refine ⟨_, hnext, ?_⟩
  by_cases hdone : (tlbiRuns s v.toNat).tlbiWait.isEmpty = true
  · rw [if_pos hdone]
    exact ⟨fun e => tlbiRuns_unnamed, tlbiRuns_wait _ _, fun hwait => absurd (List.isEmpty_iff.1 hdone) hwait⟩
  · rw [if_neg hdone]
    rw [State.setRegBits_tlb, State.setRegBits_tlbiWait, State.setRegBits_path]
    exact ⟨fun e he => (tlbiHits_setBusy _ _ e).trans (tlbiRuns_unnamed he), tlbiRuns_wait _ _, fun _ => tlbicBusy_set _⟩

/-! ## The L2 mode -/

/-- The machine after a mode switch (R228): the caches are flushed, and the slices belong to the glades that their registers name. -/
def l2Switched (s : State) (mode : Nat) : State :=
  let s1 := (s.dir.filter fun d => flushed d.holder).foldl writeBackEnt s
  ({ s1 with dir := s1.dir.filter fun d => !flushed d.holder,
             slices := (List.range 64).map fun n => s.regBits (l2slgOff n) 0 5 } : State).setReg l2ctlOff (BitVec.ofNat 64 mode)

theorem l2Switched_reg {s : State} (hsorted : spSorted s.dcb = true) (mode : Nat) : (l2Switched s mode).reg l2ctlOff = BitVec.ofNat 64 mode :=
  spGet_spSet_same _ _ _ ((congrArg spSorted (writeBacks_keep State.dcb (fun _ _ => rfl) _ s)).trans hsorted)

theorem l2Switched_unflushed {s : State} {mode : Nat} {d : DirEnt} (hd : d ∈ (l2Switched s mode).dir) : flushed d.holder = false := by
  have hkept := (List.mem_filter.1 hd).2
  exact (Bool.not_eq_true' _).mp hkept

theorem l2ModeSwitch_next {s : State} {v : W32} (hgo : v.getLsbD 1 = true) :
    exec (.l2ModeSwitch v) s = .next (switchL2 s (v.getLsbD 0).toNat) := by
  rw [← bitAt_toNat]
  exact (if_neg (by simp [hgo])).trans (congrArg Host.Outcome.next (if_neg (by rw [bitAt_of_set hgo]; decide)))

/-- R228. A switch is refused while a block or a copy is there, or where a glade would be without a slice. -/
theorem l2ModeSwitch_refused {s : State} {v : W32} (hgo : v.getLsbD 1 = true)
    (hbad : s.blocks ≠ [] ∨ s.copies ≠ [] ∨ v.getLsbD 0 = true ∧ sliceMissing s = true) :
    exec (.l2ModeSwitch v) s = .next (s.setRegBits l2ctlOff 3 1 1) := by
  refine (l2ModeSwitch_next hgo).trans (congrArg Host.Outcome.next (if_pos ?_))
  obtain hblocks | hcopies | ⟨hmode, hslice⟩ := hbad
  · simp [hblocks]
  · simp [hcopies]
  · simp [hmode, hslice]

/-- R228. A switch flushes the caches, takes over the slices' glades, and sets MODE with no error. -/
theorem l2ModeSwitch_switches {s : State} {v : W32} (hgo : v.getLsbD 1 = true) (hblocks : s.blocks = []) (hcopies : s.copies = [])
    (hslice : v.getLsbD 0 = false ∨ sliceMissing s = false) :
    ∃ t, exec (.l2ModeSwitch v) s = .next t ∧ t.slices = ((List.range 64).map fun n => s.regBits (l2slgOff n) 0 5) ∧
      (∀ d ∈ t.dir, flushed d.holder = false) ∧
      (spSorted s.dcb = true → t.regBits l2ctlOff 0 1 = (v.getLsbD 0).toNat ∧ t.regBits l2ctlOff 3 1 = 0) := by
  refine ⟨l2Switched s (v.getLsbD 0).toNat, (l2ModeSwitch_next hgo).trans (congrArg Host.Outcome.next (if_neg ?_)), rfl,
    fun d => l2Switched_unflushed, fun hsorted => ?_⟩
  · obtain hmode | hslice := hslice
    · rw [hblocks, hcopies, hmode]
      simp
    · rw [hblocks, hcopies, hslice]
      simp
  · rw [State.regBits, State.regBits, l2Switched_reg hsorted]
    cases v.getLsbD 0 <;> decide

/-! ## Access tables -/

/-- R377. A window that no protected glade forbids is written. -/
theorem accessTableWrite_written {s : State} {t iid win : Nat} {v : W128} (ht : t < 10) (hiid : iid < 256) (hwin : win < 4)
    (hfree : ((gladesOn s).all fun g => !(s.gladeProtected g && forbiddenFor s g t iid v.toNat)) = true) :
    exec (.accessTableWrite t iid win v) s = .next ((s.setReg (windowOff t iid win) (BitVec.ofNat 64 v.toNat)).setReg
      (windowOff t iid win + 8) (BitVec.ofNat 64 (v.toNat / 2 ^ 64 % 2 ^ 11))) := by
  have hnone : ((gladesOn s).any fun g => s.gladeProtected g && forbiddenFor s g t iid v.toNat) = false := by
    rwa [List.any_eq_not_all_not, Bool.not_eq_false']
  exact (if_neg (by omega)).trans (congrArg Host.Outcome.next (if_neg (Bool.eq_false_iff.1 hnone)))

/-- R377. A window that a protected glade forbids is refused. -/
theorem accessTableWrite_refused {s : State} {t iid win g : Nat} {v : W128} (ht : t < 10) (hiid : iid < 256) (hwin : win < 4)
    (hg : g ∈ gladesOn s) (hprot : s.gladeProtected g = true) (hforb : forbiddenFor s g t iid v.toNat = true) :
    exec (.accessTableWrite t iid win v) s = .next (s.setRegBits 0x100408 0 1 1) :=
  (if_neg (by omega)).trans (congrArg Host.Outcome.next (if_pos (List.any_eq_true.2 ⟨g, hg, by simp [hprot, hforb]⟩)))

/-! ## Glades and MEMLAY -/

theorem bitAt_one_add_two_mul_zero (c : Nat) : bitAt (1 + 2 * c) 0 = 1 := by
  unfold bitAt
  omega

theorem bitAt_two_mul_zero (c : Nat) : bitAt (2 * c) 0 = 0 := by
  unfold bitAt
  omega

theorem bitAt_one_add_two_mul_one {c : Nat} (h : c < 2) : bitAt (1 + 2 * c) 1 = c := by
  unfold bitAt
  omega

/-- EN of a glade that is off and the CLS that it has (R373). -/
def gladeEnabling (s : State) (g : Nat) : State := s.setMasked (gldOff g) 3 (1 + 2 * bitAt (s.reg (gldOff g)).toNat 1)

/-- What speaks against a glade's being on: a glade that is, its channels, or where it is protected a window (R373). -/
def gladeBad (s : State) (g cls : Nat) : Prop := gladeClash s g = true ∨ channelsBad s g = true ∨ cls = 1 ∧ windowsBad s g = true

/-- R373. EN of a glade that is off turns it on, or is an error. -/
theorem gladeEnable_next {s : State} {g : Nat} (hg : g < 16) (hoff : s.gladeState g = 0) :
    (¬ gladeBad (gladeEnabling s g) g (bitAt (s.reg (gldOff g)).toNat 1) →
      exec (.gladeEnable g) s = .next (((gladeEnabling s g).setRegBits (gldOff g) 4 1 0).setRegBits (gldOff g) 8 4 1)) ∧
    (gladeBad (gladeEnabling s g) g (bitAt (s.reg (gldOff g)).toNat 1) →
      exec (.gladeEnable g) s = .next (s.setRegBits (gldOff g) 4 1 1)) := by
  have hen := bitAt_one_add_two_mul_zero (bitAt (s.reg (gldOff g)).toNat 1)
  have hcls := bitAt_one_add_two_mul_one (bitAt_lt_two (s.reg (gldOff g)).toNat 1)
  have hnext : exec (.gladeEnable g) s = .next (writeGlade0 s g (1 + 2 * bitAt (s.reg (gldOff g)).toNat 1)) :=
    if_neg (Nat.not_le.2 hg)
  have hbad : ((gladeClash (gladeEnabling s g) g || channelsBad (gladeEnabling s g) g ||
      (bitAt (1 + 2 * bitAt (s.reg (gldOff g)).toNat 1) 1 == 1 && windowsBad (gladeEnabling s g) g)) = true) ↔
      gladeBad (gladeEnabling s g) g (bitAt (s.reg (gldOff g)).toNat 1) := by
    rw [hcls]
    simp [gladeBad, or_assoc]
  rw [hnext]
  exact ⟨fun hgood => congrArg Host.Outcome.next ((if_pos hoff).trans ((if_neg (by simp [hen])).trans (if_neg fun h => hgood (hbad.1 h)))),
    fun hb => congrArg Host.Outcome.next ((if_pos hoff).trans ((if_neg (by simp [hen])).trans (if_pos (hbad.2 hb))))⟩

/-- R373. EN = 0 of a glade that is on turns it off, or is an error while a valid context is its. -/
theorem gladeDisable_next {s : State} {g : Nat} (hg : g < 16) (hon : s.gladeState g = 1) :
    exec (.gladeDisable g) s = .next (if (List.range 4096).any fun o => s.ctxValid o && s.ctxGlade o == g then s.setRegBits (gldOff g) 4 1 1
      else (s.setRegBits (gldOff g) 0 1 0).setRegBits (gldOff g) 8 4 0) := by
  have hen := bitAt_two_mul_zero (bitAt (s.reg (gldOff g)).toNat 1)
  exact (if_neg (Nat.not_le.2 hg)).trans (congrArg Host.Outcome.next
    ((if_neg (by rw [hon]; decide)).trans ((if_neg (by rw [hen]; decide)).trans (if_pos hon))))

/-- R372. The first write of MEMLAY counts. -/
theorem memlayWrite_first {s : State} {v : BitVec 4} (hfirst : s.memlayDone = false) :
    ∃ t, exec (.memlayWrite v) s = .next t ∧ t.memlayDone = true ∧ (v ≠ 0 → t.reg 0x100400 = v.setWidth 64) := by
  have hv : BitVec.ofNat 64 (v.toNat % 16) = v.setWidth 64 := by
    rw [Nat.mod_eq_of_lt v.isLt, BitVec.ofNat_toNat]
  refine ⟨_, congrArg Host.Outcome.next (if_neg (Bool.eq_false_iff.1 hfirst)), rfl, fun hne => ?_⟩
  rw [hv]
  refine reg_setReg_of_ne s _ fun h => hne ?_
  have hzero : dcbDefault (0x100400 / 8) = 0 := by decide
  rw [hzero] at h
  bv_omega

/-! ## The tag walker -/

/-- R387. GO sweeps the lines of a glade, or of one of its owners. -/
theorem tagWalkSweep_sweeps {s : State} {die : Nat} {v : W32} (hdie : die < 4) (hgo : v.getLsbD 20 = true) :
    exec (.tagWalkSweep die v) s = .next
      (sweepDie (s.setMasked (twcmdOff die) (bitsMask 19 18 + bitsMask 15 0) v.toNat) die (v.getLsbD 19)
        fun t => t.2 == bitsOf v.toNat 12 4 && (v.getLsbD 18 || t.1 == bitsOf v.toNat 0 12)) := by
  rw [← bitAt_beq_one v 18, ← bitAt_beq_one v 19]
  exact (if_neg (by simp [hgo, hdie])).trans (congrArg Host.Outcome.next (if_neg (by rw [bitAt_of_set hgo]; decide)))

/-! ## Register writes -/

/-- R313. A register is written at a port that exists. -/
theorem registerWrite_next {s : State} {port : RegPort} (v : W64) (hthere : portThere s port = true) :
    exec (.registerWrite port v) s = .next (portWrite s v.toNat port) := if_pos hthere

/-- R376, R386. A host's write to a function that is shut, or where its BAR0 shows no register, changes nothing. -/
theorem hostWrite_nowhere {s : State} {fn off : Nat} (put : State → Nat → State) (h : functionShut s fn = true ∨ barOffset fn off = none) :
    hostWrite s fn off put = s := by
  unfold hostWrite
  split
  · rfl
  · rename_i hshut
    rw [h.resolve_left hshut]

/-- R376. A host's write to a register that its function shows is made where table 4 allows it, and leaves a record elsewhere. -/
theorem hostWrite_shown {s : State} {fn off o : Nat} (put : State → Nat → State) (hopen : functionShut s fn = false)
    (hbar : barOffset fn off = some o) :
    hostWrite s fn off put = if tableAllows s 4 (0x10 + fn) o false true then put s o else hostDenied s := by
  unfold hostWrite
  rw [if_neg (Bool.eq_false_iff.1 hopen), hbar]

section Ports

variable {s : State} {off : Nat} (v : W64) (h8 : off % 8 = 0)
include h8

theorem registerWrite_core (hoff : off < 2 ^ 24) : exec (.registerWrite (.core off) v) s = .next (writeRegister s off v.toNat) :=
  registerWrite_next v (by simpa [portThere, h8] using hoff)

theorem registerWrite_host {fn : Nat} (hfn : fn < 17) (hoff : off < (if fn = 0 then 2 ^ 24 else 2 ^ 16)) :
    exec (.registerWrite (.host fn off) v) s =
      .next (hostWrite s fn off fun s o => if requestHeld s o then s else writeRegister s o v.toNat) :=
  registerWrite_next v (by simpa [portThere, h8, hfn] using hoff)

theorem registerWrite_config {fn : Nat} (hfn : fn < 17) (hoff : off < 2 ^ 12) :
    exec (.registerWrite (.config fn off) v) s = .next (if off = powerReg then setPower s fn v.toNat else s) :=
  registerWrite_next v (by simpa [portThere, h8, hfn] using hoff)

/-- R314, R375. A service pair writes where its windows allow it; what a fenced one writes is dropped. -/
theorem registerWrite_pair {d : Nat} (hruns : pairRuns s d = true) (hoff : off < 2 ^ 24) :
    exec (.registerWrite (.pair d off) v) s =
      .next (if fenced s d || !tableAllows s 4 (0x30 + d) off false true then s else writeRegister s off v.toNat) :=
  registerWrite_next v (by simpa [portThere, h8, hruns] using hoff)

end Ports

/-! ## The frame table -/

section FrameCommands

variable {s : State} {v : W64} {op : Nat} (hidle : s.regBits ftcmdOff 1 1 ≠ 1) (hgo : v.getLsbD 0 = true) (hop : ftOp v.toNat = op)
include hidle hgo hop

/-- R314, R322. A command of the event's kind, with GO, runs at once but during a takeover. -/
theorem ftEvent_next : ftEvent v op s = .next (if s.takingOver.isSome then
      (s.setMasked ftcmdOff (bitsMask 52 16) v.toNat).setRegBits ftcmdOff 1 1 1
    else runFtcmd (s.setMasked ftcmdOff (bitsMask 52 16) v.toNat) v.toNat) :=
  (if_neg (by simp [hgo, hop])).trans (congrArg Host.Outcome.next ((if_neg hidle).trans (if_neg (by rw [bitAt_of_set hgo]; decide))))

theorem ftEvent_runs (hlead : s.takingOver = none) :
    ftEvent v op s = .next (runFtcmd (s.setMasked ftcmdOff (bitsMask 52 16) v.toNat) v.toNat) :=
  (ftEvent_next hidle hgo hop).trans (congrArg Host.Outcome.next (if_neg (by simp [hlead])))

theorem ftEvent_waits (hlead : s.takingOver ≠ none) :
    ftEvent v op s = .next ((s.setMasked ftcmdOff (bitsMask 52 16) v.toNat).setRegBits ftcmdOff 1 1 1) :=
  (ftEvent_next hidle hgo hop).trans (congrArg Host.Outcome.next (if_pos (Option.isSome_iff_ne_none.2 hlead)))

end FrameCommands

section Runs

variable {v : Nat} (s : State)

theorem runFtcmd_assign (hop : ftOp v = 0) : runFtcmd s v =
    (ftAssign s (ftPage v) (ftOid v) (ftLin v)).2.setRegBits ftcmdOff 8 4 (ftAssign s (ftPage v) (ftOid v) (ftLin v)).1 := by
  simp only [runFtcmd, hop]

theorem runFtcmd_release (hop : ftOp v = 1) :
    runFtcmd s v = (ftRelease s (ftPage v)).2.setRegBits ftcmdOff 8 4 (ftRelease s (ftPage v)).1 := by
  simp only [runFtcmd, hop]

theorem runFtcmd_toHost (hop : ftOp v = 2) : runFtcmd s v = ftFlip s (ftPage v) true := by
  simp only [runFtcmd, hop]

theorem runFtcmd_toDevice (hop : ftOp v = 3) : runFtcmd s v = ftFlip s (ftPage v) false := by
  simp only [runFtcmd, hop]

end Runs

/-- A frame whose flip is pending is not as it was at reset, so it is read back. -/
theorem frame_setFrame_pend (s : State) (p : Nat) (f : Frame) : ((s.setFrame p { f with pend := true }).frame p).pend = true := by
  have hne : ({ f with pend := true } : Frame) ≠ Frame.default p := fun h => absurd (congrArg Frame.pend h) (by simp [Frame.default])
  exact congrArg Frame.pend (spGet_spSet_same_of_ne _ _ _ hne)

/-- R325. The flip of an assigned frame that is in the other bias, with none pending, starts. -/
theorem ftFlip_starts {s : State} {p : Nat} {toHost : Bool} (hv : (s.frame p).v = true) (hpend : (s.frame p).pend = false)
    (hbias : (s.frame p).hb = !toHost) :
    (ftFlip s p toHost).flips = s.flips ++ [(p, toHost, s.uids)] ∧ ((ftFlip s p toHost).frame p).pend = true := by
  unfold ftFlip
  dsimp only
  rw [if_pos (by simp [hv, hpend, hbias])]
  exact ⟨rfl, frame_setFrame_pend s.fresh.2 p (s.frame p)⟩

/-! ## PRECMD -/

/-- The blocks that a PRECMD which selects by owner or by glade names (R296). -/
def precmdNames (v : Nat) (b : Block) : Bool :=
  bitAt (bitsOf v 52 4) b.die == 1 && (if bitsOf v 34 2 = 0 then b.oid == bitsOf v 40 12 else b.glade == bitsOf v 36 4)

/-- R296. Without GO a write of PRECMD changes no block. -/
theorem writePrecmd_blocks {s : State} {v : W64} (hgo : v.getLsbD 0 = false) : (writePrecmd s v).blocks = s.blocks := by
  unfold writePrecmd
  dsimp only
  rw [if_pos (.inl (bitAt_of_clear hgo)), State.setReg_blocks]

/-- R296, R386. GO by owner or by glade pre-empts the blocks that it names, but for those of a glade in reset and those without a save
area. -/
theorem writePrecmd_preempting {s : State} {v : W64} (hgo : v.getLsbD 0 = true) (hidle : bitAt (s.reg precmdOff).toNat 1 = 0)
    (hsel : bitsOf v.toNat 34 2 < 2) (hdies : bitsOf v.toNat 52 4 ≠ 0) :
    (writePrecmd s v).preempting =
      ((s.blocks.filter (precmdNames v.toNat)).filter fun b => s.rstep b.glade == 0 && canSave s b.oid).map fun b => b.uid := by
  have hgo1 := bitAt_of_set hgo
  unfold writePrecmd
  dsimp only
  rw [if_neg (by omega), if_neg (by omega)]
  refine congrArg (List.map fun b : Block => b.uid) ?_
  rw [List.filter_filter, List.filter_filter]
  refine List.filter_congr fun b _ => ?_
  unfold precmdNames
  obtain howner | hglade : bitsOf v.toNat 34 2 = 0 ∨ bitsOf v.toNat 34 2 = 1 := by omega
  · simp only [howner, if_true]
    ac_rfl
  · simp only [hglade, Nat.one_ne_zero, if_false]
    ac_rfl

/-- Settles O45: each register's event has a lemma that says what its write does, and where it is refused or waits. -/
theorem registerEventsComplete : Obligations.RegisterEventsComplete := by
  unfold Obligations.RegisterEventsComplete
  refine ⟨fun s v hgo => ⟨tlbi_ignored hgo, tlbi_runs hgo⟩, fun s v hgo => ⟨l2ModeSwitch_refused hgo, l2ModeSwitch_switches hgo⟩,
    fun s t iid win v ht hiid hwin => ⟨accessTableWrite_written ht hiid hwin, fun g => accessTableWrite_refused ht hiid hwin⟩, ?_,
    fun s v => ⟨fun hdone => congrArg Host.Outcome.next (if_pos hdone), memlayWrite_first⟩, fun s die v => tagWalkSweep_sweeps, ?_, ?_, ?_,
    fun s v => ⟨fun hgo => ⟨_, rfl, writePrecmd_blocks hgo⟩,
      fun hgo hidle hsel hdies => ⟨_, rfl, writePrecmd_preempting hgo hidle hsel hdies⟩⟩⟩
  · intro s g hg cls on
    refine ⟨fun hoff hclash hchan hwin => (gladeEnable_next hg hoff).1 ?_, fun hoff => (gladeEnable_next hg hoff).2,
      fun hon hfree => (gladeDisable_next hg hon).trans (congrArg Host.Outcome.next (if_neg (Bool.eq_false_iff.1 hfree))),
      fun hon hheld => (gladeDisable_next hg hon).trans (congrArg Host.Outcome.next (if_pos hheld))⟩
    rintro (hbad | hbad | ⟨hcls, hbad⟩)
    · exact Bool.eq_false_iff.1 hclash hbad
    · exact Bool.eq_false_iff.1 hchan hbad
    · exact Bool.eq_false_iff.1 (hwin hcls) hbad
  · intro s off v h8
    refine ⟨registerWrite_core v h8, fun fn hfn hoff => ?_, fun fn => registerWrite_config v h8, fun d hruns hoff => ?_⟩
    · rw [registerWrite_host v h8 hfn hoff]
      refine ⟨fun hnowhere => congrArg Host.Outcome.next (hostWrite_nowhere _ hnowhere), fun o hopen hbar => ?_⟩
      rw [hostWrite_shown _ hopen hbar]
      exact ⟨fun hallow => congrArg Host.Outcome.next (if_pos hallow),
        fun hdeny => congrArg Host.Outcome.next (if_neg (Bool.eq_false_iff.1 hdeny))⟩
    · rw [registerWrite_pair v h8 hruns hoff]
      exact ⟨fun hdrop => congrArg Host.Outcome.next (if_pos (by simpa using hdrop)),
        fun hfenced hallow => congrArg Host.Outcome.next (if_neg (by simp [hfenced, hallow]))⟩
  · intro s v hidle hgo hlead s1 p
    have hruns {op : Nat} {u : State} (hop : ftOp v.toNat = op) (hrun : runFtcmd s1 v.toNat = u) : ftEvent v op s = .next u :=
      (ftEvent_runs hidle hgo hop hlead).trans (congrArg Host.Outcome.next hrun)
    exact ⟨fun hop => hruns hop (runFtcmd_assign s1 hop), fun hop => hruns hop (runFtcmd_release s1 hop),
      fun hop hv hpend hbias => ⟨_, hruns hop (runFtcmd_toHost s1 hop), ftFlip_starts hv hpend hbias⟩,
      fun hop hv hpend hbias => ⟨_, hruns hop (runFtcmd_toDevice s1 hop), ftFlip_starts hv hpend hbias⟩⟩
  · intro s v hidle hgo hlead t
    exact ⟨fun hop => ftEvent_waits hidle hgo hop hlead, fun hop => ftEvent_waits hidle hgo hop hlead,
      fun hop => ftEvent_waits hidle hgo hop hlead, fun hop => ftEvent_waits hidle hgo hop hlead⟩

end Sys2Proof.Machine
end

section
/-!
PROOF. Quotas (R251, R252), kills (R267, R303), the completion of launches (R245, R413), and graph runs (R263 to R266).
-/
namespace Sys2Proof.Machine

/-! ## Quotas -/

theorem quotaKey_die {oid : Nat} (die : Nat) (hoid : oid < 4096) : quotaKey die oid / 4096 = die := by
  unfold quotaKey; omega

theorem quotaKey_owner {oid : Nat} (die : Nat) (hoid : oid < 4096) : quotaKey die oid % 4096 = oid := by
  unfold quotaKey; omega

/-- The USED listed at a key once a period of a die has started: what the budget covers of it is forgiven (R251). -/
def forgiven (s : State) (die k used : Nat) : Nat := if k / 4096 = die then used - budgetOf s die (k % 4096) else used

/-- One listed USED as the start of a die's period settles it. -/
def payPeriod (s : State) (die : Nat) (m : Sparse Nat) (x : Nat × Nat) : Sparse Nat :=
  if x.1 / 4096 = die then spSet 0 x.1 (x.2 - budgetOf s die (x.1 % 4096)) m else m

section Periods

variable (s : State) (die : Nat)

theorem spSorted_payPeriod (x : Nat × Nat) {m : Sparse Nat} (hm : spSorted m = true) : spSorted (payPeriod s die m x) = true := by
  unfold payPeriod
  split
  · exact spSorted_spSet 0 x.1 _ hm
  · exact hm

theorem spGet_payPeriod_other {x : Nat × Nat} {k : Nat} (m : Sparse Nat) (h : k ≠ x.1) : spGet 0 (payPeriod s die m x) k = spGet 0 m k := by
  unfold payPeriod
  split
  · exact spGet_spSet_other 0 _ m h
  · rfl

theorem spGet_payPeriod_same {x : Nat × Nat} {m : Sparse Nat} (hm : spSorted m = true) (hx : spGet 0 m x.1 = x.2) :
    spGet 0 (payPeriod s die m x) x.1 = forgiven s die x.1 x.2 := by
  unfold payPeriod forgiven
  split
  · exact spGet_spSet_same 0 x.1 _ hm
  · exact hx

theorem spGet_payPeriods_unlisted {k : Nat} {l : Sparse Nat} (hl : AboveKey k l) (m : Sparse Nat) :
    spGet 0 (l.foldl (payPeriod s die) m) k = spGet 0 m k := by
  induction l generalizing m with
  | nil => rfl
  | cons x l ih =>
    obtain ⟨hx, hl⟩ := List.forall_mem_cons.1 hl
    exact (ih hl _).trans (spGet_payPeriod_other s die m (Nat.ne_of_lt hx))

/-- Where each key of `l` is settled in turn, a key that `m` holds as `l` does is settled once. -/
theorem spGet_payPeriods {k : Nat} {l : Sparse Nat} (hl : spSorted l = true) {m : Sparse Nat} (hm : spSorted m = true)
    (hk : spGet 0 m k = spGet 0 l k) : spGet 0 (l.foldl (payPeriod s die) m) k = forgiven s die k (spGet 0 l k) := by
  induction l generalizing m with
  | nil => simpa [spGet, forgiven] using hk
  | cons x l ih =>
    obtain ⟨j, used⟩ := x
    obtain ⟨habove, hl⟩ := spSorted_cons.1 hl
    by_cases hkj : k = j
    · subst hkj
      have hlisted : spGet 0 ((k, used) :: l) k = used := if_pos rfl
      rw [hlisted] at hk ⊢
      exact (spGet_payPeriods_unlisted s die habove _).trans (spGet_payPeriod_same s die hm hk)
    · have hlater : spGet 0 ((j, used) :: l) k = spGet 0 l k := if_neg hkj
      rw [hlater] at hk ⊢
      exact ih hl (spSorted_payPeriod s die _ hm) ((spGet_payPeriod_other s die m hkj).trans hk)

end Periods

/-- The machine once a period of a die has started. -/
def periodStarted (s : State) (die : Nat) : State :=
  { s with quotaAt := setAt s.quotaAt die ((s.quotaAt[die]?).getD 0 + (s.reg (0xA8000 + 8 * die)).toNat),
           used := s.used.foldl (payPeriod s die) s.used }

/-- R251. A period of a die starts once the period before it is over. -/
theorem quotaPeriodStart_starts {s : State} {die : Nat} (hdie : die < 4) (hperiod : (s.reg (0xA8000 + 8 * die)).toNat ≠ 0)
    (hdue : (s.quotaAt[die]?).getD 0 + (s.reg (0xA8000 + 8 * die)).toNat ≤ s.clkOf die) :
    exec (.quotaPeriodStart die) s = .next (periodStarted s die) :=
  if_neg (by omega)

/-- R251. What its budget covers is forgiven to each owner on the die, and to no owner on another. -/
theorem usedOf_periodStarted {s : State} (hused : spSorted s.used = true) (die d : Nat) {oid : Nat} (hoid : oid < 4096) :
    usedOf (periodStarted s die) d oid = if d = die then usedOf s d oid - budgetOf s d oid else usedOf s d oid := by
  refine (spGet_payPeriods s die hused hused rfl).trans ?_
  unfold forgiven
  rw [quotaKey_die d hoid, quotaKey_owner d hoid]
  by_cases hd : d = die
  · subst hd; rfl
  · rw [if_neg hd, if_neg hd]; rfl

/-- R252. At its mark a limited owner has its resident blocks on the die pre-empted, with one record, once for each time that it reaches
the mark. -/
theorem quotaOverrun_preempts {s : State} {die oid : Nat} (hdie : die < 4) (hoid : oid < 4096) (hlimited : budgetOf s die oid ≠ 0xFFFFFFFF)
    (hover : budgetOf s die oid + 256 * s.regBits (quotaOff die oid) 32 24 ≤ usedOf s die oid)
    (hnew : s.overrun.contains (quotaKey die oid) = false) :
    exec (.quotaOverrun die oid) s = .next (raiseRecord
      ((s.blocks.filter fun x => x.oid == oid && x.die == die).foldl (fun s x => askPreempt s x.uid)
        { s with overrun := quotaKey die oid :: s.overrun })
      (Record.plain 13 oid (s.ctxGlade oid) die 0 0 0 0)) := by
  have hmark : overBudget s die oid = true := by simp [overBudget, hlimited, hover]
  exact if_neg (by rw [hmark, hnew]; simp [Nat.not_le.2 hdie, Nat.not_le.2 hoid])

/-! ## Kills -/

/-- R303. The kill of an owner that has a context, a block or a launch ends its context. -/
theorem kill_owner {s : State} {oid : Nat} (h : s.ctxValid oid = true ∨ (∃ b ∈ s.blocks, b.oid = oid) ∨ ∃ l ∈ s.launches, l.oid = oid) :
    exec (.kill (.owner oid)) s = .next (endContext s oid) := by
  refine if_pos ?_
  simp only [Bool.or_eq_true, List.any_eq_true, beq_iff_eq]
  exact or_comm.1 h

/-- R267. The kill of a resident block ends it. -/
theorem kill_block {s : State} {uid : Nat} {b : Block} (hb : s.block? uid = some b) :
    exec (.kill (.block uid)) s = .next (endBlock s uid true) := by
  simp only [exec_kill, execKill, hb]

/-- R267, R294. The kill of a phase that is on no core removes it; a record that cannot be written is a double fault. -/
theorem kill_phase {s : State} {uid : Nat} {p : Phase} {l : Launch} (hb : s.block? uid = none) (hp : s.phase? uid = some p)
    (hst : p.st ≠ .done) (hl : s.launch? p.launch = some l) : exec (.kill (.block uid)) s =
      .next (if (removePhase s p).2 then (removePhase s p).1 else phaseDouble (removePhase s p).1 l p l.die (stateAt s uid)) := by
  simp only [exec_kill, execKill, hb, hp, hl, if_neg hst]

/-! ## Launches -/

/-- R245, R246. A launch whose blocks are done, with no store left in a store path, completes; the runs of its die go on. -/
theorem launchComplete_completes {s : State} {uid : Nat} {l : Launch} (hl : s.launch? uid = some l) (hovr : l.ovr = true)
    (hpage : s.waitsOnPage (.launch uid) = false) (hstores : storesLeft s uid = false) :
    exec (.launchComplete uid) s = .next (runsGo (completeLaunch s l none) l.die) := by
  simp only [exec_launchComplete, execLaunchComplete, hl]
  exact if_pos (by rw [hovr, hpage, hstores]; rfl)

/-! ## Graph runs -/

section Starts

variable {s : State} {die : Nat} {q : RunReq}
  (hfirst : (s.runReqs.find? fun q => q.die == die && canTake s q && firstOfGraph s q) = some q)
include hfirst

/-- R263, R294. A graph table that cannot be read is a double fault. -/
theorem graphRunStart_unreadable (hheader : runHeader s q = none) : exec (.graphRunStart die) s = .next
    (doubleFault { s with runReqs := s.runReqs.erase q } q.oid q.die (pinBad s q.oid false [(q.table, 64)])) := by
  simp only [exec_graphRunStart, execGraphRunStart, hfirst, hheader]

variable {h : Nat} (hheader : runHeader s q = some h)
include hheader

/-- R265. A request whose header fails the checks is refused, with a record. -/
theorem graphRunStart_refused (hbad : tableBad h = true) :
    exec (.graphRunStart die) s = .next (runGo none (runRecord (withRun s q h) q 11 72 q.table) s.uids) := by
  simp only [exec_graphRunStart, execGraphRunStart, hfirst, hheader]
  exact if_pos hbad

variable (hgood : tableBad h = false)
include hgood

/-- R264. A request becomes a run: the header is written back, busy and with the next generation, and the run goes on. -/
theorem graphRunStart_runs {t : State} (hwrite : pinWrite (withRun s q h) q.oid (q.table + 24) (bytesLE 3 (nextGen h + 2 ^ 16)) = some t) :
    exec (.graphRunStart die) s = .next (runGo none t s.uids) := by
  simp only [exec_graphRunStart, execGraphRunStart, hfirst, hheader, hwrite]
  exact if_neg (Bool.eq_false_iff.1 hgood)

/-- R264, R294. A header that cannot be written back is a double fault. -/
theorem graphRunStart_unwritable (hwrite : pinWrite (withRun s q h) q.oid (q.table + 24) (bytesLE 3 (nextGen h + 2 ^ 16)) = none) :
    exec (.graphRunStart die) s = .next
      (doubleFault (withRun s q h) q.oid q.die (pinBad (withRun s q h) q.oid true [(q.table + 24, 3)])) := by
  simp only [exec_graphRunStart, execGraphRunStart, hfirst, hheader, hwrite]
  exact if_neg (Bool.eq_false_iff.1 hgood)

end Starts

/-- R264, R266. The end of a launched node begins the walk of its successors. -/
theorem nodeComplete_walks {s : State} {run node : Nat} {r : Run} (hr : s.run? run = some r) (hlaunched : r.launched.contains node = true)
    (hnew : r.complete.contains node = false) (hwalk : r.walk = none) (hpage : s.waitsOnPage (.run run) = false)
    (hdone : (s.launches.any fun l => l.node == some (run, node)) = false) : exec (.nodeComplete run node) s =
      .next (runGo none (s.mapRun run fun r => { r with complete := r.complete ++ [node], walk := some (node, 0) }) run) := by
  simp only [exec_nodeComplete, execNodeComplete, hr]
  exact if_pos (by rw [hlaunched, hnew, hwalk, hpage, hdone]; rfl)

/-- Settles O44: each event has a lemma that says what it does where it is due. The start of a period settles each USED once, as the keys
of USED rise. -/
theorem quotaAndGraphEventsComplete : Obligations.QuotaAndGraphEventsComplete := by
  unfold Obligations.QuotaAndGraphEventsComplete
  refine ⟨?_, fun s die oid => quotaOverrun_preempts, fun s oid => kill_owner, fun s uid b => kill_block,
    fun s uid p l => kill_phase, fun s uid l => launchComplete_completes, ?_, fun s run node r => nodeComplete_walks⟩
  · intro s die hdie q from0 hperiod hdue hused
    exact ⟨_, quotaPeriodStart_starts hdie hperiod hdue, rfl, rfl, fun d oid => usedOf_periodStarted hused die d⟩
  · intro s die q hfirst
    exact ⟨graphRunStart_unreadable hfirst, fun h hheader => ⟨graphRunStart_refused hfirst hheader,
      fun t hgood => graphRunStart_runs hfirst hheader hgood, graphRunStart_unwritable hfirst hheader⟩⟩

end Sys2Proof.Machine
end

section
/-!
PROOF. The reset values of the control block (R250, R324, R332, R373, R376).
-/
namespace Sys2Proof.Machine

/-! ## Registers at reset -/

theorem reset_reg (off : Nat) : State.reset.reg off = dcbDefault (off / 8) := rfl

/-- R250. Every budget is unlimited. -/
theorem dcbDefault_budget {k : Nat} (hlo : 0x10000 ≤ k) (hhi : k < 0x14000) : dcbDefault k = BitVec.ofNat 64 0xFFFFFFFF :=
  (if_neg (by omega)).trans (if_pos ⟨hlo, hhi⟩)

/-- R250. Every period is 1,200,000 clk. -/
theorem dcbDefault_period {k : Nat} (hlo : 0x15000 ≤ k) (hhi : k < 0x15004) : dcbDefault k = BitVec.ofNat 64 1200000 :=
  (if_neg (by omega)).trans ((if_neg (by omega)).trans (if_pos ⟨hlo, hhi⟩))

/-- A register that no other default names is 0 at reset. -/
theorem dcbDefault_zero {k : Nat} (hdev : k ≠ 0) (hbudget : ¬ (0x10000 ≤ k ∧ k < 0x14000)) (hperiod : ¬ (0x15000 ≤ k ∧ k < 0x15004))
    (hgrant : ¬ (0x18000 ≤ k ∧ k < 0x18800 ∧ (k % 0x200 = 12 ∨ k % 0x200 = 13))) (htable : ¬ (0x22000 ≤ k ∧ k < 0x22000 + 0x800 * 10)) :
    dcbDefault k = 0 :=
  (if_neg hdev).trans ((if_neg hbudget).trans ((if_neg hperiod).trans ((if_neg hgrant).trans (if_neg htable))))

/-- R324. No frame limit, and no frame used. -/
theorem reset_frameLimit {oid : Nat} (hoid : oid < 4096) : State.reset.reg (mqOff oid) = 0 := by
  unfold mqOff
  exact dcbDefault_zero (by omega) (by omega) (by omega) (by omega) (by omega)

/-- R332. A display is off. -/
theorem reset_display {d : Nat} (hd : d < 4) : State.reset.reg (dispOff d) = 0 := by
  unfold dispOff
  exact dcbDefault_zero (by omega) (by omega) (by omega) (by omega) (by omega)

/-- R373. A glade is off. -/
theorem reset_glade {g : Nat} (hg : g < 16) : State.reset.reg (gldOff g) = 0 := by
  unfold gldOff
  exact dcbDefault_zero (by omega) (by omega) (by omega) (by omega) (by omega)

/-! ## The access tables at reset -/

/-- A window whose fields read as `x` allows the address (R376). -/
def windowAllows (x a : Nat) (rd wr : Bool) : Bool :=
  bitAt x 74 == 1 && decide (bitsOf x 0 36 ≤ a / 2 ^ 16) && decide (a / 2 ^ 16 ≤ bitsOf x 36 36) &&
    (!rd || bitAt x 72 == 1) && (!wr || bitAt x 73 == 1)

theorem tableAllows_eq (s : State) (t iid a : Nat) (rd wr : Bool) :
    tableAllows s t iid a rd wr = (List.range 4).any fun w => windowAllows (windowAt s t iid w) a rd wr := rfl

/-- A word of an access table, by its place in the table: at reset the first window of each service pair is open (R376). -/
theorem dcbDefault_table {t r : Nat} (ht : t < 10) (hr : r < 0x800) : dcbDefault (0x22000 + 0x800 * t + r) =
    if 0x180 ≤ r ∧ r < 0x1A0 then (if r % 8 = 0 then 0xFFFFFFF000000000#64 else if r % 8 = 1 then 0x7FF#64 else 0) else 0 := by
  have hplace : (0x22000 + 0x800 * t + r - 0x22000) % 0x800 = r := by omega
  unfold dcbDefault
  rw [if_neg (by omega), if_neg (by omega), if_neg (by omega), if_neg (by omega), if_pos (by omega)]
  simp only [hplace]

/-- A window open at every address, as a service pair's first one is at reset. -/
def openWindow : Nat := 0xFFFFFFF000000000 + 2 ^ 64 * 0x7FF

theorem windowAllows_open {a : Nat} (ha : a < 2 ^ 52) : windowAllows openWindow a true true = true := by
  have hfirst : bitsOf openWindow 0 36 = 0 := rfl
  have hlast : bitsOf openWindow 36 36 = 2 ^ 36 - 1 := rfl
  unfold windowAllows
  rw [hfirst, hlast, decide_eq_true (Nat.zero_le _), decide_eq_true (show a / 2 ^ 16 ≤ 2 ^ 36 - 1 by omega)]
  rfl

theorem windowAllows_zero (a : Nat) (rd wr : Bool) : windowAllows 0 a rd wr = false := by
  simp [windowAllows, bitAt]

theorem windowOff_div {t iid w : Nat} : windowOff t iid w / 8 = 0x22000 + 0x800 * t + (8 * iid + 2 * w) ∧
    (windowOff t iid w + 8) / 8 = 0x22000 + 0x800 * t + (8 * iid + 2 * w + 1) := by
  unfold windowOff; omega

theorem isService_iff {iid : Nat} : isService iid = true ↔ 0x30 ≤ iid ∧ iid < 0x34 := by
  simp [isService]

section Windows

variable {t iid : Nat} (ht : t < 10) (hiid : iid < 256)
include ht hiid

/-- R376. A service pair's first window spans every address and allows reads and writes. -/
theorem reset_windowAt_service (hserv : isService iid = true) : windowAt State.reset t iid 0 = openWindow := by
  have hpair := isService_iff.1 hserv
  obtain ⟨hlo, hhi⟩ := windowOff_div (t := t) (iid := iid) (w := 0)
  unfold windowAt
  rw [reset_reg, reset_reg, hlo, hhi, dcbDefault_table ht (by omega), dcbDefault_table ht (by omega), if_pos (by omega), if_pos (by omega),
    if_pos (by omega), if_neg (by omega), if_pos (by omega)]
  rfl

/-- R376. Every other window is 0. -/
theorem reset_windowAt_shut {w : Nat} (hw : w < 4) (hshut : isService iid = false ∨ w ≠ 0) : windowAt State.reset t iid w = 0 := by
  have hpair : ¬ (0x30 ≤ iid ∧ iid < 0x34) ∨ w ≠ 0 := hshut.imp_left fun h hp => Bool.eq_false_iff.1 h (isService_iff.2 hp)
  obtain ⟨hlo, hhi⟩ := windowOff_div (t := t) (iid := iid) (w := w)
  have hzero {r : Nat} (hr : r < 0x800) (hshut : ¬ (0x180 ≤ r ∧ r < 0x1A0) ∨ r % 8 ≠ 0 ∧ r % 8 ≠ 1) :
      dcbDefault (0x22000 + 0x800 * t + r) = 0 := by
    rw [dcbDefault_table ht hr]
    obtain hout | ⟨h0, h1⟩ := hshut
    · exact if_neg hout
    · rw [if_neg h0, if_neg h1, ite_self]
  unfold windowAt
  rw [reset_reg, reset_reg, hlo, hhi, hzero (by omega) (by omega), hzero (by omega) (by omega)]
  rfl

/-- R376. The tables allow the service pairs every address, and the others none. -/
theorem reset_tableAllows {a : Nat} (ha : a < 2 ^ 52) : tableAllows State.reset t iid a true true = isService iid := by
  rw [tableAllows_eq]
  cases hserv : isService iid with
  | true =>
    refine List.any_eq_true.2 ⟨0, by decide, ?_⟩
    rw [reset_windowAt_service ht hiid hserv]
    exact windowAllows_open ha
  | false =>
    refine List.any_eq_false.2 fun w hw => ?_
    rw [reset_windowAt_shut ht hiid (List.mem_range.1 hw) (.inl hserv)]
    simp [windowAllows_zero]

end Windows

/-- Settles O49: each register of the control block has its default at reset, as nothing has been written to it. -/
theorem resetValues : Obligations.ResetValues := by
  unfold Obligations.ResetValues
  refine ⟨fun die oid hdie hoid => ?_, fun die hdie => ?_, fun oid hoid => ?_, fun d hd => ?_, fun g hg => ?_,
    fun t iid a ht hiid ha => reset_tableAllows ht hiid ha, rfl, rfl, rfl, reset_fatal, reset_canonical⟩
  · rw [reset_reg, dcbDefault_budget (by unfold quotaOff; omega) (by unfold quotaOff; omega)]
    rfl
  · rw [reset_reg, dcbDefault_period (by omega) (by omega)]
    rfl
  · unfold mqLim mqUsed State.regBits
    rw [reset_frameLimit hoid]
    exact ⟨rfl, rfl⟩
  · unfold dispOn State.regBits
    rw [reset_display hd]
    rfl
  · exact congrArg (fun x : W64 => bitsOf x.toNat 8 4) (reset_glade hg)

end Sys2Proof.Machine
end

section
/-!
PROOF. Traps and service calls (R276 to R282).
-/
namespace Sys2Proof.Machine

/-! ## The handler -/

/-- R277. With a free frame that no access holds and that takes its bytes, the lanes enter the handler. -/
theorem enterTrap_taken {s t : State} {c : Ctx} {kind k i : Nat} {p : W32} {ret : Nat} {rest : List Entry} {at0 : Nat}
    (hfree : freeFrame? s c.b.oid = some i) (hheld : frameHeld s c.b.oid i true = false)
    (hwrite : pinWrite s c.b.oid (s.tstack c.b.oid + 64 * i) (frameBytes c kind k p ret) = some t) :
    enterTrap s c kind k p ret rest at0 = .ok (trapTaken t c i k p rest at0) := by
  simp only [enterTrap, hfree, hheld, hwrite, Bool.false_eq_true, if_false]

section Traps

variable {f : Fields} {s : State} {c : Ctx} {k : Nat} (hk : intUpTo f.op1 63 = some k)
include hk

theorem trap_noLane (hst : Stands 0x380 f s c) (hnone : c.parts f = 0) :
    exec (.trap f) s = goesTo c (s.begun.mapWave c.ref.blk c.ref.wave fun w =>
      replaceEntry w c.ref.lane [fallEntry s.begun c f (c.e.mask &&& ~~~c.parts f)]) :=
  issue_goesTo hst (by simp only [hk, hnone, ne_eq, not_true, false_and, if_false, if_true])

theorem brkp_noLane (hst : Stands 0x383 f s c) (hnone : c.parts f = 0) : exec (.brkp f) s = goesOn c f s.begun :=
  issue_goesOn hst (by simp only [hk, hnone, ne_eq, not_true, false_and, if_false, if_true])

/-- R277. TRAP enters the handler; its lanes return to the next header. -/
theorem trap_enters {i : Nat} {t : State} (hst : Stands 0x380 f s c) (hsome : c.parts f ≠ 0) (hout : c.w.trap = none)
    (hframes : s.begun.ctxTslog c.b.oid ≠ 0) (hfree : freeFrame? s.begun c.b.oid = some i)
    (hheld : frameHeld s.begun c.b.oid i true = false)
    (hwrite : pinWrite s.begun c.b.oid (s.begun.tstack c.b.oid + 64 * i) (frameBytes c 0 k (c.parts f) (16 * c.e.nextHdr.toNat)) = some t) :
    exec (.trap f) s =
      goesTo c (trapTaken t c i k (c.parts f) [fallEntry s.begun c f (c.e.mask &&& ~~~c.parts f)] (nextClk c f)) :=
  issue_goesTo hst (by simp only [hk, hsome, hout, hframes, enterTrap_taken hfree hheld hwrite, Option.isSome_none, Bool.false_eq_true,
    and_false, if_false])

/-- R280. BRKP enters the handler; its lanes return to the next position. -/
theorem brkp_enters {i : Nat} {t : State} (hst : Stands 0x383 f s c) (hsome : c.parts f ≠ 0) (hout : c.w.trap = none)
    (hframes : s.begun.ctxTslog c.b.oid ≠ 0) (hdbg : s.begun.ctxDbg c.b.oid = true) (hfree : freeFrame? s.begun c.b.oid = some i)
    (hheld : frameHeld s.begun c.b.oid i true = false)
    (hwrite : pinWrite s.begun c.b.oid (s.begun.tstack c.b.oid + 64 * i) (frameBytes c 1 k (c.parts f)
      (if c.e.idx + 1 ≤ hdrCnt c.hdr then c.caddr + (c.e.idx + 1) else 16 * c.e.nextHdr.toNat)) = some t) :
    exec (.brkp f) s =
      goesTo c (trapTaken t c i k (c.parts f) [stayEntry c f (c.e.mask &&& ~~~c.parts f)] (nextClk c f)) :=
  issue_goesTo hst (by simp only [hk, hsome, hout, beq_eq_false_iff_ne.2 hframes, hdbg, enterTrap_taken hfree hheld hwrite,
    Option.isSome_none, Bool.not_true, Bool.or_self, Bool.false_eq_true, and_false, if_false])

end Traps

/-- Settles O34: without a lane neither instruction reaches the handler; with one, every check before the handler passes, and the
handler is entered. -/
theorem trapEntryCompletes : Obligations.TrapEntryCompletes := by
  unfold Obligations.TrapEntryCompletes
  intro f s c k hk
  refine ⟨fun hnone => ⟨fun hst => trap_noLane hk hst hnone, fun hst => brkp_noLane hk hst hnone⟩, ?_⟩
  intro hsome hout hframes i t hfree hheld
  exact ⟨fun hst hwrite => trap_enters hk hst hsome hout hframes hfree hheld hwrite,
    fun hst hdbg hwrite => brkp_enters hk hst hsome hout hframes hdbg hfree hheld hwrite⟩

/-- Settles O35: the checks for trap mode and for privilege come before the operand is looked at. -/
theorem trapsRefusedFault : Obligations.TrapsRefusedFault := by
  unfold Obligations.TrapsRefusedFault
  intro f s c k _ hsome
  refine ⟨fun hin => ⟨fun hst => issue_stops hst ?_, fun hst => issue_stops hst ?_⟩,
    fun hout => ⟨fun hst hframes => issue_stops hst ?_, fun hst hdenied => issue_stops hst ?_⟩⟩
  · exact if_pos ⟨hsome, hin⟩
  · exact if_pos ⟨hsome, hin⟩
  · exact (if_neg (by simp [hout])).trans (if_pos ⟨hsome, hframes⟩)
  · exact (if_neg (by simp [hout])).trans (if_pos ⟨hsome, by simpa using hdenied⟩)

/-! ## RTT -/

section Return

variable {f : Fields} {s : State} {c : Ctx} {t : TrapSt} (hst : Stands 0x382 f s c) (htrap : c.w.trap = some t)
  (hmine : c.parts f &&& ~~~t.lanes = 0)
include hst htrap hmine

theorem rtt_noLane (hnone : c.parts f = 0) : exec (.rtt f) s = goesTo c (s.begun.mapWave c.ref.blk c.ref.wave fun w =>
    replaceEntry w c.ref.lane [fallEntry s.begun c f (c.e.mask &&& ~~~c.parts f)]) := by
  refine issue_goesTo hst ?_
  simp only [htrap]
  exact (if_neg (not_not_intro hmine)).trans (if_pos hnone)

/-- The state in which RTT reads its frame: the core's own stores to it have been performed (R279). -/
def frameSettled (s : State) (b : Block) (frame : Nat) : State := if s.path.isEmpty then s else drainPath s (frameStore s b frame)

/-- R279. The lanes stand at the position that the frame holds, and leave the trap set. -/
theorem rtt_returns (hsome : c.parts f ≠ 0) (hpath : s.path = [] ∨ stuckStores s.begun (frameStore s.begun c.b t.frame) s.path = [])
    (hheld : frameHeld s.begun c.b.oid t.frame true = false) {l : List Byte} {u v : State}
    (hread : frameRead (frameSettled s.begun c.b t.frame) c.b t.frame = some l)
    (hmode : t.lanes &&& ~~~c.parts f = 0 → natLE ((l.drop 0x38).take 4) % 8 < 5)
    (hwrite : pinWrite (frameSettled s.begun c.b t.frame) c.b.oid (s.begun.tstack c.b.oid + 64 * t.frame + 0x3C)
      (bytesLE 4 (t.lanes &&& ~~~c.parts f).toNat) = some u)
    (hleave : leaveTrap (u.mapWave c.ref.blk c.ref.wave fun w => replaceEntry w c.ref.lane
      [returnEntry u c f (c.parts f) (natLE ((l.drop 0x20).take 8)), fallEntry s.begun c f (c.e.mask &&& ~~~c.parts f)])
      { blk := c.ref.blk, wave := c.ref.wave } c.b.oid (c.parts f) = .ok v) :
    exec (.rtt f) s = goesTo c v := by
  have hgo : ¬ (((!s.begun.path.isEmpty && !(stuckStores s.begun (frameStore s.begun c.b t.frame) s.begun.path).isEmpty) ||
      frameHeld s.begun c.b.oid t.frame true) = true) := by
    obtain hempty | hfree := hpath
    · simp [hheld, hempty]
    · simp [hheld, hfree]
  have hlegal : ¬ (t.lanes &&& ~~~c.parts f = 0 ∧ 5 ≤ natLE ((l.drop 0x38).take 4) % 8) := fun h => Nat.not_le.2 (hmode h.1) h.2
  refine issue_goesTo hst ?_
  simp only [htrap]
  refine (if_neg (not_not_intro hmine)).trans ((if_neg hsome).trans ((if_neg hgo).trans ?_))
  unfold frameSettled at hread hwrite
  simp only [hread, hwrite, hleave]
  exact if_neg hlegal

end Return

/-- Settles O36: RTT's lanes are of the trap set, so it falls through without one and returns with some. -/
theorem trapReturnCompletes : Obligations.TrapReturnCompletes := by
  unfold Obligations.TrapReturnCompletes
  intro f s c t hst htrap hmine
  refine ⟨rtt_noLane hst htrap hmine, ?_⟩
  intro hsome hpath hheld l u v s0 fa left hread hmode hwrite hleave
  exact rtt_returns hst htrap hmine hsome hpath hheld hread hmode hwrite hleave

/-! ## SVC -/

section Service

variable {f : Fields} {s : State} {c : Ctx} {func k r : Nat} {a : Fin 640} (hst : Stands 0x381 f s c)
  (hfunc : serviceOperand c f.op1 = some func) (ha : f.op2 = .v a) (hk : intUpTo f.op3 16 = some k) (hr : intUpTo f.op4 4 = some r)
  (hk0 : k ≠ 0)
include hst hfunc ha hk hr hk0

theorem svc_noLane (hnone : c.parts f = 0) : exec (.svc f) s = goesOn c f s.begun := by
  refine issue_goesOn hst ?_
  simp only [hfunc, ha, hk, hr]
  exact (if_neg hk0).trans (if_pos hnone)

end Service

/-- Settles O37: every check of SVC passes in turn, the ring's slot is free, and its structures take what is written. -/
theorem serviceCallCompletes : Obligations.ServiceCallCompletes := by
  unfold Obligations.ServiceCallCompletes
  intro f s c func k r a hst hfunc ha hk hr hk0
  refine ⟨svc_noLane hst hfunc ha hk hr hk0, ?_⟩
  intro hsome hclaim hring hidle hpath hheld pb gb t u hput hget put size slot hroom hfree hwrites hrise q v
  refine issue_goesTo hst ?_
  have hlegal : ¬ (8 * c.w.claim < a.val + k ∨ s.begun.ctxSrlog c.b.oid = 0) := not_or.2 ⟨Nat.not_lt.2 hclaim, hring⟩
  have hgo : ¬ (c.w.svc ≠ [] ∨ pathStuck s.begun c.b.die c.b.core = true ∨
      pinsHeld s.begun c.b.oid [(s.begun.sring c.b.oid, 4), (s.begun.sring c.b.oid + 128, 4)] false = true) := by
    simp [hidle, hpath, hheld]
  simp only [hfunc, ha, hk, hr, hput, hget]
  refine (if_neg hk0).trans ((if_neg hsome).trans ((if_neg hlegal).trans ((if_neg hgo).trans
    ((if_neg (not_or.2 ⟨hroom, Bool.eq_false_iff.1 hfree⟩)).trans ?_))))
  simp only [put, size, slot] at hwrites hrise
  simp only [hwrites, hrise]
  rfl

end Sys2Proof.Machine
end

section
/-!
PROOF. Pixels, textures and the raster engine (R337 to R339, R351 to R355).
-/
namespace Sys2Proof.Machine

/-! ## PXST and PXLD -/

/-- Settles O32: PXST and PXLD pass their checks, find the pixel of each lane, and store or read it; PXST's lanes without a pixel leave a
record. -/
theorem pixelInstructionsComplete : Obligations.PixelInstructionsComplete := by
  unfold Obligations.PixelInstructionsComplete
  refine ⟨fun f s c xy w n d rec sp hst hxy hn hd hrec hwidth => ?_, fun f s c xy w n d rec sp hst hxy hn hd hrec hwidth => ?_⟩
  · intro fmt tgt hsp t lost
    simp only [fmt, tgt] at hsp
    refine issue_goesOn hst ?_
    simp only [hxy, hn, hd, hrec]
    refine (if_neg (Bool.eq_false_iff.1 hwidth)).trans ?_
    simp only [hsp]
    split
    · rename_i hlost
      simp only [lost, tgt, hlost]
      rfl
    · rename_i hlost
      simp only [lost, tgt, hlost]
      rfl
  · intro fmt tgt hsp t
    simp only [fmt, tgt] at hsp
    refine issue_goesOn hst ?_
    simp only [hxy, hn, hd, hrec]
    refine (if_neg (Bool.eq_false_iff.1 hwidth)).trans ?_
    simp only [hsp]
    rfl

/-! ## TEX and TEXF -/

/-- The state after a TEX or TEXF whose texels are at the spots `sp`: the lanes' sums are delivered, and lanes without consent leave a
record (R351, R352). -/
def sampled (s : State) (c : Ctx) (w : Wave) (f : Fields) (t cv : Nat) (lam : Nat → Nat) (sp : List (Nat × Spot)) : State :=
  let act := c.parts f
  let tx := laneTexels c t cv lam
  let acc := texelAccesses s c t act tx
  let u := (sp.zip acc).foldl (fun s p => noteRead s c.b f.hint.toNat p.2.2.1 p.1.2) (s.withWave c w)
  let first (l : Nat) : Nat := match acc.find? fun a => a.1 == l with
    | some a => a.2.1
    | none => 0
  let v := inFlight (result u c (c.now u) f f.op0 false true act 0 (sampledWords s c t act tx sp) 0) c (lanes32.map first) sp
  match lostLanes s c t act tx with
  | [] => v
  | l :: m => noteFault v c 8 (xGidx t) ((gatedTexels s c tx l).headD 0) (maskOf fun i => (l :: m).contains i)

theorem sampling_ok {s : State} {c : Ctx} {w : Wave} {f : Fields} {t cv : Nat} {lam : Nat → Nat} {sp : List (Nat × Spot)}
    (hsp : checkAccesses s c false (texelAccesses s c t (c.parts f) (laneTexels c t cv lam)) (xSize t) false = .ok sp) :
    sampling s c w f (c.parts f) t cv lam = .ok (.seq (sampled s c w f t cv lam sp)) := by
  simp only [sampling, sampled, hsp]
  cases lostLanes s c t (c.parts f) (laneTexels c t cv lam) <;> rfl

section Sampling

variable {f : Fields} {s : State} {c : Ctx} {w : Wave} {t cv : Nat} {lam : Nat → Nat} {sp : List (Nat × Spot)}
  (hregs : texRegs c f = some cv) (hdesc : descriptor c f.op2 = some t) (hgood : descriptorBad t = false)
include hregs hdesc hgood

/-- R351. TEX reads the level of each lane, from a scalar only where it is in the descriptor. -/
theorem tex_samples {l : List Nat} (hst : Stands 0x342 f s c)
    (hlevel : (∃ n, f.op3 = .v n) ∨ (∃ n, f.op3 = .q n) ∨ (∃ n, f.op3 = .flt n) ∨ f.op3 = .zero ∨
       ((∃ n, f.op3 = .s n) ∧ f.op3 = f.op2))
    (hread : readRaw s.begun c c.w f.op3 .f32 false (c.parts f) = .ok (l, w))
    (hsp : checkAccesses s.begun c false (texelAccesses s.begun c t (c.parts f) (laneTexels c t cv fun k => (l[k]?).getD 0))
      (xSize t) false = .ok sp) :
    exec (.tex f) s = goesOn c f (sampled s.begun c w f t cv (fun k => (l[k]?).getD 0) sp) := by
  refine issue_goesOn hst ?_
  rw [hregs, hdesc]
  refine (if_neg ?_).trans ?_
  · obtain ⟨n, h3⟩ | ⟨n, h3⟩ | ⟨n, h3⟩ | h3 | ⟨⟨n, h3⟩, h2⟩ := hlevel
    · simp [h3, hgood]
    · simp [h3, hgood]
    · simp [h3, hgood]
    · simp [h3, hgood]
    · simp [h3, ← h2, hgood]
  · simp only [hread]
    exact sampling_ok hsp

/-- R351. TEXF derives the level of each lane from its four derivatives. -/
theorem texf_samples {g : Fin 640} (hst : Stands 0x343 f s c) (hg : f.op3 = .v g) (hclaim : g.val + 4 ≤ 8 * c.w.claim)
    (hsp : checkAccesses s.begun c false (texelAccesses s.begun c t (c.parts f) (laneTexels c t cv fun k => texfLevel t (lanePx c g k)))
      (xSize t) false = .ok sp) :
    exec (.texf f) s = goesOn c f (sampled s.begun c c.w f t cv (fun k => texfLevel t (lanePx c g k)) sp) := by
  refine issue_goesOn hst ?_
  simp only [hregs, hdesc, hg]
  exact (if_neg (not_or.2 ⟨Bool.eq_false_iff.1 hgood, Nat.not_lt.2 hclaim⟩)).trans (sampling_ok hsp)

end Sampling

/-! ## RAST -/

section Raster

variable {f : Fields} {s : State} {c : Ctx} {a : Fin 640} {n : Fin 128} {vis : List Nat} {w : Wave} (hst : Stands 0x344 f s c)
  (h1 : f.op1 = .v a) (h2 : (∃ m, f.op2 = .v m) ∨ ∃ m, f.op2 = .q m) (h3 : f.op3 = .s n) (heven : n.val % 2 = 0)
  (hclaim : a.val + 9 ≤ 8 * c.w.claim) (hread : readRaw s.begun c c.w f.op2 .b32 false (c.parts f) = .ok (vis, w))
include hst h1 h2 h3 heven hclaim hread

/-- R30. Without a lane RAST completes at issue. -/
theorem rast_noLane (hnone : c.parts f = 0) : exec (.rast f) s = goesOn c f (s.begun.withWave c w) := by
  refine issue_goesOn hst ?_
  simp only [h1, h3]
  refine (if_neg ?_).trans ?_
  · obtain ⟨m, h2⟩ | ⟨m, h2⟩ := h2 <;> simp [h2, heven, hclaim]
  simp only [hread]
  exact if_pos hnone

/-- R353, R355. The triangles are captured, and the raster engine owns the tile. -/
theorem rast_captures {t : State} (hsome : c.parts f ≠ 0) (halign : (c.readS false n).toNat % 128 = 0)
    (hfits : (c.readS false n).toNat + 8192 ≤ c.b.z)
    (hfill : fillRanges s.begun c.b c.ref.wave true [((c.readS false n).toNat, 8192)] = .ok t)
    (hpath : pathStuck s.begun c.b.die c.b.core = false) (hflips : tileFlips s.begun c.b c.ref.wave (c.readS false n).toNat = false) :
    exec (.rast f) s = goesOn c f (takeLines ((drainCore t c.b.die c.b.core).fresh.2.withWave c
      (startLong c w f (drainCore t c.b.die c.b.core).uids .none true (c.parts f) true [] 0 (some (rastOf c a n vis (c.parts f)))))
      c.b (drainCore t c.b.die c.b.core).uids) := by
  refine issue_goesOn hst ?_
  simp only [h1, h3]
  refine (if_neg ?_).trans ?_
  · obtain ⟨m, h2⟩ | ⟨m, h2⟩ := h2 <;> simp [h2, heven, hclaim]
  simp only [hread]
  refine (if_neg hsome).trans ((if_neg (not_not_intro halign)).trans ((if_neg (Nat.not_lt.2 hfits)).trans ?_))
  simp only [hfill]
  exact if_neg (by simp [hpath, hflips])

end Raster

/-- Settles O33: the level of each lane of a TEX is read and that of a TEXF derived, and both then sample alike; RAST passes its checks
and hands over what it has captured. -/
theorem samplingAndRasterComplete : Obligations.SamplingAndRasterComplete := by
  unfold Obligations.SamplingAndRasterComplete
  refine ⟨?_, fun f s c a n vis w hst h1 h2 h3 heven hclaim hread => ⟨rast_noLane hst h1 h2 h3 heven hclaim hread, ?_⟩⟩
  · rintro f s c i opc w t cv lam sp (⟨rfl, rfl, hlevel, l, hread, rfl⟩ | ⟨rfl, rfl, rfl, g, hg, hclaim, rfl⟩)
      hst hregs hdesc hgood act tx acc hsp
    · exact tex_samples hregs hdesc hgood hst hlevel hread hsp
    · exact texf_samples hregs hdesc hgood hst hg hclaim hsp
  · intro hsome halign hfits t hfill hpath hflips u
    exact rast_captures hst h1 h2 h3 heven hclaim hread hsome halign hfits hfill hpath hflips

end Sys2Proof.Machine
end

section
/-!
PROOF. Displays and what they send (R330 to R334, R342 to R349).
-/
namespace Sys2Proof.Machine

/-! ## What a write of MAPOP and a frame leave -/

/-- The registers of a display after a MAPOP with GO, but for BUSY: the slot, the value and the status (R334). -/
def mapCommanded (s : State) (d v : Nat) : State :=
  ((s.setRegBits (dispOff d + 0x38) 16 2 (bitsOf v 16 2)).setRegBits (dispOff d + 0x38) 0 16 (bitsOf v 0 16)).setRegBits (dispOff d + 0x38) 24 4
    (mapStatus s d (bitsOf v 16 2) (bitsOf v 0 16) (s.reg (dispOff d + 0x30)).toNat)

/-- The map command that a MAPOP gives. -/
def mapCmdOf (s : State) (d v : Nat) : MapCmd :=
  { d := d, rect := s.reg (dispOff d + 0x30), slot := bitsOf v 16 2, value := BitVec.ofNat 16 v }

theorem mapCommanded_mapCmds (s : State) (d v : Nat) : (mapCommanded s d v).mapCmds = s.mapCmds := by
  unfold mapCommanded
  rw [State.setRegBits_mapCmds, State.setRegBits_mapCmds, State.setRegBits_mapCmds]

/-- A display has sent the frame that its latched layers make (R344). -/
def frameSent (s : State) (d : Nat) (us : List Used) : State :=
  { s with scans := { d := d, frame := frameCount s d, rgb := scanOf s d us } :: s.scans.filter fun x => x.d != d }

theorem setRegBits_setRegBits_captures (s : State) (o l n v o' l' n' v' : Nat) :
    ((s.setRegBits o l n v).setRegBits o' l' n' v').captures = s.captures := by
  rw [State.setRegBits_captures, State.setRegBits_captures]

theorem endCapture_captures (s : State) (d err : Nat) : (endCapture s d err).captures = s.captures.filter fun x => x != d :=
  congrArg (List.filter fun x => x != d) (setRegBits_setRegBits_captures s _ _ _ _ _ _ _ _)

/-! ## Displays go on and off -/

section Displays

variable {s : State} {d : Nat} (hd : d < 4)
include hd

/-- R330. A display whose size and link are in order goes on; any other write of EN = 1 is an error. -/
theorem displayEnable_next {v : W64} (hen : v.getLsbD 0 = true) :
    exec (.displayEnable d v) s = .next (if 7679 < bitsOf v.toNat 32 16 ∨ 4319 < bitsOf v.toNat 48 16 ∨
        (!Config.linkCarries d (BitVec.ofNat 64 (bitsOf v.toNat 0 3 + bitsOf v.toNat 32 32 * 2 ^ 32))) = true
      then s.setRegBits (dispOff d) 3 1 1
      else s.setReg (dispOff d) (BitVec.ofNat 64 (bitsOf v.toNat 0 3 + bitsOf v.toNat 32 32 * 2 ^ 32))) :=
  (if_neg (by simp [hen, hd])).trans (congrArg Host.Outcome.next (if_pos (bitAt_of_set hen)))

/-- R332. EN = 0 ends the display's frames: its pending map commands take effect where they can, and its pending capture ends. -/
theorem displayDisable_next {v : W64} (hen : v.getLsbD 0 = false) :
    let s1 := if mapsWait s d then s else applyMaps s d
    let s2 := if s1.captures.contains d then endCapture s1 d 1 else s1
    exec (.displayDisable d v) s = .next { s2.setReg (dispOff d) (BitVec.ofNat 64 (bitsOf v.toNat 0 3 + bitsOf v.toNat 32 32 * 2 ^ 32)) with
      layers := s2.layers.filter fun x => x.1 != d } :=
  (if_neg (not_or.2 ⟨Nat.not_le.2 hd, by rw [hen]; decide⟩)).trans
    (congrArg Host.Outcome.next (if_neg (by rw [bitAt_of_clear hen]; decide)))

/-! ## Map commands -/

/-- R334. A map command is refused with its status, stays pending, or takes effect. -/
theorem mapCommand_next {v : W32} (hgo : v.getLsbD 20 = true) (hidle : s.regBits (dispOff d + 0x38) 21 1 ≠ 1) :
    exec (.mapCommand d v) s = .next (if mapStatus s d (bitsOf v.toNat 16 2) (bitsOf v.toNat 0 16) (s.reg (dispOff d + 0x30)).toNat ≠ 0
      then mapCommanded s d v.toNat
      else if (dispOn s d || pixelsStuck (mapCommanded s d v.toNat) d || mapHeld (mapCommanded s d v.toNat) (mapCmdOf s d v.toNat)) = true
        then { (mapCommanded s d v.toNat).setRegBits (dispOff d + 0x38) 21 1 1 with mapCmds := s.mapCmds ++ [mapCmdOf s d v.toNat] }
        else applyMap (drainPath (mapCommanded s d v.toNat) (pixelLine (mapCommanded s d v.toNat) d)) (mapCmdOf s d v.toNat)) := by
  have hset := bitAt_of_set hgo
  rw [exec_mapCommand]
  unfold execMapCommand
  rw [if_neg (by simp [hgo, hd])]
  unfold writeMapop
  extract_lets off s1 rect st s2 m
  have hs2 : s2 = mapCommanded s d v.toNat := rfl
  have hm : m = mapCmdOf s d v.toNat := rfl
  rw [if_neg hidle, if_neg (by omega), hs2, hm, mapCommanded_mapCmds]
  rfl

/-! ## Captures -/

/-- R348. A capture waits for the display's next frame; of a display that is off none is pending. -/
theorem captureStart_captures {v : W64} (hgo : v.getLsbD 13 = true) (hidle : s.regBits (capOff d) 14 1 ≠ 1) :
    ∃ t, exec (.captureStart d v) s = .next t ∧ t.captures = if dispOn s d then s.captures ++ [d] else s.captures.filter fun x => x != d := by
  have hset := bitAt_of_set hgo
  refine ⟨_, if_neg (by simp [hgo, hd]), ?_⟩
  unfold writeCapctl
  dsimp only
  rw [if_neg (fun h => hidle h.2), if_neg (by omega)]
  cases dispOn s d with
  | false => exact (endCapture_captures _ d 1).trans (congrArg _ (setRegBits_setRegBits_captures s _ _ _ _ _ _ _ _))
  | true =>
    refine congrArg (· ++ [d]) ?_
    rw [setRegBits_setRegBits_captures, setRegBits_setRegBits_captures]

/-! ## Frames -/

/-- R331, R342 to R349. A frame starts: it is latched, sent, and captured. -/
theorem frameStart_next (hon : dispOn s d = true) (hgo : canopyWaits s d = false) {t : State} {us : List Used}
    (hlatched : latchAll (frameBegun s d) d = (t, us)) :
    exec (.frameStart d) s = .next (performCapture (frameSent t d us) d (frame32 (frameBegun s d) d) us) := by
  rw [exec_frameStart]
  unfold execFrameStart
  rw [if_neg (by simp [hd, hon, hgo])]
  extract_lets s1 f
  split
  next heq =>
    obtain ⟨rfl, rfl⟩ := Prod.mk.inj (heq.symm.trans hlatched)
    rfl

end Displays

/-- Settles O46: each event of a display has an equation, whose branches are the cases. -/
theorem displayEventsComplete : Obligations.DisplayEventsComplete := by
  unfold Obligations.DisplayEventsComplete
  refine ⟨?_, fun s d v hd => displayDisable_next hd, ?_, ?_, fun s d hd hon hgo => ?_⟩
  · intro s d v hd hen fields
    rw [displayEnable_next hd hen]
    refine ⟨fun hwide hhigh => congrArg Host.Outcome.next ?_, fun hbad => congrArg Host.Outcome.next (if_pos ?_)⟩
    · cases Config.linkCarries d (BitVec.ofNat 64 fields)
      · exact if_pos (by simp)
      · exact if_neg (by simp [hwide, hhigh])
    · exact hbad.imp_right .inl
  · intro s d v hd hgo hidle n x r s1
    rw [mapCommand_next hd hgo hidle]
    refine ⟨fun hbad => congrArg Host.Outcome.next (if_pos hbad), fun hok hwaits => ?_, fun hok hfree => ?_⟩
    · exact congrArg Host.Outcome.next ((if_neg (not_not_intro hok)).trans (if_pos (by rw [Bool.or_eq_true, Bool.or_eq_true, or_assoc]; exact hwaits)))
    · exact congrArg Host.Outcome.next ((if_neg (not_not_intro hok)).trans (if_neg (by rw [Bool.or_eq_true, Bool.or_eq_true, or_assoc]; exact hfree)))
  · intro s d v hd hgo hidle
    obtain ⟨t, ht, hcap⟩ := captureStart_captures hd hgo hidle
    exact ⟨fun hon => ⟨t, ht, hcap.trans (if_pos hon)⟩, fun hoff => ⟨t, ht, hcap.trans (if_neg (by simp [hoff]))⟩⟩
  · exact frameStart_next hd hon hgo (Prod.eta _).symm

/-! ## What a display sends -/

theorem scanValue_eq (ten : Bool) (c : Nat) :
    scanValue ten c = if ten then (c * 1023 + 32767) / 65535 else (c * 255 + 32767) / 65535 := rfl

/-- Settles O59: the display's bits per channel choose one formula for the three channels of every pixel. -/
theorem scanoutValues : Obligations.ScanoutValues := by
  unfold Obligations.ScanoutValues
  intro s d us
  refine List.map_congr_left fun q _ => ?_
  by_cases hten : s.regBits (dispOff d) 1 1 = 1
  · simp [hten, scanValue_eq]
  · simp [hten, scanValue_eq]

end Sys2Proof.Machine
end

section
/-!
PROOF. Fields of the control block's registers: what a read finds after a write of the same or of another field.
-/
namespace Sys2Proof.Machine

/-! ## Fields of numbers -/

theorem testBit_bitsOf (x lo n i : Nat) : (bitsOf x lo n).testBit i = (decide (i < n) && x.testBit (lo + i)) := by
  rw [bitsOf, Nat.testBit_mod_two_pow, Nat.testBit_div_two_pow, Nat.add_comm]

/-- Fields agree where the bits do. -/
theorem bitsOf_congr {x y lo n : Nat} (h : ∀ i, lo ≤ i → i < lo + n → x.testBit i = y.testBit i) : bitsOf x lo n = bitsOf y lo n := by
  refine Nat.eq_of_testBit_eq fun i => ?_
  rw [testBit_bitsOf, testBit_bitsOf]
  by_cases hi : i < n
  · rw [h (lo + i) (by omega) (by omega)]
  · simp [hi]

/-- A number with `n` bits from `lo` replaced. -/
def withField (x lo n v : Nat) : Nat := x - bitsOf x lo n * 2 ^ lo + v % 2 ^ n * 2 ^ lo

/-- The new field stands between the old bits above it and below it. -/
theorem withField_eq (x lo n v : Nat) : withField x lo n v = (x / 2 ^ (lo + n) * 2 ^ n + v % 2 ^ n) * 2 ^ lo + x % 2 ^ lo := by
  have hlow := Nat.div_add_mod x (2 ^ lo)
  have hhigh := Nat.div_add_mod (x / 2 ^ lo) (2 ^ n)
  rw [Nat.div_div_eq_div_mul, ← Nat.pow_add] at hhigh
  unfold withField bitsOf
  generalize x / 2 ^ lo % 2 ^ n = b at *
  generalize x / 2 ^ (lo + n) = q at *
  rw [← hhigh] at hlow
  generalize v % 2 ^ n = w
  generalize x % 2 ^ lo = r at *
  rw [← hlow]
  have h1 : 2 ^ lo * (2 ^ n * q + b) + r - b * 2 ^ lo = 2 ^ lo * (2 ^ n * q) + r := by
    rw [Nat.mul_add, Nat.mul_comm b]
    omega
  rw [h1, Nat.add_right_comm, Nat.add_mul, Nat.mul_comm (2 ^ lo), Nat.mul_comm (2 ^ n)]

theorem withField_low (x lo n v : Nat) : withField x lo n v % 2 ^ lo = x % 2 ^ lo := by
  rw [withField_eq, Nat.mul_add_mod_self_right, Nat.mod_mod]

theorem withField_from (x lo n v : Nat) : withField x lo n v / 2 ^ lo = x / 2 ^ (lo + n) * 2 ^ n + v % 2 ^ n := by
  rw [withField_eq, Nat.mul_comm, Nat.mul_add_div (Nat.two_pow_pos lo), Nat.div_eq_of_lt (Nat.mod_lt _ (Nat.two_pow_pos lo)), Nat.add_zero]

theorem bitsOf_withField_same (x lo n v : Nat) : bitsOf (withField x lo n v) lo n = v % 2 ^ n := by
  rw [bitsOf, withField_from, Nat.mul_add_mod_self_right, Nat.mod_mod]

theorem withField_high (x lo n v : Nat) : withField x lo n v / 2 ^ (lo + n) = x / 2 ^ (lo + n) := by
  rw [Nat.pow_add, ← Nat.div_div_eq_div_mul, withField_from, Nat.mul_comm, Nat.mul_add_div (Nat.two_pow_pos n),
    Nat.div_eq_of_lt (Nat.mod_lt _ (Nat.two_pow_pos n)), Nat.add_zero, Nat.pow_add]

theorem withField_lt {x lo n v : Nat} (hfit : lo + n ≤ 64) (hx : x < 2 ^ 64) : withField x lo n v < 2 ^ 64 := by
  have hsplit : 2 ^ 64 = 2 ^ (64 - (lo + n)) * 2 ^ (lo + n) := by rw [← Nat.pow_add]; congr 1; omega
  rw [hsplit] at hx ⊢
  rw [← Nat.div_lt_iff_lt_mul (Nat.two_pow_pos _)] at hx ⊢
  rwa [withField_high]

/-- A bit outside the field stays. -/
theorem testBit_withField_other {x lo n v i : Nat} (h : i < lo ∨ lo + n ≤ i) : (withField x lo n v).testBit i = x.testBit i := by
  obtain hlow | hhigh := h
  · have hmod := congrArg (fun y => y.testBit i) (withField_low x lo n v)
    simpa [Nat.testBit_mod_two_pow, hlow] using hmod
  · have hdiv := congrArg (fun y => y.testBit (i - (lo + n))) (withField_high x lo n v)
    simpa [Nat.testBit_div_two_pow, Nat.sub_add_cancel hhigh] using hdiv

/-! ## Fields of registers -/

theorem putBits_toNat {x : W64} {lo n v : Nat} (hfit : lo + n ≤ 64) : (putBits x lo n v).toNat = withField x.toNat lo n v :=
  Nat.mod_eq_of_lt (withField_lt hfit x.isLt)

theorem bitsOf_putBits_same {x : W64} {lo n v : Nat} (hfit : lo + n ≤ 64) : bitsOf (putBits x lo n v).toNat lo n = v % 2 ^ n := by
  rw [putBits_toNat hfit, bitsOf_withField_same]

theorem bitsOf_putBits_other {x : W64} {lo n v m k : Nat} (hfit : lo + n ≤ 64) (h : m + k ≤ lo ∨ lo + n ≤ m) :
    bitsOf (putBits x lo n v).toNat m k = bitsOf x.toNat m k := by
  rw [putBits_toNat hfit]
  exact bitsOf_congr fun i hlo hhi => testBit_withField_other (by omega)

/-- A written register is read back once one of its fields is not as it was at reset, in any state. -/
theorem reg_setRegBits_of_field {s : State} {off lo n v m k : Nat}
    (h : bitsOf (putBits (s.reg off) lo n v).toNat m k ≠ bitsOf (dcbDefault (off / 8)).toNat m k) :
    (s.setRegBits off lo n v).reg off = putBits (s.reg off) lo n v :=
  reg_setReg_of_ne s off fun heq => h (by rw [heq])

/-- A field that is written with another value than its reset value is read back. -/
theorem regBits_setRegBits_same {s : State} {off lo n v : Nat} (hfit : lo + n ≤ 64) (h : v % 2 ^ n ≠ bitsOf (dcbDefault (off / 8)).toNat lo n) :
    (s.setRegBits off lo n v).regBits off lo n = v % 2 ^ n := by
  have hsame := bitsOf_putBits_same (x := s.reg off) (v := v) hfit
  rw [State.regBits, reg_setRegBits_of_field (m := lo) (k := n) (by rwa [hsame]), hsame]

/-- A field of another register stays. -/
theorem regBits_setRegBits_elsewhere (s : State) {off off' : Nat} (lo n v m k : Nat) (h : off' / 8 ≠ off / 8) :
    (s.setRegBits off lo n v).regBits off' m k = s.regBits off' m k := by
  unfold State.regBits State.setRegBits
  rw [reg_setReg_other _ _ h]

/-! ## Masked writes -/

theorem getLsbD_masked (r v m : W64) (i : Nat) :
    ((r &&& ~~~m) ||| v &&& m).getLsbD i = if m.getLsbD i then v.getLsbD i else r.getLsbD i := by
  cases hm : m.getLsbD i
  · cases hi : decide (i < 64) <;> simp_all
  · simp [hm]

end Sys2Proof.Machine
end

section
/-!
PROOF. The limits of frames (R324).
-/
namespace Sys2Proof.Machine

/-- R324. A write of an owner's MQ register takes its low half. -/
theorem writeRegister_mq (s : State) {oid : Nat} (v : Nat) (hoid : oid < 4096) :
    writeRegister s (mqOff oid) v = s.setMasked (mqOff oid) (bitsMask 31 0) v := by
  unfold writeRegister l2ctlOff l2slgOff mqOff
  rw [if_neg (by omega), if_neg (by omega), if_neg (by omega), if_neg (by omega), if_neg (by omega), if_neg (by omega), if_neg (by omega),
    if_pos (by omega)]

/-- A masked write is read back, where the keys rise. -/
theorem reg_setMasked {s : State} (h : spSorted s.dcb = true) (off mask v : Nat) :
    (s.setMasked off mask v).reg off = (s.reg off &&& ~~~BitVec.ofNat 64 mask) ||| BitVec.ofNat 64 v &&& BitVec.ofNat 64 mask :=
  spGet_spSet_same _ _ _ h

theorem lowHalf_getLsbD (i : Nat) : (BitVec.ofNat 64 (bitsMask 31 0)).getLsbD i = decide (i < 32) := by
  rw [BitVec.getLsbD_ofNat, bitsMask, Nat.pow_zero, Nat.testBit_two_pow_sub_one]
  by_cases h : i < 32
  · simp [h]; omega
  · simp [h]

section LowHalf

variable {s : State} (h : spSorted s.dcb = true) (off : Nat) (v : W64)
include h

theorem testBit_setLowHalf (i : Nat) : ((s.setMasked off (bitsMask 31 0) v.toNat).reg off).toNat.testBit i =
    if i < 32 then v.toNat.testBit i else (s.reg off).toNat.testBit i := by
  rw [reg_setMasked h, BitVec.testBit_toNat, getLsbD_masked, lowHalf_getLsbD, BitVec.ofNat_toNat, BitVec.setWidth_eq]
  simp only [decide_eq_true_eq, BitVec.testBit_toNat]

theorem lowHalf_set : (s.setMasked off (bitsMask 31 0) v.toNat).regBits off 0 32 = v.toNat % 2 ^ 32 := by
  have hbits : bitsOf ((s.setMasked off (bitsMask 31 0) v.toNat).reg off).toNat 0 32 = bitsOf v.toNat 0 32 :=
    bitsOf_congr fun i _ hi => (testBit_setLowHalf h off v i).trans (if_pos (by omega))
  rw [State.regBits, hbits, bitsOf, Nat.pow_zero, Nat.div_one]

theorem highHalf_kept : (s.setMasked off (bitsMask 31 0) v.toNat).regBits off 32 32 = s.regBits off 32 32 :=
  bitsOf_congr fun i hi _ => (testBit_setLowHalf h off v i).trans (if_neg (by omega))

end LowHalf

/-- R323. An owner at its limit is assigned no frame. -/
theorem ftAssign_atLimit {s : State} {p oid : Nat} {lin : Bool} (hoid : oid ≠ 0) (hlim : mqLim s oid ≤ mqUsed s oid)
    (hfree : (s.frame p).v = false) (hview : viewClash s p lin = false) : ftAssign s p oid lin = (1, s) :=
  (if_neg (Bool.eq_false_iff.1 hfree)).trans ((if_neg (Bool.eq_false_iff.1 hview)).trans (if_pos ⟨hoid, hlim⟩))

/-- Settles O60: the write takes the low half of the owner's register and changes nothing else. -/
theorem frameLimits : Obligations.FrameLimits := by
  unfold Obligations.FrameLimits
  intro s oid v hoid hsorted
  have hwrite := registerWrite_core (s := s) (off := mqOff oid) v (by unfold mqOff; omega) (by unfold mqOff; omega)
  rw [writeRegister_mq s _ hoid] at hwrite
  exact ⟨reset_frameLimit hoid, _, hwrite, lowHalf_set hsorted _ v, highHalf_kept hsorted _ v, rfl, fun p lin => ftAssign_atLimit⟩

end Sys2Proof.Machine
end

section
/-!
PROOF. What comes from the host and from peers (R284, R310, R316, R318, R319, R369, R379, R381, R382, R401 to R403).
-/
namespace Sys2Proof.Machine

/-! ## CXL.mem -/

theorem hostVerdict_system {s : State} {addr : Nat} {rd wr : Bool} (h : sysBase ≤ addr) : hostVerdict s addr rd wr = .system := if_pos h

theorem hostVerdict_refused {s : State} {addr d : Nat} {rd wr : Bool} (h : addr < sysBase)
    (hfire : firewall s 0x10 (targetOf addr false 0) rd wr = some d) : hostVerdict s addr rd wr = .refused d := by
  unfold hostVerdict
  rw [if_neg (Nat.not_le.2 h), hfire]

theorem hostVerdict_allowed {s : State} {addr : Nat} {rd wr : Bool} (h : addr < sysBase)
    (hfire : firewall s 0x10 (targetOf addr false 0) rd wr = none) : hostVerdict s addr rd wr = .allowed := by
  unfold hostVerdict
  rw [if_neg (Nat.not_le.2 h), hfire]

section HostAccess

variable {s : State} {addr : Nat} (haddr : addr < 2 ^ 37)
include haddr

theorem hostCxlMemRead_verdict {n : Nat} (hline : inOneLine addr n = true) :
    (hostVerdict s addr true false = .system →
      exec (.hostCxlMemRead addr n) s = .next (tell (hostRecord s addr 0) (.memData (List.replicate n 0)))) ∧
    (∀ d, hostVerdict s addr true false = .refused d → exec (.hostCxlMemRead addr n) s = .next (tell (hostRecord s addr d) .poison)) ∧
    (hostVerdict s addr true false = .allowed → outsideWaits s (targetOf addr false 0).key n false = false →
      exec (.hostCxlMemRead addr n) s = .next (tell (readShared s ((targetOf addr false 0).key / 128) .host)
        (.memData (s.bytesAt (targetOf addr false 0).key n)))) := by
  have hgo : ¬ (2 ^ 37 ≤ addr ∨ inOneLine addr n = false) := not_or.2 ⟨Nat.not_le.2 haddr, by simp [hline]⟩
  rw [exec_hostCxlMemRead]
  unfold execHostCxlMemRead
  rw [if_neg hgo]
  refine ⟨fun h => by rw [h], fun d h => by rw [h], fun h hfree => ?_⟩
  rw [h]
  exact if_neg (Bool.eq_false_iff.1 hfree)

theorem hostCxlMemWrite_verdict {l : List Byte} (hline : inOneLine addr l.length = true) :
    (hostVerdict s addr false true = .system → exec (.hostCxlMemWrite addr l) s = .next (hostRecord s addr 0)) ∧
    (∀ d, hostVerdict s addr false true = .refused d → exec (.hostCxlMemWrite addr l) s = .next (hostRecord s addr d)) ∧
    (hostVerdict s addr false true = .allowed → outsideWaits s (targetOf addr false 0).key l.length true = false →
      exec (.hostCxlMemWrite addr l) s = .next (landReplies (directWrite s (targetOf addr false 0).key l))) := by
  have hgo : ¬ (2 ^ 37 ≤ addr ∨ inOneLine addr l.length = false) := not_or.2 ⟨Nat.not_le.2 haddr, by simp [hline]⟩
  rw [exec_hostCxlMemWrite]
  unfold execHostCxlMemWrite
  rw [if_neg hgo]
  refine ⟨fun h => by rw [h], fun d h => by rw [h], fun h hfree => ?_⟩
  rw [h]
  exact if_neg (Bool.eq_false_iff.1 hfree)

end HostAccess

/-! ## Snoops -/

/-- R318. Every holder of a recalled line has it shared and clean. -/
theorem recallShared_shared {s : State} {line : Nat} {d : DirEnt} (hd : d ∈ (recallShared s line).dir) (hline : d.line = line) :
    d.st = .shared ∧ d.dirty = 0 := by
  obtain ⟨e, _, rfl⟩ := List.mem_map.1 hd
  by_cases he : e.line = line
  · simp [he]
  · exact absurd hline (by simp [he])

section Snoop

variable {s : State} {line : Nat} (hsnoop : snooped s (128 * line) = true)
include hsnoop

theorem hostSnoop_recalls (hfree : outsideWaits s (128 * line) 128 false = false) :
    exec (.hostSnoop line none) s = .next (recallShared s line) :=
  (if_neg (by simp [hsnoop])).trans (if_neg (Bool.eq_false_iff.1 hfree))

theorem hostSnoop_writes {off : Nat} {l : List Byte} (hfits : off + l.length ≤ 128) (hfree : outsideWaits s (128 * line) 128 true = false) :
    exec (.hostSnoop line (some (off, l))) s = .next (landReplies (directWrite s (128 * line + off) l)) :=
  (if_neg (by simp [hsnoop])).trans (if_neg (not_or.2 ⟨Nat.not_lt.2 hfits, Bool.eq_false_iff.1 hfree⟩))

end Snoop

/-! ## Registers and messages -/

section RegisterRead

variable {s : State} {fn off : Nat} (hfn : fn < 17) (h8 : off % 8 = 0) (hoff : off < if fn = 0 then 2 ^ 24 else 2 ^ 16)
  (hstuck : hostStuck s fn = false)
include hfn h8 hoff hstuck

theorem hostRegisterRead_mayGo :
    ¬ (17 ≤ fn ∨ off % 8 ≠ 0 ∨ (if fn = 0 then 2 ^ 24 else 2 ^ 16) ≤ off ∨ hostStuck s fn = true) :=
  not_or.2 ⟨Nat.not_le.2 hfn, not_or.2 ⟨not_not_intro h8, not_or.2 ⟨Nat.not_le.2 hoff, Bool.eq_false_iff.1 hstuck⟩⟩⟩

theorem hostRegisterRead_shut (hshut : functionShut s fn = true) :
    exec (.hostRegisterRead fn off) s = .next (freeRead (drainFor s fn)) :=
  (if_neg (hostRegisterRead_mayGo hfn h8 hoff hstuck)).trans (if_pos hshut)

theorem hostRegisterRead_nowhere (hopen : functionShut s fn = false) (hbar : barOffset fn off = none) :
    exec (.hostRegisterRead fn off) s = .next (tell (drainFor s fn) (.regData 0)) := by
  refine (if_neg (hostRegisterRead_mayGo hfn h8 hoff hstuck)).trans ((if_neg (Bool.eq_false_iff.1 hopen)).trans ?_)
  rw [hbar]

theorem hostRegisterRead_shown {o : Nat} (hopen : functionShut s fn = false) (hbar : barOffset fn off = some o) :
    exec (.hostRegisterRead fn off) s = if tableAllows s 4 (0x10 + fn) o true false
      then .next (tell (drainFor s fn) (.regData ((drainFor s fn).regNow o))) else .next (freeRead (hostDenied (drainFor s fn))) := by
  refine (if_neg (hostRegisterRead_mayGo hfn h8 hoff hstuck)).trans ((if_neg (Bool.eq_false_iff.1 hopen)).trans ?_)
  rw [hbar]

end RegisterRead

theorem contains_filter_ne (a : Nat) (l : List Nat) : (l.filter fun x => x != a).contains a = false := by simp

/-- R316, R319. A pending message leaves, the last that the host hears, and is no longer pending. -/
theorem msixSend_sends {s : State} {fn vec : Nat} (hpend : s.msix.contains (4 * fn + vec) = true) (hvec : vec < 4)
    (hmask : vectorMasked s fn vec = false) (hpower : s.d3hot.contains fn = false) (hstuck : hostStuck s fn = false) :
    ∃ t, exec (.msixSend fn vec) s = .next t ∧ t.host.getLast? = some (.msix fn vec) ∧ t.msix.contains (4 * fn + vec) = false := by
  refine ⟨_, if_neg ?_, List.getLast?_concat, ?_⟩
  · rw [hpend, hmask, hpower, hstuck, decide_eq_false (Nat.not_le.2 hvec)]
    decide
  · exact contains_filter_ne _ _

/-! ## The mailbox -/

/-- A function's BAR0 shows its doorbell. -/
theorem barOffset_doorbell (fn : Nat) : barOffset fn (if fn = 0 then pageOff 0 + 0x100 else 0x100) = some (pageOff fn + 0x100) := by
  by_cases h : fn = 0
  · subst h
    rfl
  · simp [barOffset, h, pageOff]

theorem mailboxDoorbell_next {s : State} {fn : Nat} (hfn : fn < 17) : exec (.mailboxDoorbell fn) s =
    .next (hostWrite s fn (if fn = 0 then pageOff 0 + 0x100 else 0x100) fun s o => s.setRegBits o 0 1 1) := if_neg (Nat.not_le.2 hfn)

/-- MBDB reads as 1 once it is set. -/
theorem mbdb_set {s : State} {fn : Nat} (hfn : fn < 17) : mbdb (s.setRegBits (pageOff fn + 0x100) 0 1 1) fn = true := by
  have hzero : dcbDefault ((pageOff fn + 0x100) / 8) = 0 := by
    unfold pageOff
    exact dcbDefault_zero (by omega) (by omega) (by omega) (by omega) (by omega)
  unfold mbdb
  rw [regBits_setRegBits_same (by omega) (by rw [hzero]; decide)]
  rfl

theorem mailboxReply_next {s : State} {fn : Nat} (l : List Byte) (hfn : fn < 17) (hdb : mbdb s fn = true) :
    exec (.mailboxReply fn l) s = .next (reply s fn l) := if_neg (by simp [hfn, hdb])

/-- R401 to R403. Jorac's answer is the mailbox's reply. -/
theorem joracFinalise_replies {s t : State} {fn : Nat} {a : JAnswer} (hfn : fn < 17) (hdb : mbdb s fn = true) (hlead : s.takingOver = none)
    (hanswer : joracAnswer s fn (jRequest s fn) = (a, t)) (hheld : jHeld s (jRequest s fn) a = false) :
    exec (.joracFinalise fn) s = .next (reply t fn a.bytes) := by
  rw [exec_joracFinalise]
  unfold execJoracFinalise
  extract_lets q
  rw [hanswer]
  exact if_neg (by simp [hfn, hdb, hlead, q, hheld])

/-! ## Replies to service requests -/

section Landing

variable {s : State} {oid slot : Nat} {l : List Byte} {q : SvcReq} (hq : s.svc? oid slot = some q) (hout : q.landed = false)
  (hheld : pinsHeld s oid [(svcArgs s oid slot, (l.take 2048).length), (svcHeader s oid slot + 28, 4)] true = false)
include hq hout hheld

theorem svcReplyLand_lands {t : State}
    (hwrite : pinWrites oid [(svcArgs s oid slot, l.take 2048), (svcHeader s oid slot + 28, bytesLE 4 1)] s = some t) :
    exec (.svcReplyLand oid slot l) s = .next (landReply t q) := by
  simp only [exec_svcReplyLand, execSvcReplyLand, hq]
  rw [if_neg (by rw [hout, hheld]; decide), hwrite]

theorem svcReplyLand_double
    (hwrite : pinWrites oid [(svcArgs s oid slot, l.take 2048), (svcHeader s oid slot + 28, bytesLE 4 1)] s = none) :
    exec (.svcReplyLand oid slot l) s =
      .next (requestDouble s q (pinBad s oid true [(svcArgs s oid slot, l.length), (svcHeader s oid slot + 28, 4)])) := by
  simp only [exec_svcReplyLand, execSvcReplyLand, hq]
  rw [if_neg (by rw [hout, hheld]; decide), hwrite]

end Landing

/-! ## Peers -/

section Peers

variable {s : State} {p h addr : Nat} (hp : p < 8) (hh : h < 16) (haddr : addr < 2 ^ 38) (hport : s.stopped.contains (peerPort p) = false)
include hp hh haddr hport

theorem peer_mayAsk {n : Nat} (hline : inOneLine addr n = true) :
    ¬ (8 ≤ p ∨ 16 ≤ h ∨ 2 ^ 38 ≤ addr ∨ inOneLine addr n = false ∨ s.stopped.contains (peerPort p) = true) :=
  not_or.2 ⟨Nat.not_le.2 hp, not_or.2 ⟨Nat.not_le.2 hh, not_or.2 ⟨Nat.not_le.2 haddr,
    not_or.2 ⟨by simp [hline], Bool.eq_false_iff.1 hport⟩⟩⟩⟩

theorem peerRead_next {n : Nat} (hline : inOneLine addr n = true) : exec (.peerRequest p h addr (.read n)) s =
    if !peerAllowed s p h addr true false then .next (tell s .peerRefused)
    else if outsideWaits s (targetOf addr false 0).key n false then .next s
    else .next (tell (recallForRead s ((targetOf addr false 0).key / 128)) (.peerData (s.bytesAt (targetOf addr false 0).key n))) :=
  if_neg (peer_mayAsk hp hh haddr hport hline)

theorem peerWrite_next {l : List Byte} (hline : inOneLine addr l.length = true) : exec (.peerRequest p h addr (.write l)) s =
    if !peerAllowed s p h addr false true then .next (tell s .peerRefused)
    else if outsideWaits s (targetOf addr false 0).key l.length true then .next s
    else .next (tell (directWrite s (targetOf addr false 0).key l) .peerAck) :=
  if_neg (peer_mayAsk hp hh haddr hport hline)

/-- R165, R379. A peer's atomic that the operation's types allow, on an aligned element. -/
theorem peerAtomic_next {op v : Nat} {t : Ty} (hop : atomDefined op t = true) (hline : inOneLine addr (elemWidth t / 8) = true)
    (halign : addr % (elemWidth t / 8) = 0) : exec (.peerRequest p h addr (.atomic op t v)) s =
    if !peerAllowed s p h addr true true then .next (tell s .peerRefused)
    else if outsideWaits s (targetOf addr false 0).key (elemWidth t / 8) true then .next s
    else .next (tell (directWrite s (targetOf addr false 0).key
        (bytesLE (elemWidth t / 8) (atomNew op t (natLE (s.bytesAt (targetOf addr false 0).key (elemWidth t / 8))) v)))
      (.peerData (s.bytesAt (targetOf addr false 0).key (elemWidth t / 8)))) := by
  refine (if_neg (peer_mayAsk hp hh haddr hport hline)).trans ?_
  simp only [peerAtomic, hop, if_true]
  exact if_neg (not_not_intro halign)

end Peers

/-! ## Keys -/

theorem shenerMacFailure_stops {s : State} {port : Nat} (hport : port < 4) (hkey : (s.keys.any fun k => k.1 == port) = true)
    (hruns : s.stopped.contains port = false) : exec (.shenerMacFailure port) s =
      .next (raiseRecord (dropFlight s port) (Record.plain 6 0 (s.ctxGlade 0) 0 0 0 0 102)) :=
  if_neg (by rw [hkey, hruns]; simp [hport])

/-- A search for a key finds the same once the pairs of another key are dropped. -/
theorem find?_filter_ne {α β : Type} [DecidableEq α] {a b : α} (hne : b ≠ a) (l : List (α × β)) :
    ((l.filter fun x => x.1 != a).find? fun x => x.1 == b) = l.find? fun x => x.1 == b := by
  rw [List.find?_filter]
  congr 1
  funext x
  by_cases hx : x.1 = b
  · simp [hx, hne]
  · simp [hx]

/-- Settles O47: each event of the host and of peers has lemmas that say what it does where it completes. -/
theorem hostEventsComplete : Obligations.HostEventsComplete := by
  unfold Obligations.HostEventsComplete
  refine ⟨?_, ?_, ?_, ?_, fun s fn vec hpend hvec hmask hpower hstuck => msixSend_sends hpend hvec hmask hpower hstuck, ?_, ?_, ?_, ?_, ?_, ?_⟩
  · intro s addr n haddr hline key
    obtain ⟨hsystem, hrefused, hallowed⟩ := hostCxlMemRead_verdict (s := s) haddr hline
    exact ⟨fun h => hsystem (hostVerdict_system h), fun h hfire => hallowed (hostVerdict_allowed h hfire),
      fun d h hfire => hrefused d (hostVerdict_refused h hfire)⟩
  · intro s addr l haddr hline key
    obtain ⟨hsystem, hrefused, hallowed⟩ := hostCxlMemWrite_verdict (s := s) haddr hline
    exact ⟨fun h => hsystem (hostVerdict_system h), fun h hfire => hallowed (hostVerdict_allowed h hfire),
      fun d h hfire => hrefused d (hostVerdict_refused h hfire)⟩
  · intro s line hsnoop
    exact ⟨fun hfree => ⟨hostSnoop_recalls hsnoop hfree, fun d hd => recallShared_shared hd⟩,
      fun off l hfits hfree => hostSnoop_writes hsnoop hfits hfree⟩
  · intro s fn off hfn h8 hoff hstuck s1
    refine ⟨hostRegisterRead_shut hfn h8 hoff hstuck, hostRegisterRead_nowhere hfn h8 hoff hstuck, fun o hopen hbar => ?_⟩
    rw [hostRegisterRead_shown hfn h8 hoff hstuck hopen hbar]
    exact ⟨fun hallow => if_pos hallow, fun hdeny => if_neg (Bool.eq_false_iff.1 hdeny)⟩
  · intro s fn hfn
    rw [mailboxDoorbell_next hfn]
    refine ⟨fun hshut => congrArg Host.Outcome.next (hostWrite_nowhere _ (.inl hshut)),
      fun hopen hallow => ⟨_, rfl, ?_⟩, fun hopen hdeny => ?_⟩
    · rw [hostWrite_shown _ hopen (barOffset_doorbell fn), if_pos hallow]
      exact mbdb_set hfn
    · rw [hostWrite_shown _ hopen (barOffset_doorbell fn), if_neg (Bool.eq_false_iff.1 hdeny)]
  · intro s fn l hfn hdb
    exact ⟨mailboxReply_next l hfn hdb, fun a t hlead hanswer hheld => joracFinalise_replies hfn hdb hlead hanswer hheld⟩
  · intro s oid slot l q hq hout hheld out
    exact ⟨fun t hwrite => svcReplyLand_lands hq hout hheld hwrite, fun hwrite => svcReplyLand_double hq hout hheld hwrite⟩
  · intro s p h addr n l hp hh haddr hport key
    refine ⟨fun hline hallow hfree => ?_, fun hline hallow hfree => ?_, fun hline hdeny => ?_, fun hline hdeny => ?_,
      fun op v t hop hline halign => ⟨fun hallow hfree => ?_, fun hdeny => ?_⟩⟩
    · exact (peerRead_next hp hh haddr hport hline).trans ((if_neg (by simp [hallow])).trans (if_neg (Bool.eq_false_iff.1 hfree)))
    · exact (peerWrite_next hp hh haddr hport hline).trans ((if_neg (by simp [hallow])).trans (if_neg (Bool.eq_false_iff.1 hfree)))
    · exact (peerWrite_next hp hh haddr hport hline).trans (if_pos (by simp [hdeny]))
    · exact (peerRead_next hp hh haddr hport hline).trans (if_pos (by simp [hdeny]))
    · exact (peerAtomic_next hp hh haddr hport hop hline halign).trans
        ((if_neg (by simp [hallow])).trans (if_neg (Bool.eq_false_iff.1 hfree)))
    · exact (peerAtomic_next hp hh haddr hport hop hline halign).trans (if_pos (by simp [hdeny]))
  · intro s port hport
    refine ⟨shenerMacFailure_stops hport, fun number tx rx => ⟨_, if_neg (Nat.not_le.2 hport), ?_, rfl, contains_filter_ne _ _⟩⟩
    exact List.find?_cons_of_pos (by simp)
  · intro s n k hfn hsession
    refine ⟨_, if_neg (not_or.2 ⟨Nat.not_le.2 hfn, by rw [hsession]; decide⟩), List.find?_cons_of_pos (by simp), fun m hm => ?_⟩
    exact (List.find?_cons_of_neg (by simpa using Ne.symm hm)).trans (find?_filter_ne hm s.ide)

end Sys2Proof.Machine
end

section
/-!
PROOF. The service pairs and the root of trust (R311, R312, R314, R384 to R386, R390 to R394).
-/
namespace Sys2Proof.Machine

/-! ## What writes of memory leave of the control block -/

theorem reg_of_dcb {s t : State} (h : t.dcb = s.dcb) (off : Nat) : t.reg off = s.reg off := by
  unfold State.reg
  rw [h]

theorem regBits_of_dcb {s t : State} (h : t.dcb = s.dcb) (off lo n : Nat) : t.regBits off lo n = s.regBits off lo n := by
  unfold State.regBits
  rw [reg_of_dcb h]

theorem writePhys_dcb (s : State) (a : Nat) (l : List Byte) : (writePhys s a l).dcb = s.dcb :=
  (besideStores_eq.1 (writeKeys_besideStores _ s _)).2.1

theorem pairWrite_dcb (s : State) (d a : Nat) (l : List Byte) : (pairWrite s d a l).dcb = s.dcb := by
  unfold pairWrite
  split
  · exact writePhys_dcb s a l
  · rfl

theorem notify_dcb (s : State) (fn vec : Nat) : (notify s fn vec).dcb = s.dcb := by
  unfold notify
  split <;> rfl

theorem mem_notify_msix (s : State) (fn vec : Nat) : 4 * fn + vec ∈ (notify s fn vec).msix := by
  unfold notify
  split
  · exact List.contains_iff_mem.1 ‹_›
  · exact List.mem_append_right _ (List.mem_singleton_self _)

/-! ## DEVST (Table 15.4) -/

/-- The bits of DEVST below its stepping are 0 at reset. -/
theorem devst_reset {lo n : Nat} (h : lo + n ≤ 48) : bitsOf (dcbDefault (0 / 8)).toNat lo n = 0 := by
  have hdef : (dcbDefault (0 / 8)).toNat = Config.stepping.toNat * 2 ^ 48 := by
    unfold dcbDefault
    rw [if_pos rfl, BitVec.toNat_ofNat, Nat.mod_eq_of_lt]
    have hlt : Config.stepping.toNat < 2 ^ 16 := Config.stepping.isLt
    generalize Config.stepping.toNat = x at hlt
    omega
  refine Nat.eq_of_testBit_eq fun i => ?_
  rw [testBit_bitsOf, hdef, Nat.mul_comm, Nat.testBit_two_pow_mul, Nat.zero_testBit]
  by_cases hi : i < n
  · simp [show ¬ 48 ≤ lo + i by omega]
  · simp [hi]

/-- A bit of DEVST that is set reads as 1. -/
theorem devst_set (s : State) {k : Nat} (h : k < 48) : (s.setRegBits 0 k 1 1).regBits 0 k 1 = 1 :=
  regBits_setRegBits_same (by omega) (by rw [devst_reset (by omega)]; decide)

/-- A write of a field of DEVST is read back while a field outside it is not 0. -/
theorem devst_written {s : State} {lo n v m k : Nat} (hfit : lo + n ≤ 48) (hm : m + k ≤ 48) (h : m + k ≤ lo ∨ lo + n ≤ m)
    (hone : s.regBits 0 m k ≠ 0) : (s.setRegBits 0 lo n v).reg 0 = putBits (s.reg 0) lo n v := by
  refine reg_setRegBits_of_field (m := m) (k := k) ?_
  rwa [bitsOf_putBits_other (by omega) h, devst_reset hm]

theorem devst_field {s : State} {lo n v m k : Nat} (hfit : lo + n ≤ 48) (hm : m + k ≤ 48) (h : m + k ≤ lo ∨ lo + n ≤ m)
    (hone : s.regBits 0 m k ≠ 0) : (s.setRegBits 0 lo n v).regBits 0 lo n = v % 2 ^ n := by
  rw [State.regBits, devst_written hfit hm h hone, bitsOf_putBits_same (by omega)]

theorem devst_other {s : State} {lo n v m k a b : Nat} (hfit : lo + n ≤ 48) (hm : m + k ≤ 48) (h : m + k ≤ lo ∨ lo + n ≤ m)
    (hone : s.regBits 0 m k ≠ 0) (hout : a + b ≤ lo ∨ lo + n ≤ a) : (s.setRegBits 0 lo n v).regBits 0 a b = s.regBits 0 a b := by
  rw [State.regBits, devst_written hfit hm h hone, bitsOf_putBits_other (by omega) hout]
  rfl

theorem healthy_lt {s : State} {d : Nat} (h : healthy s d = true) : d < 4 := by
  simp only [healthy, Bool.and_eq_true, decide_eq_true_eq] at h
  exact h.1

theorem healthy_bit {s : State} {d : Nat} (h : healthy s d = true) : s.regBits 0 d 1 ≠ 0 := by
  simp only [healthy, Bool.and_eq_true, beq_iff_eq] at h
  omega

/-- R312, R314. The leader of a device with a healthy pair is the one that is written. -/
theorem leader_set {s : State} {d : Nat} (h : healthy s d = true) : leader (s.setRegBits 0 8 2 d) = d := by
  have hd := healthy_lt h
  unfold leader
  rw [devst_field (by omega) (by omega) (by omega) (healthy_bit h)]
  exact Nat.mod_eq_of_lt (by omega)

/-! ## The election -/

/-- R312. The lowest healthy pair leads, and the running bank's count is cleared. -/
theorem leaderElection_elects {s : State} {d : Nat} (hnone : s.elected = false) (hd : [0, 1, 2, 3].find? (healthy s) = some d)
    (hfree : pairHeld s leadwAt true = false) :
    ∃ t, exec .leaderElection s = .next t ∧ t.elected = true ∧ leader t = d ∧ bankCount t t.bank = 0 := by
  have hhealthy : healthy (pairWrite s d leadwAt (bytesLE 8 (2 ^ 32 + d))) d = true := by
    unfold healthy
    rw [regBits_of_dcb (pairWrite_dcb s d _ _)]
    exact List.find?_some (p := healthy s) hd
  have hlead := leader_set hhealthy
  simp only [exec_leaderElection, execLeaderElection, hd]
  refine ⟨_, (if_neg (Bool.eq_false_iff.1 hnone)).trans (if_neg (Bool.eq_false_iff.1 hfree)), rfl, hlead, ?_⟩
  generalize (pairWrite s d leadwAt (bytesLE 8 (2 ^ 32 + d))).setRegBits 0 8 2 d = u
  cases hbank : u.bank <;> simp [bankCount, setBankCount, hbank]

theorem fatalError_fatal (s : State) (cause : FatalCause) : (fatalError s cause).regBits 0 11 1 = 1 := by
  have hset := devst_set s (k := 11) (by omega)
  unfold fatalError
  dsimp only
  split
  · exact hset
  · exact (regBits_of_dcb ((notify_dcb _ _ _).trans (pairWrite_dcb _ _ _ _)) _ _ _).trans hset

/-- R312. With no healthy pair the device has a fatal error. -/
theorem leaderElection_fails {s : State} (hnone : s.elected = false) (hd : [0, 1, 2, 3].find? (healthy s) = none) :
    ∃ t, exec .leaderElection s = .next t ∧ t.elected = true ∧ t.regBits 0 11 1 = 1 := by
  simp only [exec_leaderElection, execLeaderElection, hd]
  exact ⟨_, if_neg (Bool.eq_false_iff.1 hnone), rfl, fatalError_fatal s _⟩

/-! ## A pair that fails -/

/-- R312, R393. The pair stops; where no pair is left that leads or may lead, that is a fatal error. -/
theorem lockstepMismatch_halts {s : State} {die : Nat} (hruns : pairRuns s die = true) :
    let t := haltPair (s.setRegBits 0 die 1 0) die
    let failed : Prop := (∀ p ∈ t.pairs, p.halted = true) ∨ s.elected = true ∧ t.regBits 0 0 4 = 0
    (¬ failed → exec (.lockstepMismatch die) s = .next t) ∧
      (failed → exec (.lockstepMismatch die) s = .next (fatalError t .everyServicePairFailed)) := by
  intro t failed
  have hnext : exec (.lockstepMismatch die) s = .next
      (if t.pairs.all (fun p => p.halted) || (s.elected && t.regBits 0 0 4 == 0) then fatalError t .everyServicePairFailed else t) :=
    if_neg (by rw [hruns]; decide)
  have hfailed : (t.pairs.all (fun p => p.halted) || (s.elected && t.regBits 0 0 4 == 0)) = true ↔ failed := by
    rw [Bool.or_eq_true, Bool.and_eq_true, List.all_eq_true, beq_iff_eq]
  rw [hnext]
  exact ⟨fun h => congrArg Host.Outcome.next (if_neg fun hf => h (hfailed.1 hf)), fun h => congrArg Host.Outcome.next (if_pos (hfailed.2 h))⟩

/-! ## Heartbeats and takeovers (R314) -/

theorem heartbeat_beats {s : State} (hlead : leads s (leader s) = true) (hfree : pairHeld s hbwAt true = false) :
    exec .heartbeat s = .next (pairWrite s (leader s) hbwAt (bytesLE 8 (hbw s + 1))) := if_pos (by rw [hlead, hfree]; rfl)

theorem heartbeatTimeout_waits {s : State} {die : Nat} (helected : s.elected = true) (hhealthy : healthy s die = true)
    (hfenced : fenced s die = false) (hfollows : leader s ≠ die) (hidle : s.takingOver ≠ some die)
    (hnew : (s.takeover.any fun t => t.die == die) = false) (hhbw : pairHeld s hbwAt false = false) (hleadw : pairHeld s leadwAt false = false) :
    exec (.heartbeatTimeout die) s = .next { s with
      takeover := s.takeover ++ [{ die := die, hbw := BitVec.ofNat 64 (hbw s), leadw := BitVec.ofNat 64 (leadw s) }] } := by
  refine if_neg ?_
  rw [helected, hhealthy, hfenced, hnew, hhbw, hleadw, beq_false_of_ne hfollows, beq_false_of_ne hidle]
  decide

section Attempt

variable {s : State} {die : Nat} {w : Waiting} (hw : (s.takeover.find? fun t => t.die == die) = some w) (hhealthy : healthy s die = true)
  (hidle : s.takingOver ≠ some die) (hhbw : pairHeld s hbwAt false = false) (hleadw : pairHeld s leadwAt true = false)
include hw hhealthy hidle hhbw hleadw

/-- R314. The follower stops waiting; its takeover begins where nothing has changed and the CAS succeeds. -/
theorem takeoverAttempt_next : exec (.takeoverAttempt die) s = .next
    (if pairAllowed s die leadwAt true true = false ∨ hbw s ≠ w.hbw.toNat ∨ leadw s ≠ w.leadw.toNat
      then { s with takeover := s.takeover.filter fun t => t.die != die }
      else beginTakeover { s with takeover := s.takeover.filter fun t => t.die != die } die w) := by
  rw [exec_takeoverAttempt]
  unfold execTakeoverAttempt
  rw [if_neg hidle, hw]
  dsimp only
  rw [if_neg (by rw [hhbw, hleadw]; decide), hhealthy]
  split
  · rename_i h
    rw [if_pos (by simpa [or_assoc] using h)]
  · rename_i h
    rw [if_neg (by simpa [or_assoc] using h)]

end Attempt

/-- The access windows of an IID are not in DEVST. -/
theorem denyAll_devst (s : State) (iid : Nat) : (denyAll s iid).reg 0 = s.reg 0 :=
  foldl_same (g := fun s : State => s.reg 0) (fun s t => foldl_same (g := fun s : State => s.reg 0)
    (fun s i => reg_setReg_other s 0 (by omega)) (List.range 8) s) (List.range 10) s

/-- R314. A takeover that has begun: TKO is 1, and the old leader is fenced. -/
theorem beginTakeover_fences (s : State) (die : Nat) (w : Waiting) : (beginTakeover s die w).takingOver = some die ∧
    fenced (beginTakeover s die w) (w.leadw.toNat % 4) = true ∧ (beginTakeover s die w).regBits 0 10 1 = 1 := by
  have hold : w.leadw.toNat % 4 < 4 := Nat.mod_lt _ (by decide)
  generalize hu : denyAll (writePhys (s.setRegBits 0 10 1 1) leadwAt (bytesLE 8 ((w.leadw.toNat / 2 ^ 32 + 1) * 2 ^ 32 + die)))
    (0x30 + w.leadw.toNat % 4) = u
  have htko : u.regBits 0 10 1 = 1 := by
    rw [← hu, State.regBits, denyAll_devst, reg_of_dcb (writePhys_dcb _ _ _)]
    exact devst_set s (by omega)
  have hfenced : (u.setRegBits 0 (4 + w.leadw.toNat % 4) 1 1).regBits 0 (4 + w.leadw.toNat % 4) 1 = 1 := devst_set u (by omega)
  have hkept : (u.setRegBits 0 (4 + w.leadw.toNat % 4) 1 1).regBits 0 10 1 = 1 := by
    rw [devst_other (m := 10) (k := 1) (by omega) (by omega) (by omega) (by omega) (by omega), htko]
  have hdcb : (beginTakeover s die w).dcb = (u.setRegBits 0 (4 + w.leadw.toNat % 4) 1 1).dcb := by
    rw [← hu]
    rfl
  exact ⟨rfl, beq_iff_eq.2 ((regBits_of_dcb hdcb _ _ _).trans hfenced), (regBits_of_dcb hdcb _ _ _).trans hkept⟩

/-- What a frame-table command leaves alone: DEVST, the pending messages and the takeover. -/
def State.duty (s : State) : W64 × List Nat × Option Nat := (s.reg 0, s.msix, s.takingOver)

theorem setRegBits_duty (s : State) {off : Nat} (lo n v : Nat) (h : 8 ≤ off) : (s.setRegBits off lo n v).duty = s.duty :=
  congrArg (fun x => (x, s.msix, s.takingOver)) (reg_setReg_other s _ (by omega))

theorem setFrame_duty (s : State) (p : Nat) (f : Frame) : (s.setFrame p f).duty = s.duty := rfl

theorem setFlips_duty (s : State) (l : List (Nat × Bool × Nat)) : ({ s with flips := l } : State).duty = s.duty := rfl

theorem fresh_duty (s : State) : s.fresh.2.duty = s.duty := rfl

theorem setMqUsed_duty (s : State) (oid n : Nat) : (setMqUsed s oid n).duty = s.duty := setRegBits_duty s _ _ _ (by unfold mqOff; omega)

theorem zeroFill_duty (s : State) (lin : Bool) (p : Nat) : (zeroFill s lin p).duty = s.duty := by
  unfold zeroFill tearFrame clearFrame recallFrame
  exact writeBacks_keep State.duty (fun _ _ => rfl) _ s

theorem ftAssign_duty (s : State) (p oid : Nat) (lin : Bool) : (ftAssign s p oid lin).2.duty = s.duty := by
  have hfilled (f : Frame) : ((zeroFill s lin p).setFrame p f).duty = s.duty := (setFrame_duty _ _ _).trans (zeroFill_duty s lin p)
  unfold ftAssign
  split
  · rfl
  split
  · rfl
  split
  · rfl
  dsimp only
  split
  · exact hfilled _
  · exact (setMqUsed_duty _ _ _).trans (hfilled _)

theorem ftRelease_duty (s : State) (p : Nat) : (ftRelease s p).2.duty = s.duty := by
  unfold ftRelease
  dsimp only
  split
  · rfl
  dsimp only
  split
  · exact setFrame_duty _ _ _
  · exact (setMqUsed_duty _ _ _).trans (setFrame_duty _ _ _)

theorem ftFlip_duty (s : State) (p : Nat) (toHost : Bool) : (ftFlip s p toHost).duty = s.duty := by
  unfold ftFlip
  dsimp only
  split
  · rw [setFlips_duty, setRegBits_duty _ _ _ _ (by decide), setFrame_duty, fresh_duty]
  · exact setRegBits_duty _ _ _ _ (by decide)

theorem settleFtcmd_duty (s : State) : (settleFtcmd s).duty = s.duty := by
  have hcmd (s : State) (lo n v : Nat) : (s.setRegBits ftcmdOff lo n v).duty = s.duty := setRegBits_duty s lo n v (by decide)
  unfold settleFtcmd
  split
  · refine Eq.trans ?_ (hcmd s 1 1 0)
    unfold runFtcmd
    dsimp only
    split
    · exact (hcmd _ _ _ _).trans (ftAssign_duty _ _ _ _)
    · exact (hcmd _ _ _ _).trans (ftRelease_duty _ _)
    · exact ftFlip_duty _ _ _
    · exact ftFlip_duty _ _ _
    · exact hcmd _ _ _ _
  · rfl

/-- R314. The new leader announces itself, and TKO is 0. -/
theorem endTakeover_leads {s : State} {die : Nat} (hhealthy : healthy s die = true) : (endTakeover s die).takingOver = none ∧
    leader (endTakeover s die) = die ∧ (endTakeover s die).regBits 0 10 1 = 0 ∧ 3 ∈ (endTakeover s die).msix := by
  have hdie := healthy_lt hhealthy
  have hbit : (s.setRegBits 0 8 2 die).regBits 0 die 1 ≠ 0 := by
    rw [devst_other (by omega) (by omega) (by omega) (healthy_bit hhealthy) (by omega)]
    exact healthy_bit hhealthy
  generalize hu : (s.setRegBits 0 8 2 die).setRegBits 0 10 1 0 = u
  have hlead : leader u = die := by
    rw [← hu, leader, devst_other (by omega) (by omega) (by omega) hbit (by omega)]
    exact leader_set hhealthy
  have htko : u.regBits 0 10 1 = 0 := by
    rw [← hu]
    exact (devst_field (by omega) (by omega) (by omega) hbit).trans rfl
  have hduty : (endTakeover s die).duty = (notify { u with takingOver := none } 0 3).duty := by
    unfold endTakeover
    rw [hu]
    exact settleFtcmd_duty _
  have hdcb : (notify { u with takingOver := none } 0 3).dcb = u.dcb := notify_dcb _ _ _
  have hover : (notify { u with takingOver := none } 0 3).takingOver = none := by
    unfold notify
    split <;> rfl
  simp only [State.duty, Prod.mk.injEq] at hduty
  obtain ⟨hreg, hmsix, htaking⟩ := hduty
  rw [reg_of_dcb hdcb] at hreg
  refine ⟨htaking.trans hover, ?_, ?_, ?_⟩
  · rw [leader, State.regBits, hreg]
    exact hlead
  · rw [State.regBits, hreg]
    exact htko
  · rw [hmsix]
    exact mem_notify_msix _ 0 3

end Sys2Proof.Machine
end

section
/-!
PROOF. Clock steps, resets, measurements, rollback records, updates and fatal errors (R311, R384 to R386, R390 to R394).
-/
namespace Sys2Proof.Machine

/-! ## Clock steps -/

theorem getElem?_setAt {α : Type} {l : List α} {i : Nat} {a : α} (x : α) (h : l[i]? = some a) : (setAt l i x)[i]? = some x := by
  induction l generalizing i with
  | nil => simp at h
  | cons y t ih =>
    cases i with
    | zero => rfl
    | succ j => exact ih (by simpa using h)

section Throttle

variable {s : State} {die : Nat} {x : BitVec 2} (hx : s.pwr[die]? = some x)
include hx

theorem throttleDown_steps (hlow : x.toNat < 3) : ∃ t, exec (.throttleDown die) s = .next t ∧ t.pwr[die]? = some (x + 1) := by
  have hstep : BitVec.ofNat 2 (x.toNat + 1) = x + 1 := by bv_omega
  simp only [exec_throttleDown, execThrottleDown, hx]
  refine ⟨_, if_pos hlow, ?_⟩
  rw [← hstep]
  exact getElem?_setAt _ hx

theorem throttleUp_steps (hhigh : 0 < x.toNat) : ∃ t, exec (.throttleUp die) s = .next t ∧ t.pwr[die]? = some (x - 1) := by
  have hstep : BitVec.ofNat 2 (x.toNat - 1) = x - 1 := by bv_omega
  simp only [exec_throttleUp, execThrottleUp, hx]
  refine ⟨_, if_pos hhigh, ?_⟩
  rw [← hstep]
  exact getElem?_setAt _ hx

end Throttle

/-! ## The reset of the device -/

/-- What a reset of the device leaves: nothing at work, and no register written but DEVST. -/
def AtReset (t : State) : Prop := t.blocks = [] ∧ t.dir = [] ∧ t.tlb = [] ∧ t.launches = [] ∧ t.phases = [] ∧ t.elected = false ∧
  ∀ off, off / 8 ≠ 0 → t.reg off = dcbDefault (off / 8)

theorem afterReset_atReset (s : State) : AtReset (afterReset s) := ⟨rfl, rfl, rfl, rfl, rfl, rfl, fun _ _ => rfl⟩

/-- R391. -/
theorem resetDevice_atReset (s : State) : AtReset (resetDevice s) := by
  obtain ⟨hblocks, hdir, htlb, hlaunches, hphases, helected, hregs⟩ := afterReset_atReset (loseCaches s)
  unfold resetDevice
  dsimp only
  split
  · exact ⟨hblocks, hdir, htlb, hlaunches, hphases, helected,
      fun off hoff => (reg_setReg_other _ _ (by simpa using hoff)).trans (hregs off hoff)⟩
  · exact ⟨hblocks, hdir, htlb, hlaunches, hphases, helected, hregs⟩

/-! ## The reset of a function -/

theorem glade_default {g : Nat} (hg : g < 16) : dcbDefault ((0x100000 + 64 * g) / 8) = 0 :=
  dcbDefault_zero (by omega) (by omega) (by omega) (by omega) (by omega)

/-- STATE and RSTEP as setRstep writes them. -/
theorem setRstep_fields (x : W64) {st k : Nat} (hst : st < 16) (hk : k < 16) :
    bitsOf (putBits x 8 8 (st + 16 * k)).toNat 12 4 = k ∧ bitsOf (putBits x 8 8 (st + 16 * k)).toNat 8 4 = st := by
  have hx := x.isLt
  simp only [bitsOf, putBits, BitVec.toNat_ofNat]
  omega

theorem setRstep_of_reg {s : State} {g st k : Nat} (hst : st < 16) (hk : k < 16)
    (hreg : (setRstep s g st k).reg (0x100000 + 64 * g) = putBits (s.reg (0x100000 + 64 * g)) 8 8 (st + 16 * k)) :
    (setRstep s g st k).rstep g = k ∧ (setRstep s g st k).gladeState g = st := by
  unfold State.rstep State.gladeState State.regBits
  rw [hreg]
  exact setRstep_fields _ hst hk

/-- A step of a reset that is not its last is read back in any state. -/
theorem setRstep_reads {s : State} {g st k : Nat} (hg : g < 16) (hst : st < 16) (hk : k < 16) (hk0 : k ≠ 0) :
    (setRstep s g st k).rstep g = k ∧ (setRstep s g st k).gladeState g = st := by
  refine setRstep_of_reg hst hk (reg_setRegBits_of_field (m := 12) (k := 4) ?_)
  rw [(setRstep_fields _ hst hk).1, glade_default hg]
  exact hk0

/-- R386. A step before the last: RSTEP goes up, and STATE is 2, or 3 once the ranges are zero. -/
theorem resetStep_before {s : State} {g n : Nat} (hg : g < 16) (hstep : s.rstep g < 6) :
    (resetStep s g n).rstep g = s.rstep g + 1 ∧ (resetStep s g n).gladeState g = if s.rstep g < 5 then 2 else 3 := by
  have hform : ∃ u, resetStep s g n = setRstep u g (if s.rstep g < 5 then 2 else 3) (s.rstep g + 1) := by
    generalize hk : s.rstep g = k at hstep
    simp only [resetStep, hk]
    obtain rfl | rfl | rfl | rfl | rfl | rfl : k = 0 ∨ k = 1 ∨ k = 2 ∨ k = 3 ∨ k = 4 ∨ k = 5 := by omega
    all_goals exact ⟨_, rfl⟩
  obtain ⟨u, hu⟩ := hform
  rw [hu]
  exact setRstep_reads hg (by split <;> decide) (by omega) (by omega)

/-- R386. The last step: the function is no longer in reset, and says so. -/
theorem resetStep_last {s : State} {g n : Nat} (hstep : s.rstep g = 6) (hs : s.Canonical) :
    (resetStep s g n).rstep g = 0 ∧ (resetStep s g n).gladeState g = 0 ∧ (resetStep s g n).host = s.host ++ [.resetDone n] := by
  have hreads := setRstep_of_reg (s := setPower s n 0) (g := g) (st := 0) (k := 0) (by decide) (by decide)
    (reg_setReg_same (setPower_canonical hs n 0) _ _)
  have hlast : resetStep s g n = tell (setRstep (setPower s n 0) g 0 0) (.resetDone n) := by simp only [resetStep, hstep]
  rw [hlast]
  exact ⟨hreads.1, hreads.2, rfl⟩

/-- R386. Function n takes its next step, unless flips of its frames have still to complete. -/
theorem functionLevelReset_steps {s : State} {n : Nat} (hpos : 0 < n) (hn : n < 17)
    (hflips : s.rstep (n - 1) = 1 → ((gladeFlips s (n - 1)).any fun x => flipWaits s (s.frame x.1).lin x.1 x.2.2) = false) :
    exec (.functionLevelReset n) s = .next (resetStep s (n - 1) n) := by
  refine (if_neg (by omega)).trans ((if_neg (by omega)).trans (if_neg ?_))
  rw [Bool.and_eq_true, beq_iff_eq]
  exact fun h => Bool.eq_false_iff.1 (hflips h.1) h.2

/-! ## SPDM -/

theorem spdm_answers {s : State} {fn : Nat} {r : SpdmRequest} (hfn : fn < 17) (hr : spdmAnswers fn r = true) :
    exec (.spdmGetMeasurements fn r) s = .next (spdmAnswer s fn r) := if_neg (not_or.2 ⟨Nat.not_le.2 hfn, by simp [hr]⟩)

theorem spdmAnswer_certificate (s : State) (fn : Nat) :
    spdmAnswer s fn (.certificate 0) = tell s (.certificate fn 0 Config.certificateChain (signed s Config.certificateChain)) := by
  simp only [spdmAnswer, if_true]

/-! ## Rollback records -/

/-- The checks of R392 on a record, but for its signature. -/
def recordGood (s : State) (x : Nat) : Prop :=
  bitsOf x 0 32 = 0x4E395242 ∧ bitsOf x 448 64 = Config.serial.toNat ∧ s.opCtr.toNat < bitsOf x 416 32 ∧ s.updating = none

theorem recordAccepted_iff {s : State} {x : Nat} :
    recordAccepted s x = true ↔ recordGood s x ∧ Config.operatorSignature (bytesLE 192 x) s.opKey = true := by
  simp only [recordAccepted, recordGood, Bool.and_eq_true, beq_iff_eq, decide_eq_true_eq, Option.isNone_iff_eq_none, and_assoc]

theorem rollbackRecord_refused {s : State} {r : BitVec 1536} (h : recordAccepted s r.toNat = false) :
    exec (.rollbackRecord r) s = .next (tell s (.rollback false)) := if_pos h

theorem opCtr_field (x : Nat) : (BitVec.ofNat 32 (bitsOf x 416 32)).toNat = bitsOf x 416 32 :=
  Nat.mod_eq_of_lt (Nat.mod_lt _ (Nat.two_pow_pos 32))

section Rollback

variable {s : State} {r : BitVec 1536} (h : recordAccepted s r.toNat = true)
include h

theorem rollbackRecord_replacesKey {k : Nat} (hk : Config.newOperatorKey (bytesLE 192 r.toNat) = some k) :
    ∃ t, exec (.rollbackRecord r) s = .next t ∧ t.opCtr.toNat = bitsOf r.toNat 416 32 ∧ t.opKey = k ∧ t.nextBank = s.nextBank := by
  simp only [exec_rollbackRecord, execRollbackRecord, hk]
  exact ⟨_, if_neg (by simp [h]), opCtr_field _, rfl, rfl⟩

theorem rollbackRecord_marksBank (hk : Config.newOperatorKey (bytesLE 192 r.toNat) = none) (htarget : bitsOf r.toNat 408 8 < 2) :
    ∃ t, exec (.rollbackRecord r) s = .next t ∧ t.opCtr.toNat = bitsOf r.toNat 416 32 ∧ t.nextBank = decide (bitsOf r.toNat 408 8 = 1) ∧
      bankCount t t.nextBank = 0 := by
  simp only [exec_rollbackRecord, execRollbackRecord, hk]
  refine ⟨_, (if_neg (by simp [h])).trans (if_neg (Nat.not_le.2 htarget)), opCtr_field _, rfl, ?_⟩
  cases bitsOf r.toNat 408 8 == 1 <;> rfl

theorem rollbackRecord_noBank (hk : Config.newOperatorKey (bytesLE 192 r.toNat) = none) (htarget : 2 ≤ bitsOf r.toNat 408 8) :
    exec (.rollbackRecord r) s = .next (tell s (.rollback false)) := by
  simp only [exec_rollbackRecord, execRollbackRecord, hk]
  exact (if_neg (by simp [h])).trans (if_pos htarget)

end Rollback

/-! ## Updates -/

theorem imageUpdate_starts {s : State} {b : Bool} (hidle : s.updating = none) :
    ∃ t, exec (.firmwareImageUpdate (.start b)) s = .next t ∧ t.updating = some b := by
  simp only [exec_firmwareImageUpdate, execFirmwareImageUpdate, hidle]
  exact ⟨_, rfl, rfl⟩

theorem imageUpdate_finishes {s : State} {b : Bool} (hrun : s.updating = some b) :
    ∃ t, exec (.firmwareImageUpdate .finish) s = .next t ∧ t.updating = none ∧ imageOf t b = s.uids + 2 ∧
      imageOf t (!b) = imageOf s (!b) := by
  simp only [exec_firmwareImageUpdate, execFirmwareImageUpdate, hrun]
  refine ⟨_, rfl, rfl, ?_⟩
  cases b <;> exact ⟨rfl, rfl⟩

theorem fatalError_recorded {s : State} {cause : FatalCause} (hruns : s.fatal = false)
    (hcause : cause = .everyServicePairFailed → s.regBits 0 0 4 = 0) :
    exec (.fatalError cause) s = .next (fatalError s cause) :=
  if_neg (not_or.2 ⟨Bool.eq_false_iff.1 hruns, fun h => h.2 (hcause h.1)⟩)

/-- Settles O48: each event of the service pairs and of the root of trust has a lemma that says what it does where it completes. -/
theorem serviceEventsComplete : Obligations.ServiceEventsComplete := by
  unfold Obligations.ServiceEventsComplete
  refine ⟨fun s hnone => ⟨fun d => leaderElection_elects hnone, leaderElection_fails hnone⟩, fun s die => lockstepMismatch_halts,
    fun s => heartbeat_beats, fun s die => heartbeatTimeout_waits, ?_, ?_, fun s die x hx => ⟨throttleDown_steps hx, throttleUp_steps hx⟩,
    ?_, ?_, ?_, ?_, fun s b => ⟨imageUpdate_starts, imageUpdate_finishes⟩, fun s cause => fatalError_recorded⟩
  · intro s die w hw hhealthy hidle hhbw hleadw
    rw [takeoverAttempt_next hw hhealthy hidle hhbw hleadw]
    refine ⟨fun hchanged => congrArg Host.Outcome.next (if_pos hchanged), fun hallow hhbw' hleadw' => ⟨_, rfl, ?_⟩⟩
    rw [if_neg (by simp [hallow, hhbw', hleadw'])]
    exact beginTakeover_fences _ die w
  · intro s die htaking hhealthy
    exact ⟨_, (if_pos htaking).trans (if_pos hhealthy), endTakeover_leads hhealthy⟩
  · intro s
    exact ⟨_, rfl, rfl, resetDevice_atReset s⟩
  · intro s n hpos hn hflips
    exact ⟨_, functionLevelReset_steps hpos hn hflips, rfl, resetStep_before (by omega), resetStep_last⟩
  · intro s fn hfn
    refine ⟨fun idx hidx => spdm_answers (r := .measurement idx) hfn hidx, spdm_answers hfn rfl,
      (spdm_answers hfn rfl).trans (congrArg _ (spdmAnswer_certificate s fn)),
      ⟨_, spdm_answers hfn rfl, ?_⟩, ⟨_, spdm_answers hfn rfl, ?_⟩⟩
    · exact List.contains_iff_mem.2 List.mem_cons_self
    · exact Bool.eq_false_iff.2 fun h => by simp [spdmAnswer, tell] at h
  · intro s r x good
    by_cases hgood : good
    · refine ⟨fun _ => ?_, fun hbad => absurd hgood hbad⟩
      split
      next hsig =>
        have haccept := recordAccepted_iff.2 ⟨hgood, hsig⟩
        split
        next k hk => exact rollbackRecord_replacesKey haccept hk
        next hk =>
          split
          next htarget => exact rollbackRecord_marksBank haccept hk htarget
          next htarget => exact rollbackRecord_noBank haccept hk (Nat.not_lt.1 htarget)
      next hsig => exact rollbackRecord_refused (Bool.eq_false_iff.2 fun h => hsig (recordAccepted_iff.1 h).2)
    · exact ⟨fun h => absurd h hgood, fun _ => rollbackRecord_refused (Bool.eq_false_iff.2 fun h => hgood (recordAccepted_iff.1 h).1)⟩

end Sys2Proof.Machine
end

section
/-!
PROOF. Encoding: the codes of types and operands (Tables 2.6 and 2.8), the number of a word and its fields (Table 2.3), and the decoder
and the encoder, each other's inverse on well-formed instructions (R32, R37, R41).
-/
namespace Sys2Proof

/-! ## Codes of types and operands -/

theorem Ty.code_lt (t : Ty) : t.code < 2 ^ 5 := by cases t <;> decide

theorem Ty.ofCode_code (t : Ty) : Ty.ofCode t.code = t := by cases t <;> rfl

theorem Ty.code_injective {a b : Ty} (h : a.code = b.code) : a = b := by
  rw [← a.ofCode_code, h, b.ofCode_code]

theorem Ty.code_ofCode (n : Nat) : (Ty.ofCode (n % 2 ^ 5)).code = n % 2 ^ 5 := by
  have hall : ∀ k : Fin 32, (Ty.ofCode k).code = k := by decide
  exact hall ⟨n % 2 ^ 5, Nat.mod_lt _ (by decide)⟩

theorem Operand.code_lt (o : Operand) : o.code < 2 ^ 10 := by
  cases o <;> simp only [Operand.code] <;> omega

/-- The code of an operand lies in its kind's range and in none of those before it. -/
theorem Operand.ofCode_code (o : Operand) : Operand.ofCode o.code = o := by
  generalize hc : o.code = c
  cases o <;> simp only [Operand.code] at hc <;>
    simp (disch := omega) only [Operand.ofCode, ↓dif_neg, ↓dif_pos, ↓if_neg, ↓if_pos] <;> grind

theorem Operand.code_injective {a b : Operand} (h : a.code = b.code) : a = b := by
  rw [← a.ofCode_code, h, b.ofCode_code]

theorem Operand.code_ofCode (n : Nat) : (Operand.ofCode (n % 2 ^ 10)).code = n % 2 ^ 10 := by
  have hlt : n % 2 ^ 10 < 2 ^ 10 := Nat.mod_lt _ (by decide)
  fun_cases Operand.ofCode (n % 2 ^ 10) <;> simp only [Operand.code] <;> omega

/-! ## Numbers written digit by digit -/

/-- A number's lowest digit, below `m`, and the rest above it are determined by the number. -/
theorem digit_inj {a a' b b' m : Nat} (ha : a < m) (ha' : a' < m) (h : a + m * b = a' + m * b') : a = a' ∧ b = b' := by
  have hdiv : ∀ {x : Nat} (y : Nat), x < m → (x + m * y) / m = y := fun y hx => by
    rw [Nat.add_mul_div_left _ _ (by omega), Nat.div_eq_of_lt hx, Nat.zero_add]
  have hb : b = b' := by rw [← hdiv b ha, h, hdiv b' ha']
  exact ⟨by subst hb; omega, hb⟩

theorem digit_lt {a b m n : Nat} (ha : a < m) (hb : b < n) : a + m * b < m * n :=
  calc a + m * b < m + m * b := by omega
    _ = m * (b + 1) := by ring
    _ ≤ m * n := Nat.mul_le_mul_left m hb

theorem bool_toNat_inj {a b : Bool} (h : a.toNat = b.toNat) : a = b := by cases a <;> cases b <;> trivial

theorem toNat_mod_two_beq (n : Nat) : (n % 2 == 1).toNat = n % 2 := by
  rcases Nat.mod_two_eq_zero_or_one n with h | h <;> simp [h]

/-! ## The number of a word (Table 2.3) -/

/-- The number of a word whose bits 123:121 hold `res`. -/
def wordOf (opc : Nat) (f : Fields) (res : Nat) : Nat :=
  opc + 2 ^ 10 * (f.ty.code + 2 ^ 5 * (f.op0.code + 2 ^ 10 * (f.op1.code + 2 ^ 10 * (f.op2.code + 2 ^ 10 * (f.op3.code +
    2 ^ 10 * (f.op4.code + 2 ^ 10 * (f.sm1.toNat + 2 ^ 12 * (f.sm2.toNat + 2 ^ 12 * (f.sm3.toNat + 2 ^ 12 * (f.ga.toNat +
    2 ^ 4 * (f.gan.toNat + 2 * (f.gb.toNat + 2 ^ 4 * (f.gbn.toNat + 2 * (f.gc.toNat + 2 * (f.hint.toNat +
    2 ^ 3 * (f.stall.toNat + 2 ^ 4 * (f.yld.toNat + 2 * (f.fsel.toNat + 2 * (res + 2 ^ 3 * f.ro.toNat)))))))))))))))))))

theorem wordOf_zero (opc : Nat) (f : Fields) : wordOf opc f 0 = wordNat opc f := by
  unfold wordOf wordNat
  rw [Nat.zero_add]

theorem wordOf_lt {opc res : Nat} (hopc : opc < 2 ^ 10) (f : Fields) (hres : res < 2 ^ 3) : wordOf opc f res < 2 ^ 128 :=
  calc
    wordOf opc f res < 2 ^ 10 * (2 ^ 5 * (2 ^ 10 * (2 ^ 10 * (2 ^ 10 * (2 ^ 10 * (2 ^ 10 * (2 ^ 12 * (2 ^ 12 * (2 ^ 12 * (2 ^ 4 *
        (2 * (2 ^ 4 * (2 * (2 * (2 ^ 3 * (2 ^ 4 * (2 * (2 * (2 ^ 3 * 2 ^ 4))))))))))))))))))) :=
      digit_lt hopc <| digit_lt f.ty.code_lt <| digit_lt f.op0.code_lt <| digit_lt f.op1.code_lt <| digit_lt f.op2.code_lt <|
        digit_lt f.op3.code_lt <| digit_lt f.op4.code_lt <| digit_lt f.sm1.isLt <| digit_lt f.sm2.isLt <| digit_lt f.sm3.isLt <|
        digit_lt f.ga.isLt <| digit_lt f.gan.toNat_lt <| digit_lt f.gb.isLt <| digit_lt f.gbn.toNat_lt <| digit_lt f.gc.toNat_lt <|
        digit_lt f.hint.isLt <| digit_lt f.stall.isLt <| digit_lt f.yld.toNat_lt <| digit_lt f.fsel.toNat_lt <|
        digit_lt hres f.ro.isLt
    _ = 2 ^ 128 := by norm_num

/-- The fields read from a number, put together again, are the number's lowest 128 bits. -/
theorem wordOf_fieldsOf {w : Nat} (h : w < 2 ^ 128) : wordOf (fieldsOf w).1 (fieldsOf w).2.1 (fieldsOf w).2.2 = w := by
  unfold fieldsOf wordOf
  dsimp only
  simp only [Ty.code_ofCode, Operand.code_ofCode, BitVec.toNat_ofNat, Nat.mod_mod, toNat_mod_two_beq, ← Nat.mod_mul]
  exact Nat.mod_eq_of_lt h

/-- No bit of a field is lost in a word: the fields follow from its number, the lowest first. -/
theorem wordOf_injective {opc opc' res res' : Nat} {f f' : Fields} (hopc : opc < 2 ^ 10) (hopc' : opc' < 2 ^ 10) (hres : res < 2 ^ 3)
    (hres' : res' < 2 ^ 3) (h : wordOf opc f res = wordOf opc' f' res') : opc = opc' ∧ f = f' ∧ res = res' := by
  obtain ⟨eopc, h⟩ := digit_inj hopc hopc' h
  obtain ⟨ety, h⟩ := digit_inj f.ty.code_lt f'.ty.code_lt h
  obtain ⟨e0, h⟩ := digit_inj f.op0.code_lt f'.op0.code_lt h
  obtain ⟨e1, h⟩ := digit_inj f.op1.code_lt f'.op1.code_lt h
  obtain ⟨e2, h⟩ := digit_inj f.op2.code_lt f'.op2.code_lt h
  obtain ⟨e3, h⟩ := digit_inj f.op3.code_lt f'.op3.code_lt h
  obtain ⟨e4, h⟩ := digit_inj f.op4.code_lt f'.op4.code_lt h
  obtain ⟨esm1, h⟩ := digit_inj f.sm1.isLt f'.sm1.isLt h
  obtain ⟨esm2, h⟩ := digit_inj f.sm2.isLt f'.sm2.isLt h
  obtain ⟨esm3, h⟩ := digit_inj f.sm3.isLt f'.sm3.isLt h
  obtain ⟨ega, h⟩ := digit_inj f.ga.isLt f'.ga.isLt h
  obtain ⟨egan, h⟩ := digit_inj f.gan.toNat_lt f'.gan.toNat_lt h
  obtain ⟨egb, h⟩ := digit_inj f.gb.isLt f'.gb.isLt h
  obtain ⟨egbn, h⟩ := digit_inj f.gbn.toNat_lt f'.gbn.toNat_lt h
  obtain ⟨egc, h⟩ := digit_inj f.gc.toNat_lt f'.gc.toNat_lt h
  obtain ⟨ehint, h⟩ := digit_inj f.hint.isLt f'.hint.isLt h
  obtain ⟨estall, h⟩ := digit_inj f.stall.isLt f'.stall.isLt h
  obtain ⟨eyld, h⟩ := digit_inj f.yld.toNat_lt f'.yld.toNat_lt h
  obtain ⟨efsel, h⟩ := digit_inj f.fsel.toNat_lt f'.fsel.toNat_lt h
  obtain ⟨eres, ero⟩ := digit_inj hres hres' h
  refine ⟨eopc, ?_, eres⟩
  cases f
  cases f'
  simp only [Fields.mk.injEq]
  exact ⟨BitVec.eq_of_toNat_eq ero, bool_toNat_inj efsel, bool_toNat_inj eyld, BitVec.eq_of_toNat_eq estall,
    BitVec.eq_of_toNat_eq ehint, bool_toNat_inj egc, bool_toNat_inj egbn, BitVec.eq_of_toNat_eq egb, bool_toNat_inj egan,
    BitVec.eq_of_toNat_eq ega, BitVec.eq_of_toNat_eq esm3, BitVec.eq_of_toNat_eq esm2, BitVec.eq_of_toNat_eq esm1,
    Operand.code_injective e4, Operand.code_injective e3, Operand.code_injective e2, Operand.code_injective e1,
    Operand.code_injective e0, Ty.code_injective ety⟩

theorem fieldsOf_wordNat {opc : Nat} (h : opc < 2 ^ 10) (f : Fields) : fieldsOf (wordNat opc f) = (opc, f, 0) := by
  rw [← wordOf_zero]
  obtain ⟨hopc, hf, hres⟩ := wordOf_injective (Nat.mod_lt _ (by decide)) h (Nat.mod_lt _ (by decide)) (by decide)
    (wordOf_fieldsOf (wordOf_lt h f (by decide : 0 < 2 ^ 3)))
  exact Prod.ext hopc (Prod.ext hf hres)

theorem wordNat_fieldsOf {w opc : Nat} {f : Fields} (hw : w < 2 ^ 128) (h : fieldsOf w = (opc, f, 0)) : wordNat opc f = w := by
  rw [← wordOf_zero]
  simpa [h] using wordOf_fieldsOf hw

/-! ## Opcodes and constructors -/

/-- The row that the opcode map selects has the opcode and the fields as its parts, whichever operand selects among an opcode's rows. -/
theorem parts_of_instrOf {opc : Nat} {f : Fields} {i : Instr} (h : instrOf opc f = some i) : i.parts = some (opc, f) := by
  unfold instrOf at h
  split_ifs at h
  · unfold instrArith at h
    split at h <;> cases h <;> rfl
  · unfold instrLanes at h
    split at h <;> cases h <;> (try split_ifs) <;> rfl
  · unfold instrMemory at h
    split at h <;> cases h <;> rfl
  · unfold instrSystem at h
    split at h <;> cases h <;> (try split_ifs) <;> rfl

theorem opcode_lt {opc : Nat} {f : Fields} {i : Instr} (h : i.parts = some (opc, f)) : opc < 2 ^ 10 := by
  cases i <;> cases h <;> decide

/-! ## The decoder and the encoder -/

theorem decode_eq_ok {w : W128} {i : Instr} : decode w = .ok i ↔
    ∃ opc f, fieldsOf w.toNat = (opc, f, 0) ∧ check opc f = .ok () ∧ instrOf opc f = some i := by
  unfold decode
  rcases fieldsOf w.toNat with ⟨opc, f, res⟩
  dsimp only
  by_cases hres : res = 0
  · subst hres
    rcases hcheck : check opc f with e | u <;> rcases hrow : instrOf opc f with _ | j <;> simp [hcheck, hrow]
  · simp [hres]

theorem wf_iff {i : Instr} {opc : Nat} {f : Fields} (h : i.parts = some (opc, f)) :
    i.wf = true ↔ check opc f = .ok () ∧ instrOf opc f = some i := by
  unfold Instr.wf
  rw [h]
  cases hcheck : check opc f <;> simp [hcheck]

theorem encode_eq_some {i : Instr} {w : W128} :
    encode i = some w ↔ ∃ opc f, i.parts = some (opc, f) ∧ w = BitVec.ofNat 128 (wordNat opc f) := by
  unfold encode
  rcases i.parts with _ | ⟨opc, f⟩
  · simp
  · simp [eq_comm]

theorem fieldsOf_encoded {opc : Nat} (h : opc < 2 ^ 10) (f : Fields) :
    fieldsOf (BitVec.ofNat 128 (wordNat opc f)).toNat = (opc, f, 0) := by
  rw [BitVec.toNat_ofNat, Nat.mod_eq_of_lt (wordOf_zero opc f ▸ wordOf_lt h f (by decide)), fieldsOf_wordNat h]

/-- Settles O53: the fields of the instruction's word are the instruction's own, which pass the checks and select its row. -/
theorem decodeOfEncode : Obligations.DecodeOfEncode := by
  unfold Obligations.DecodeOfEncode
  intro i w hwf hw
  obtain ⟨opc, f, hparts, rfl⟩ := encode_eq_some.1 hw
  obtain ⟨hcheck, hrow⟩ := (wf_iff hparts).1 hwf
  exact decode_eq_ok.2 ⟨opc, f, fieldsOf_encoded (opcode_lt hparts) f, hcheck, hrow⟩

/-- Settles O54: the fields of an accepted word are the parts of the instruction that it decodes to, and their number is the word's. -/
theorem encodeOfDecode : Obligations.EncodeOfDecode := by
  unfold Obligations.EncodeOfDecode
  intro i w h
  obtain ⟨opc, f, hfields, hcheck, hrow⟩ := decode_eq_ok.1 h
  have hparts := parts_of_instrOf hrow
  refine ⟨(wf_iff hparts).2 ⟨hcheck, hrow⟩, encode_eq_some.2 ⟨opc, f, hparts, ?_⟩⟩
  rw [wordNat_fieldsOf w.isLt hfields, BitVec.ofNat_toNat, BitVec.setWidth_eq]

/-! ## Words of the manual -/

/-- The table's reading of a well-formed instruction's own word. -/
theorem decodeTableWord_of_encode {n w : Nat} {i : Instr} (hwf : i.wf = true) (h : encode i = some (BitVec.ofNat 128 w)) :
    decodeTableWord n w = some i := by
  unfold decodeTableWord
  rw [decodeOfEncode i _ hwf h]

/-- Settles O52: each instruction is well formed and encodes to the manual's word, so the word decodes to it. -/
theorem specWordsDecode : Obligations.SpecWordsDecode := by
  unfold Obligations.SpecWordsDecode
  repeat' apply And.intro
  all_goals exact decodeTableWord_of_encode (by decide) (by decide)

end Sys2Proof
end

section
/-!
PROOF. Steps and stores: the words of a clause and the issue of an entry's word (R26, R42), and stores (R30, R161, R162).
-/
namespace Sys2Proof.Machine

/-! ## The words of a clause (R26) -/

/-- A fold over `0, …, n - 1` that ends well has ended well at every turn, so it keeps a property of the turns done. -/
theorem foldl_range_ok {ε β : Type} {g : Except ε β → Nat → Except ε β} {P : Nat → β → Prop}
    (hg : ∀ {acc i y}, g acc i = .ok y → ∃ x, acc = .ok x ∧ (P i x → P (i + 1) y)) {x : β} (hx : P 0 x) {n : Nat} {y : β}
    (h : (List.range n).foldl g (.ok x) = .ok y) : P n y := by
  induction n generalizing y with
  | zero =>
    cases h
    exact hx
  | succ n ih =>
    rw [List.range_succ, List.foldl_append] at h
    obtain ⟨z, hz, hstep⟩ := hg h
    exact hstep (ih hz)

/-- The words of a list are those in memory from an address on. -/
def WordsFrom (s : State) (b : Block) (a : Nat) (l : List W128) : Prop := ∀ k w, l[k]? = some w → fetchWord s b (a + 16 * k) = .ok w

theorem wordsFrom_singleton {s : State} {b : Block} {a : Nat} {h : W128} (hh : fetchWord s b a = .ok h) : WordsFrom s b a [h] := by
  intro k w hk
  cases k with
  | zero =>
    cases hk
    exact hh
  | succ k => simp at hk

theorem wordsFrom_append {s : State} {b : Block} {a : Nat} {l : List W128} {x : W128} (hl : WordsFrom s b a l)
    (hx : fetchWord s b (a + 16 * l.length) = .ok x) : WordsFrom s b a (l ++ [x]) := by
  intro k w hk
  rcases lt_trichotomy k l.length with hlt | rfl | hgt
  · exact hl k w (by rwa [List.getElem?_append_left hlt] at hk)
  · rw [List.getElem?_concat_length] at hk
    cases hk
    exact hx
  · rw [List.getElem?_eq_none (by simp; omega)] at hk
    cases hk

theorem fetchClause_words {s : State} {b : Block} {a : Nat} {l : List W128} (h : fetchClause s b a = .ok l) : WordsFrom s b a l := by
  unfold fetchClause at h
  split at h
  · cases h
  · next hd hhd =>
    split at h
    · cases h
      exact wordsFrom_singleton hhd
    · refine (foldl_range_ok (P := fun n l => l.length = n + 1 ∧ WordsFrom s b a l) ?_ ⟨rfl, wordsFrom_singleton hhd⟩ h).2
      intro acc i y hy
      split at hy
      · cases hy
      · split at hy
        · cases hy
        · next x hx =>
          cases hy
          exact ⟨_, rfl, fun ⟨hlen, hl⟩ => ⟨by simp [hlen], wordsFrom_append hl (hlen ▸ hx)⟩⟩

/-! ## The issue of an entry's word (R41, R42) -/

/-- The issue of an entry that is due and in its turn at a word that does not decode is the illegal-instruction fault. -/
theorem runIssue_eq_fault {s : State} {r : ERef} {c : Ctx} {w : W128} {e : DecodeError} (hc : ctxOf (toIssue s r) = some c)
    (hdue : c.e.notBefore ≤ c.clk) (hturn : outOfTurn s r = false) (hw : c.e.word = some w) (hd : decode w = .error e) :
    runIssue s r = .next (takeFault (toIssue s r) c 1 0 0 c.e.mask) := by
  simp [runIssue, hc, hturn, Nat.not_lt.2 hdue, execCur, hw, hd]

/-- Settles O50: the step's move is the entry's issue, which decodes its word; and a clause is fetched word by word. -/
theorem stepRunsTheDecodedInstruction : Obligations.StepRunsTheDecodedInstruction := by
  unfold Obligations.StepRunsTheDecodedInstruction
  refine ⟨?_, fun s b a l h => fetchClause_words h⟩
  intro s r rest c w hagenda hfatal hturn s0 hc hdue hw
  refine ⟨fun i t hd hx => step_of_runIssue hagenda hfatal ?_, fun e hd => step_of_runIssue hagenda hfatal ?_⟩
  · exact (runIssue_eq_exec hc hdue hturn hw hd).trans hx
  · exact runIssue_eq_fault hc hdue hturn hw hd

/-! ## Stores -/

/-- R161, R162. A store whose operands are legal and whose access passes its checks stores its lanes' bytes in ascending order. -/
theorem storing_goesOn {opc : Nat} {stash : Bool} {f : Fields} {s : State} {c : Ctx} {al : List Nat} {w w1 : Wave} {bs : List (List Byte)}
    {sp : List (Nat × Spot)} (hst : Stands opc f s c) (hone : isScalar opc f = true ∨ oneScalar f (positions [1, 3]) = true)
    (hbytes : storeBytes s.begun c opc f (isScalar opc f) (c.parts f) (countOf f.op4) = .ok (bs, w1))
    (hreach : Reaching s.begun c f stash (isScalar opc f) (elemWidth f.ty / 8) (elemWidth f.ty / 8 * countOf f.op4)
      (accLanes (isScalar opc f) (c.parts f)) { rd := false, wr := true } al w sp) :
    storing opc stash f s =
      goesOn c f (countPops (storeLanes (s.begun.withWave c w1) c f.hint.toNat al bs sp) c f 0b01000) := by
  obtain ⟨haddr, hspots⟩ := hreach
  have hlegal : ¬ (!isScalar opc f && !oneScalar f 0b01010) = true := by
    rcases hone with h | h
    · simp [h]
    · simp [show oneScalar f 0b01010 = true from h]
  refine issue_goesOn hst ?_
  dsimp only
  rw [if_neg hlegal]
  simp only [haddr, hbytes, hspots]

/-- Settles O18: ST and STS have the shared shape of a store, to memory and to the stash. -/
theorem storesComplete : Obligations.StoresComplete := by
  unfold Obligations.StoresComplete
  intro f s c i opc stash al w w1 bs sp hi hst k e scalar hone hbytes hreach
  obtain ⟨rfl, rfl, rfl⟩ | ⟨rfl, rfl, rfl⟩ := hi <;> exact storing_goesOn hst hone hbytes hreach

end Sys2Proof.Machine
end

section
/-!
PROOF. The frame of the instructions that compute a value (R42, R74, R75): what a change of one wave leaves of the device, what reading
sources pops, what a result writes, and what the entry's going on moves.
-/
namespace Sys2Proof.Machine

/-! ## Changes of one wave -/

theorem mapWave_blocks_congr {s t : State} (h : s.blocks = t.blocks) (u n : Nat) (g : Wave → Wave) :
    (s.mapWave u n g).blocks = (t.mapWave u n g).blocks := by
  simp only [State.mapWave, State.mapBlock, h]

theorem onlyWave_mapWave (s : State) (r : WRef) (g : Wave → Wave) : OnlyWave r g s (s.mapWave r.blk r.wave g) := ⟨rfl, rfl⟩

theorem onlyWave_refl (r : WRef) (s : State) : OnlyWave r (fun w => w) s s := by
  refine ⟨rfl, ?_⟩
  simp only [State.mapWave, State.mapBlock, Block.mapWave, updWhere_id]

/-- Two changes of one wave in turn are one change. -/
theorem OnlyWave.trans {r : WRef} {g h : Wave → Wave} {s t u : State} (hst : OnlyWave r g s t) (htu : OnlyWave r h t u)
    (hg : ∀ w : Wave, w.wave = r.wave → (g w).wave = r.wave) : OnlyWave r (h ∘ g) s u := by
  obtain ⟨hs, hblocks⟩ := hst
  obtain ⟨ht, hblocks'⟩ := htu
  constructor
  · calc { u with blocks := s.blocks, uids := s.uids, free := s.free }
        = { { u with blocks := t.blocks, uids := t.uids, free := t.free } with blocks := s.blocks, uids := s.uids, free := s.free } := rfl
      _ = { t with blocks := s.blocks, uids := s.uids, free := s.free } := by rw [ht]
      _ = s := hs
  · rw [hblocks', mapWave_blocks_congr hblocks, mapWave_mapWave s r.blk r.wave g h hg]

theorem SameQueues.refl (w : Wave) : SameQueues w w := ⟨rfl, rfl, rfl, rfl, rfl, rfl⟩

theorem SameQueues.trans {u v w : Wave} (h1 : SameQueues u v) (h2 : SameQueues v w) : SameQueues u w := by
  obtain ⟨a2, a4, a6, ae, a7, aq⟩ := h1
  obtain ⟨b2, b4, b6, be, b7, bq⟩ := h2
  exact ⟨b2.trans a2, b4.trans a4, b6.trans a6, be.trans ae, b7.trans a7, bq.trans aq⟩

/-! ## The entry goes on (R11, R42) -/

/-- What the entry's going on does to its wave: its index moves on, and the wave is settled. -/
def goOnWave (c : Ctx) (f : Fields) (s : State) (w : Wave) : Wave :=
  let g (e : Entry) : Entry := { e with idx := e.idx + 1, hold := .none, done := 0, notBefore := max e.notBefore (nextClk c f) }
  settleWave (s.mapEntry c.ref g) c.b (w.mapEntry c.ref.lane g)

theorem advance_onlyWave (c : Ctx) (f : Fields) (s : State) :
    OnlyWave { blk := c.ref.blk, wave := c.ref.wave } (goOnWave c f s) s (advance c f s) :=
  (onlyWave_mapWave s { blk := c.ref.blk, wave := c.ref.wave } _).trans (onlyWave_mapWave _ { blk := c.ref.blk, wave := c.ref.wave } _)
    fun _ h => h

theorem goOnWave_same (d : List Reg) (c : Ctx) (f : Fields) (s : State) (w : Wave) : SameOutside d w (goOnWave c f s w) :=
  (mapEntry_same d w _ _).trans (settleWave_same d _ _ _)

theorem goOnWave_queues (c : Ctx) (f : Fields) (s : State) (w : Wave) : SameQueues w (goOnWave c f s w) :=
  settleWave_queues _ _ (w.mapEntry c.ref.lane _)

/-- Settling after a placement changes one wave, and of it neither registers nor queues. -/
theorem settleAt_onlyWave (s : State) (r : WRef) :
    ∃ g, OnlyWave r g s (settleAt s r) ∧ ∀ w, SameOutside [] w (g w) ∧ SameQueues w (g w) := by
  unfold settleAt
  split
  · exact ⟨fun w => w, onlyWave_refl r s, fun w => ⟨SameOutside.refl _ w, SameQueues.refl w⟩⟩
  · next b v hw => exact ⟨settleWave s b, onlyWave_mapWave s r _, fun w => ⟨settleWave_same _ s b w, settleWave_queues s b w⟩⟩

/-! ## Reading sources -/

/-- `w'` is `w` with elements popped from the front of the queues in `names`. -/
structure Pops (names : Fin 8 → Bool) (w w' : Wave) : Prop where
  e2 : ∃ n, w'.e2 = w.e2.drop n ∧ (names 2 = false → n = 0)
  e4 : ∃ n, w'.e4 = w.e4.drop n ∧ (names 4 = false → n = 0)
  e6 : ∃ n, w'.e6 = w.e6.drop n ∧ (names 6 = false → n = 0 ∧ w'.seqE = w.seqE)
  e7 : ∃ n, w'.e7 = w.e7.drop n ∧ (names 7 = false → n = 0)
  rest : w' = { w with e2 := w'.e2, e4 := w'.e4, e6 := w'.e6, seqE := w'.seqE, e7 := w'.e7 }

theorem drop_drop_of {α : Type} {a b : Bool} {x y z : List α} (hxy : ∃ n, y = x.drop n ∧ (a = false → n = 0))
    (hyz : ∃ n, z = y.drop n ∧ (b = false → n = 0)) : ∃ n, z = x.drop n ∧ ((a || b) = false → n = 0) := by
  obtain ⟨m, rfl, hm⟩ := hxy
  obtain ⟨n, rfl, hn⟩ := hyz
  refine ⟨m + n, List.drop_drop, fun h => ?_⟩
  rw [Bool.or_eq_false_iff] at h
  rw [hm h.1, hn h.2]

theorem Pops.refl (names : Fin 8 → Bool) (w : Wave) : Pops names w w :=
  ⟨⟨0, rfl, fun _ => rfl⟩, ⟨0, rfl, fun _ => rfl⟩, ⟨0, rfl, fun _ => ⟨rfl, rfl⟩⟩, ⟨0, rfl, fun _ => rfl⟩, rfl⟩

theorem Pops.trans {a b : Fin 8 → Bool} {u v w : Wave} (huv : Pops a u v) (hvw : Pops b v w) : Pops (fun n => a n || b n) u w := by
  refine ⟨drop_drop_of huv.e2 hvw.e2, drop_drop_of huv.e4 hvw.e4, ?_, drop_drop_of huv.e7 hvw.e7, ?_⟩
  · obtain ⟨m, hm, hm'⟩ := huv.e6
    obtain ⟨n, hn, hn'⟩ := hvw.e6
    refine ⟨m + n, by rw [hn, hm, List.drop_drop], fun h => ?_⟩
    rw [Bool.or_eq_false_iff] at h
    obtain ⟨rfl, hv⟩ := hm' h.1
    obtain ⟨rfl, hw⟩ := hn' h.2
    exact ⟨rfl, hw.trans hv⟩
  · rw [hvw.rest, huv.rest]

theorem Pops.same {names : Fin 8 → Bool} {w w' : Wave} (h : Pops names w w') (d : List Reg) : SameOutside d w w' := by
  rw [h.rest]
  exact SameOutside.refl d w

theorem Pops.q_eq {names : Fin 8 → Bool} {w w' : Wave} (h : Pops names w w') : w'.q = w.q := by rw [h.rest]

theorem pops_e2 {names : Fin 8 → Bool} (hn : names 2 = true) {w : Wave} {t : List (List W32)} (ht : t <:+ w.e2) :
    Pops names w { w with e2 := t } :=
  { Pops.refl names w with e2 := ⟨_, List.suffix_iff_eq_drop.1 ht, fun h => by rw [hn] at h; cases h⟩, rest := rfl }

theorem pops_e4 {names : Fin 8 → Bool} (hn : names 4 = true) {w : Wave} {t : List W32} (ht : t <:+ w.e4) :
    Pops names w { w with e4 := t } :=
  { Pops.refl names w with e4 := ⟨_, List.suffix_iff_eq_drop.1 ht, fun h => by rw [hn] at h; cases h⟩, rest := rfl }

theorem pops_e6 {names : Fin 8 → Bool} (hn : names 6 = true) {w : Wave} {t : List (W32 × BitVec 8)} (ht : t <:+ w.e6) (q : BitVec 8) :
    Pops names w { w with e6 := t, seqE := q } :=
  { Pops.refl names w with e6 := ⟨_, List.suffix_iff_eq_drop.1 ht, fun h => by rw [hn] at h; cases h⟩, rest := rfl }

theorem pops_e7 {names : Fin 8 → Bool} (hn : names 7 = true) {w : Wave} {t : List Masked} (ht : t <:+ w.e7) :
    Pops names w { w with e7 := t } :=
  { Pops.refl names w with e7 := ⟨_, List.suffix_iff_eq_drop.1 ht, fun h => by rw [hn] at h; cases h⟩, rest := rfl }

theorem suffix_of_eq_cons {α : Type} {x : α} {t l : List α} (h : l = x :: t) : t <:+ l := h ▸ List.suffix_cons x t

/-- A readable queue gives its front element; of e6, that of what is not stale (R25, R192, R221, R284). -/
theorem popE_pops {names : Fin 8 → Bool} {n : Fin 8} (hn : names n = true) {s : State} {c : Ctx} {w w' : Wave} {scalar : Bool}
    {l : List W32} (h : popE s c w n scalar = .ok (l, w')) : Pops names w w' := by
  unfold popE at h
  split at h
  case h_1 h2 =>
    obtain rfl : n = 2 := Fin.ext h2
    split at h
    · cases h
    · split at h
      · cases h
      · next hq =>
        cases h
        exact pops_e2 hn (suffix_of_eq_cons hq)
  case h_2 h4 =>
    obtain rfl : n = 4 := Fin.ext h4
    split at h
    · cases h
    · next hq =>
      cases h
      exact pops_e4 hn (suffix_of_eq_cons hq)
  case h_3 h6 =>
    obtain rfl : n = 6 := Fin.ext h6
    dsimp only at h
    split at h
    · cases h
    · split at h
      · split at h
        · cases h
        · next hq =>
          split at h
          · cases h
            exact pops_e6 hn ((suffix_of_eq_cons hq).trans (List.dropWhile_suffix _)) _
          · cases h
      · split at h
        · cases h
        · next hq =>
          cases h
          exact pops_e6 hn (suffix_of_eq_cons hq) _
  case h_4 h7 =>
    obtain rfl : n = 7 := Fin.ext h7
    split at h
    · cases h
    · next hq =>
      cases h
      exact pops_e7 hn (suffix_of_eq_cons hq)
  case h_5 => cases h

/-- Of the operand kinds only a queue changes the wave that reads it. -/
theorem readFrom_pops {s : State} {c : Ctx} {w w' : Wave} {o : Operand} {t : Ty} {scalar : Bool} {rs : Reads} {l : List Nat}
    (h : readFrom s c w o t scalar rs = .ok (l, w')) : Pops (fun n => o == .e n) w w' := by
  have hconst : ∀ {x : Option Nat}, (match x with
      | some v => .ok (List.replicate 32 v, w)
      | none => c.illegalOp : Except Stop (List Nat × Wave)) = .ok (l, w') → w' = w := by
    intro x hx
    cases x <;> cases hx
    rfl
  unfold readFrom at h
  cases o with
  | e n =>
    dsimp only at h
    split at h
    · cases h
    · split at h
      · next hpop =>
        cases h
        exact popE_pops (by simp) hpop
      · cases h
  | q k =>
    dsimp only at h
    split at h
    · cases h
    · split at h <;> split at h <;> cases h
      all_goals exact Pops.refl _ _
  | lane =>
    dsimp only at h
    split at h
    · cases h
    · split at h <;> cases h
      exact Pops.refl _ _
  | wave => exact hconst h ▸ Pops.refl _ _
  | int n => exact hconst h ▸ Pops.refl _ _
  | flt n => exact hconst h ▸ Pops.refl _ _
  | v n | s n | litHi =>
    dsimp only at h
    split at h <;> cases h
    exact Pops.refl _ _
  | zero | litLo | ones =>
    cases h
    exact Pops.refl _ _
  | p | m | special | reserved | none => cases h

theorem readSrc_pops {s : State} {c : Ctx} {w w' : Wave} {opc : Nat} {f : Fields} {scalar : Bool} {act : W32} {k : Nat} {l : List Nat}
    (h : readSrc s c w opc f scalar act k = .ok (l, w')) : Pops (fun n => f.op k == .e n) w w' := by
  unfold readSrc readLanes at h
  dsimp only at h
  split at h
  · cases h
  · next hread =>
    cases h
    exact readFrom_pops hread

theorem readSrcs_pops {s : State} {c : Ctx} {opc : Nat} {f : Fields} {scalar : Bool} {act : W32} {ks : List Nat} {w w' : Wave}
    {ls : List (List Nat)} (h : readSrcs s c opc f scalar act ks w = .ok (ls, w')) : Pops (readsQueue f ks) w w' := by
  induction ks generalizing w ls with
  | nil =>
    cases h
    exact Pops.refl _ _
  | cons k t ih =>
    unfold readSrcs at h
    split at h
    · cases h
    · next l w1 hk =>
      split at h
      · cases h
      · next ls' w2 ht =>
        cases h
        exact (readSrc_pops hk).trans (ih ht)

/-! ## Results (R17, R23, R75) -/

/-- `w'` is `w` in the queues that instructions read but for the result queue, which takes `n` entries, its oldest above 16 leaving. -/
def Pushes (n : Nat) (w w' : Wave) : Prop :=
  w'.e2 = w.e2 ∧ w'.e4 = w.e4 ∧ w'.e6 = w.e6 ∧ w'.seqE = w.seqE ∧ w'.e7 = w.e7 ∧ (n = 0 → w'.q = w.q) ∧
    ∃ l : List QEnt, l.length = n ∧ (l ≠ [] → w'.q = (l ++ w.q).take 16)

theorem SameQueues.pushes_zero {w w' : Wave} (h : SameQueues w w') : Pushes 0 w w' := by
  obtain ⟨h2, h4, h6, he, h7, hq⟩ := h
  exact ⟨h2, h4, h6, he, h7, fun _ => hq, [], rfl, fun h => absurd rfl h⟩

theorem SameQueues.pushes {n : Nat} {u v w : Wave} (huv : SameQueues u v) (hvw : Pushes n v w) : Pushes n u w := by
  obtain ⟨a2, a4, a6, ae, a7, aq⟩ := huv
  obtain ⟨b2, b4, b6, be, b7, bq, l, hl, hpush⟩ := hvw
  exact ⟨b2.trans a2, b4.trans a4, b6.trans a6, be.trans ae, b7.trans a7, fun h => (bq h).trans aq, l, hl, fun h => aq ▸ hpush h⟩

theorem Pushes.sameQueues {n : Nat} {u v w : Wave} (huv : Pushes n u v) (hvw : SameQueues v w) : Pushes n u w := by
  obtain ⟨a2, a4, a6, ae, a7, aq, l, hl, hpush⟩ := huv
  obtain ⟨b2, b4, b6, be, b7, bq⟩ := hvw
  exact ⟨b2.trans a2, b4.trans a4, b6.trans a6, be.trans ae, b7.trans a7, fun h => bq.trans (aq h), l, hl, fun h => bq.trans (hpush h)⟩

/-- One more entry enters the result queue after the others. -/
theorem Pushes.pushQ {n : Nat} {u v : Wave} (h : Pushes n u v) (valid : W32) (filled : Bool) (ready : Nat) (vals : List W32) :
    Pushes (n + 1) u (v.pushQ valid filled ready vals) := by
  obtain ⟨h2, h4, h6, he, h7, hq, l, hl, hpush⟩ := h
  refine ⟨h2, h4, h6, he, h7, fun h => absurd h n.succ_ne_zero, { tag := v.pushes, valid, filled, ready, vals } :: l,
    congrArg (· + 1) hl, fun _ => ?_⟩
  have hv : v.q.take 15 = (l ++ u.q).take 15 := by
    cases l with
    | nil => rw [hq hl.symm]; rfl
    | cons a t => rw [hpush (List.cons_ne_nil a t), List.take_take]; rfl
  show List.take 16 (_ :: v.q) = _
  rw [List.take_succ_cons, hv]
  rfl

theorem foldl_pushQ (valid : W32) (filled : Bool) (ready : Nat) (g : List W32 → List W32) (d : List Reg) (ws : List (List W32))
    (w : Wave) : SameOutside d w (ws.foldl (fun w l => w.pushQ valid filled ready (g l)) w) ∧
      Pushes ws.length w (ws.foldl (fun w l => w.pushQ valid filled ready (g l)) w) := by
  induction ws using List.reverseRecOn with
  | nil => exact ⟨SameOutside.refl _ w, (SameQueues.refl w).pushes_zero⟩
  | append_singleton ws l ih =>
    obtain ⟨hsame, hpush⟩ := ih
    rw [List.foldl_append, List.length_append]
    exact ⟨hsame.trans (pushQ_same _ _ _ _ _ _), hpush.pushQ _ _ _ _⟩

theorem putV_eq (w : Wave) (n : Nat) (mask : W32) (vals : List W32) : w.putV n mask vals = { w with v := (w.putV n mask vals).v } := by
  have key : ∀ (ps : List (Nat × W32)) (a : Wave), (ps.foldl (fun a p => if mask.getLsbD p.1 then a.setV n p.1 p.2 else a) a) =
      { a with v := (ps.foldl (fun a p => if mask.getLsbD p.1 then a.setV n p.1 p.2 else a) a).v } := by
    intro ps
    induction ps with
    | nil => exact fun a => rfl
    | cons p t ih =>
      intro a
      rw [List.foldl_cons, ih]
      split <;> rfl
  exact key _ w

/-- A write of a register leaves the others. -/
theorem put_same {r : RegWrite} {d : List Reg} (hd : r.reg ∈ d) (w : Wave) : SameOutside d w (w.put r) := by
  unfold Wave.put
  split
  case h_1 n hr =>
    rw [hr] at hd
    have hv : ∀ m l, Reg.v m ∉ d → l < 32 → (w.putV n r.mask r.vals).getV m l = w.getV m l := fun m l hm hl =>
      putV_other w n r.mask r.vals (fun h => hm (h ▸ hd)) hl
    refine ⟨hv, ?_⟩
    rw [putV_eq]
    exact (SameOutside.refl d w).2
  case h_2 n hr =>
    rw [hr] at hd
    split
    · exact SameOutside.refl d w
    · exact { SameOutside.refl d w with right.left := fun m hm => spGet_spSet_other _ _ _ fun h => hm (h ▸ hd) }
  case h_3 n hr =>
    rw [hr] at hd
    unfold Wave.setP
    split
    · exact SameOutside.refl d w
    · refine { SameOutside.refl d w with right.right.left := fun m hm => ?_ }
      have hne : m ≠ n := fun h => hm (h ▸ hd)
      unfold Wave.getP
      rw [spGet_spSet_other _ _ _ hne]
  case h_4 tag hr => exact SameOutside.refl d w

theorem put_queues {r : RegWrite} (hr : ∀ tag, r.reg ≠ .q tag) (w : Wave) : SameQueues w (w.put r) := by
  unfold Wave.put
  split
  case h_1 n _ =>
    rw [putV_eq]
    exact SameQueues.refl w
  case h_2 => split <;> exact SameQueues.refl w
  case h_3 n _ =>
    unfold Wave.setP
    split <;> exact SameQueues.refl w
  case h_4 tag h => exact absurd h (hr tag)

theorem write_same {r : RegWrite} {d : List Reg} (hd : r.reg ∈ d) (w : Wave) (clk lat : Nat) (scalar : Bool) :
    SameOutside d w (w.write clk lat scalar r) :=
  SameOutside.trans (v := (w.remember clk (clk + lat) scalar r.reg r.mask).overtake r.reg r.mask) (SameOutside.refl d w) (put_same hd _)

theorem write_queues {r : RegWrite} (hr : ∀ tag, r.reg ≠ .q tag) (w : Wave) (clk lat : Nat) (scalar : Bool) :
    SameQueues w (w.write clk lat scalar r) :=
  SameQueues.trans (v := (w.remember clk (clk + lat) scalar r.reg r.mask).overtake r.reg r.mask) (SameQueues.refl w) (put_queues hr _)

/-- A value's result writes the registers that its destination names. -/
theorem resultWrites_mem {o : Operand} {mask : W32} {pair : Bool} {vals : List Nat} {r : RegWrite}
    (h : r ∈ resultWrites o mask (wordsOf pair vals)) : r.reg ∈ destRegs o pair := by
  cases o with
  | v n | s n =>
    cases pair with
    | false =>
      obtain rfl := List.mem_singleton.1 h
      exact List.mem_singleton.2 rfl
    | true =>
      rcases List.mem_pair.1 h with rfl | rfl
      · exact List.mem_cons_self
      · exact List.mem_cons_of_mem _ List.mem_cons_self
  | p n =>
    obtain rfl := List.mem_singleton.1 h
    exact List.mem_singleton.2 rfl
  | _ => cases h

theorem destRegs_ne_q {o : Operand} {pair : Bool} {r : Reg} (h : r ∈ destRegs o pair) (tag : Nat) : r ≠ .q tag := by
  rintro rfl
  cases o <;> cases pair <;> simp [destRegs] at h

/-- The sticky bits that have been raised are all of MODE that a change of it brings (R23). -/
theorem modeAt_getLsbD (w : Wave) (clk : Nat) {k : Nat} (hk : k < 8 ∨ 13 ≤ k) : (w.modeAt clk).getLsbD k = w.mode.getLsbD k := by
  have hbit : ∀ x : BitVec 5, (BitVec.ofNat 32 (x.toNat * 256)).getLsbD k = false := by
    intro x
    rw [BitVec.getLsbD_ofNat, ← Nat.shiftLeft_eq x.toNat 8, Nat.testBit_shiftLeft]
    rcases hk with hk | hk
    · simp [Nat.not_le.2 hk]
    · rw [Nat.testBit_lt_two_pow (lt_of_lt_of_le x.isLt (Nat.pow_le_pow_right (by decide) (by omega : 5 ≤ k - 8)))]
      simp
  unfold Wave.modeAt
  generalize w.mode = m
  induction w.late generalizing m with
  | nil => rfl
  | cons x t ih =>
    rw [List.foldl_cons, ih]
    split
    · rw [BitVec.getLsbD_or, hbit, Bool.or_false]
    · rfl

theorem raise_same (d : List Reg) (w : Wave) (can : Bool) (clk lat fl : Nat) : SameOutside d w (w.raise can clk lat fl) := by
  unfold Wave.raise
  split
  · exact SameOutside.refl d w
  · refine ⟨fun _ _ _ _ => rfl, fun _ _ => rfl, fun _ _ => rfl, rfl, rfl, rfl, rfl, rfl, rfl, rfl, rfl, rfl, rfl, rfl, rfl, rfl, rfl,
      fun k hk => modeAt_getLsbD w clk hk⟩

theorem raise_queues (w : Wave) (can : Bool) (clk lat fl : Nat) : SameQueues w (w.raise can clk lat fl) := by
  unfold Wave.raise
  split <;> exact SameQueues.refl w

/-- Whether a result enters the result queue: that of a wide form with a v destination or none (R17). -/
def entersQ (o : Operand) (scalar : Bool) : Bool := !scalar && match o with
  | .v _ | .none => true
  | _ => false

/-- The result-queue entries of a result of `n` words. -/
def pushesOf (o : Operand) (scalar : Bool) (n : Nat) : Nat := if entersQ o scalar then n else 0

theorem valuePushes_eq (v : ValueOp) (opc : Nat) (f : Fields) :
    valuePushes v opc f = pushesOf f.op0 (isScalar opc f) (if v.pair then 2 else 1) := by
  unfold valuePushes pushesOf entersQ
  cases isScalar opc f <;> cases f.op0 <;> rfl

theorem deliverNow_eq (c : Ctx) (w : Wave) (o : Operand) (scalar : Bool) (mask : W32) (lat : Nat) (ws : List (List W32)) (fl : Nat) :
    deliverNow c w o scalar mask lat ws fl =
      let w1 := (resultWrites o mask ws).foldl (fun w r => w.write c.clk (if scalar then 1 else lat) scalar r) w
      (if entersQ o scalar then ws.foldl (fun w l => w.pushQ mask true (c.clk + lat) l) w1 else w1).raise c.raises c.clk
        (if scalar then 1 else lat) fl := rfl

theorem foldl_write_frame {d : List Reg} (clk lat : Nat) (scalar : Bool) {rs : List RegWrite} (hd : ∀ r ∈ rs, r.reg ∈ d)
    (hq : ∀ r ∈ rs, ∀ tag, r.reg ≠ .q tag) (w : Wave) :
    SameOutside d w (rs.foldl (fun w r => w.write clk lat scalar r) w) ∧
      SameQueues w (rs.foldl (fun w r => w.write clk lat scalar r) w) := by
  induction rs generalizing w with
  | nil => exact ⟨SameOutside.refl d w, SameQueues.refl w⟩
  | cons r t ih =>
    obtain ⟨hsame, hqueues⟩ := ih (fun x hx => hd x (List.mem_cons_of_mem r hx)) (fun x hx => hq x (List.mem_cons_of_mem r hx))
      (w.write clk lat scalar r)
    exact ⟨(write_same (hd r List.mem_cons_self) w _ _ _).trans hsame, (write_queues (hq r List.mem_cons_self) w _ _ _).trans hqueues⟩

/-- Where a result enters the result queue, each of its words is an entry. -/
theorem pushing_frame (d : List Reg) (o : Operand) (scalar : Bool) (valid : W32) (filled : Bool) (ready : Nat)
    (g : List W32 → List W32) (ws : List (List W32)) (w : Wave) :
    SameOutside d w (if entersQ o scalar then ws.foldl (fun w l => w.pushQ valid filled ready (g l)) w else w) ∧
      Pushes (pushesOf o scalar ws.length) w
        (if entersQ o scalar then ws.foldl (fun w l => w.pushQ valid filled ready (g l)) w else w) := by
  unfold pushesOf
  split
  · exact foldl_pushQ valid filled ready g d ws w
  · exact ⟨SameOutside.refl d w, (SameQueues.refl w).pushes_zero⟩

theorem deliverNow_frame {d : List Reg} {o : Operand} {mask : W32} {ws : List (List W32)}
    (hd : ∀ r ∈ resultWrites o mask ws, r.reg ∈ d) (hq : ∀ r ∈ resultWrites o mask ws, ∀ tag, r.reg ≠ .q tag) (c : Ctx) (w : Wave)
    (scalar : Bool) (lat fl : Nat) :
    SameOutside d w (deliverNow c w o scalar mask lat ws fl) ∧
      Pushes (pushesOf o scalar ws.length) w (deliverNow c w o scalar mask lat ws fl) := by
  rw [deliverNow_eq]
  obtain ⟨hwrites, hqueues⟩ := foldl_write_frame c.clk (if scalar then 1 else lat) scalar hd hq w
  obtain ⟨hpush, hpushes⟩ := pushing_frame d o scalar mask true (c.clk + lat) id ws
    ((resultWrites o mask ws).foldl (fun w r => w.write c.clk (if scalar then 1 else lat) scalar r) w)
  exact ⟨(hwrites.trans hpush).trans (raise_same d _ _ _ _ _), (hqueues.pushes hpushes).sameQueues (raise_queues _ _ _ _ _)⟩

/-- Long-latency work writes no register before it completes. -/
theorem startLong_frame (d : List Reg) (c : Ctx) (w : Wave) (f : Fields) (id : Nat) (o : Operand) (scalar : Bool) (mask : W32) (ready : Bool)
    (ws : List (List W32)) (fl : Nat) (rast : Option Rast) :
    SameOutside d w (startLong c w f id o scalar mask ready ws fl rast) ∧
      Pushes (pushesOf o scalar ws.length) w (startLong c w f id o scalar mask ready ws fl rast) := by
  unfold startLong
  dsimp only
  split
  · exact pushing_frame d o scalar 0 true c.clk (fun l => l) ws w
  · exact pushing_frame d o scalar mask false c.clk (fun _ => List.replicate 32 0) ws w

/-! ## The frame -/

theorem result_onlyWave (s : State) (c : Ctx) (w : Wave) (f : Fields) (o : Operand) (scalar long : Bool) (mask : W32) (lat : Nat)
    (pair : Bool) (vals : List Nat) (fl : Nat) :
    ∃ w', OnlyWave { blk := c.ref.blk, wave := c.ref.wave } (fun _ => w') s
        (result s c w f o scalar long mask lat (wordsOf pair vals) fl) ∧
      SameOutside (destRegs o pair) w w' ∧ Pushes (pushesOf o scalar (if pair then 2 else 1)) w w' := by
  have hlen : (wordsOf pair vals).length = if pair then 2 else 1 := by cases pair <;> rfl
  rw [← hlen]
  unfold result
  split
  · exact ⟨_, ⟨rfl, rfl⟩, startLong_frame ..⟩
  · exact ⟨_, ⟨rfl, rfl⟩, deliverNow_frame (fun r hr => resultWrites_mem hr) (fun r hr => destRegs_ne_q (resultWrites_mem hr)) ..⟩

/-- The issuing wave has the number by which its entry is named. -/
theorem ctxOf_wave {s : State} {c : Ctx} (h : ctxOf s = some c) : c.w.wave = c.ref.wave := by
  unfold ctxOf at h
  split at h
  · cases h
  · next r _ =>
    split at h
    · cases h
    · next b _ =>
      split at h
      · cases h
      · next w hw =>
        split at h
        · cases h
        · split at h
          · cases h
            simpa using List.find?_some hw
          · cases h

theorem SameOutside.wave_eq {d : List Reg} {w w' : Wave} (h : SameOutside d w w') : w'.wave = w.wave := by
  obtain ⟨-, -, -, -, -, -, -, -, -, -, -, -, -, h, -⟩ := h
  exact h

theorem OnlyWave.of_begun {r : WRef} {g : Wave → Wave} {s t : State} (h : OnlyWave r g s.begun t) : OnlyWave r g s t :=
  ⟨congrArg (fun x : State => { x with free := s.free }) h.1, h.2⟩

theorem queuesAfter_of_pops {v : ValueOp} {opc : Nat} {f : Fields} {w0 w1 w2 w3 : Wave} (h1 : Pops (readsQueue f v.srcs) w0 w1)
    (h2 : Pushes (valuePushes v opc f) w1 w2) (h3 : SameQueues w2 w3) : QueuesAfter v opc f w0 w3 := by
  obtain ⟨p2, p4, p6, pe, p7, pq, l, hl, hpush⟩ := h2.sameQueues h3
  unfold QueuesAfter
  rw [p2, p4, p6, pe, p7, ← h1.q_eq]
  exact ⟨h1.e2, h1.e4, h1.e6, h1.e7, pq, l, hl, hpush⟩

/-- The tables of value instructions complete with the value's effect. -/
theorem exec_valueEffect {i : Instr} {opc : Nat} {f : Fields} {v : ValueOp} {s : State} {c : Ctx} {ls : List (List Nat)} {w : Wave}
    (ht : integerValue i = some (opc, f, v) ∨ bitValue i = some (opc, f, v) ∨ floatValue i = some (opc, f, v) ∨
      conversionValue i = some (opc, f, v)) (hready : ValueReady v opc f s c ls w) :
    exec i s = goesOn c f (valueEffect v opc f s.begun c ls w) := by
  rcases ht with ht | ht | ht | ht
  · exact integerValuesComplete _ _ _ _ _ _ _ _ ht hready
  · exact bitValuesComplete _ _ _ _ _ _ _ _ ht hready
  · exact floatValuesComplete _ _ _ _ _ _ _ _ ht hready
  · exact conversionValuesComplete _ _ _ _ _ _ _ _ ht hready

/-- Settles O56: the sources pop their queues, the result writes its destination and pushes its entries, and the entry's going on settles
the wave: three changes of the one wave. -/
theorem valueInstructionsFrame : Obligations.ValueInstructionsFrame := by
  unfold Obligations.ValueInstructionsFrame
  refine ⟨fun i opc f v s c ls w ht hready => ?_, fun c f s t h => ?_, fun c s t h => ?_⟩
  · have hexec := exec_valueEffect ht hready
    obtain ⟨⟨hctx, -, -, -⟩, -, -, hread⟩ := hready
    have hpops := readSrcs_pops hread
    obtain ⟨w', honly, hsame, hpush⟩ := result_onlyWave s.begun c w f f.op0 (isScalar opc f)
      (v.long || popsQueue f (positions v.srcs)) (c.parts f) v.lat v.pair
      ((laneResults v c (isScalar opc f) (c.parts f) ls).map fun r => r.1) (allFlags (laneResults v c (isScalar opc f) (c.parts f) ls))
    have hall := (hpops.same _).trans hsame
    have hnum : w'.wave = c.ref.wave := hall.wave_eq.trans (ctxOf_wave hctx)
    refine ⟨_, _, hexec, OnlyWave.trans (t := valueEffect v opc f s.begun c ls w) honly.of_begun (advance_onlyWave c f _)
      fun _ _ => hnum, hall.trans (goOnWave_same _ c f _ w'),
      queuesAfter_of_pops hpops (valuePushes_eq v opc f ▸ hpush) (goOnWave_queues c f _ w')⟩
  · cases h
    exact ⟨_, advance_onlyWave c f s, fun w => ⟨goOnWave_same [] c f s w, goOnWave_queues c f s w⟩⟩
  · cases h
    exact settleAt_onlyWave s _

end Sys2Proof.Machine
end
